-- ==== Sys2Proof/Word.lean ====
section
/-!
DEFINITION. The word types of the machine and their plainest arithmetic.

A lane register is 64 bits (R16), a byte 8 bits, an instruction word 96 bits (R158), a buffer record 256 bits (R19).
-/

namespace Sys2Proof

/-- One byte of memory. -/
abbrev Byte := BitVec 8

/-- One 64-bit register value. -/
abbrev Word := BitVec 64

/-- One 96-bit instruction word (R158). -/
abbrev Code := BitVec 96

/-- One 256-bit buffer record (R19). -/
abbrev BufRec := BitVec 256

end Sys2Proof
end

