-- ==== Sys2Proof/Fields.lean ====
section
/-!
DEFINITION. The parts of an instruction word as data (R159, R163 to R171), and the parameters of the machine's events.

An operand is a constructor naming its register, never a raw code.
An event's parameters say which of the steps that the rules allow is taken, and carry the readings of the outside world.
-/

namespace Sys2Proof

/-- The named system operands (R189). -/
inductive SysReg where
  | laneid | grpidx | crewid | taskid | gridix | core | cluster | die | width | ngroup | rows | state | split
  | defmask | clock | memcap | mapphase | param | trapcause | trapinfo | flags | prio | block | obbase | accbase
  deriving DecidableEq, Repr, Inhabited

/-- An operand of an instruction word (R165). -/
inductive Opnd where
  | v (n : BitVec 8)
  | s (n : BitVec 6)
  | p (n : BitVec 4)
  | b (n : BitVec 4)
  | a (n : BitVec 4)
  | q (n : BitVec 2)
  | k (n : BitVec 3)
  | sys (r : SysReg)
  | imm
  deriving DecidableEq, Repr, Inhabited

/-- The header of a word, without the PAIR bit, which the constructor says (R159). -/
structure Hdr where
  slot  : BitVec 3
  gneg  : Bool
  gpred : BitVec 4
  stall : BitVec 5
  yh    : Bool
  rh    : Bool
  deriving DecidableEq, Repr, Inhabited

/-- Form R of the format-specific bits (R164). -/
structure FormR where
  srcc  : Opnd
  ssel  : BitVec 3
  type2 : BitVec 3
  imm8  : BitVec 8
  sub   : BitVec 4
  uns   : Bool
  sat   : Bool
  rnd   : BitVec 2
  deriving DecidableEq, Repr, Inhabited

/-- Form I of the format-specific bits (R164). -/
structure FormI where
  imm32 : BitVec 32
  sub2  : BitVec 2
  uns   : Bool
  sat   : Bool
  rnd   : BitVec 2
  deriving DecidableEq, Repr, Inhabited

/-- Form M of the format-specific bits (R164). -/
structure FormM where
  subm  : BitVec 3
  order : BitVec 2
  cache : BitVec 2
  scope : BitVec 3
  imm24 : BitVec 24
  bidx  : BitVec 4
  deriving DecidableEq, Repr, Inhabited

/-- The 38 format-specific bits in one of their three layouts (R164). -/
inductive Fs where
  | r (f : FormR)
  | i (f : FormI)
  | m (f : FormM)
  deriving DecidableEq, Repr, Inhabited

/-- A word that is not a pair word: header and fields (R163). -/
structure Body where
  hdr : Hdr
  ty  : BitVec 3
  dst : Opnd
  a   : Opnd
  b   : Opnd
  fs  : Fs
  deriving DecidableEq, Repr, Inhabited

/-- The half-operations of half 1 (R170). -/
inductive HalfOp1 where
  | iadd | isub | imin | imax | ineg | iabs | and | or | xor | andn | not | shl | shr | sar | rol | ror | empty
  deriving DecidableEq, Repr, Inhabited

/-- The half-operations of half 2 (R170). -/
inductive HalfOp2 where
  | imul | imad | fmul | ffma | empty
  deriving DecidableEq, Repr, Inhabited

/-- Half 1 of a pair word (R169). -/
structure Half1 where
  hop : HalfOp1
  ty  : BitVec 2
  d   : BitVec 8
  a   : BitVec 8
  b   : BitVec 8
  c   : BitVec 8
  deriving DecidableEq, Repr, Inhabited

/-- Half 2 of a pair word (R169). -/
structure Half2 where
  hop : HalfOp2
  ty  : BitVec 2
  d   : BitVec 8
  a   : BitVec 8
  b   : BitVec 8
  c   : BitVec 8
  deriving DecidableEq, Repr, Inhabited

/-! ### Parameters of events -/

/-- A group: its crew's unique number and its index in the crew. -/
structure GRef where
  crew : Nat
  grp  : Nat
  deriving DecidableEq, Repr, Inhabited

/-- An issue entity: a group and the index of its split (R12). -/
structure Member where
  crew : Nat
  grp  : Nat
  ent  : Nat
  deriving DecidableEq, Repr, Inhabited

/-- What a page walk translates (R351): a line of a memory word, an engine's line, or a code segment. -/
inductive WalkReq where
  | word (g : GRef) (seq lane : Nat)
  | copy (core slot : Nat) (va : Nat) (write : Bool)
  | record (m : Member)
  | fetch (m : Member)
  deriving DecidableEq, Repr, Inhabited

/-- Where a posted task record comes from (R256, R340). -/
inductive PostSrc where
  | spawn (m : Member)
  | host (fn q : Nat)
  deriving DecidableEq, Repr, Inhabited

/-- What an uncorrectable error strikes (R401, R240, R112, R362). -/
inductive ErrWho where
  | nobody
  | laneRead (g : GRef) (seq lane : Nat)
  | copyLine (core slot off len : Nat)
  | crew (uid : Nat)
  | tumbler
  | walk (r : WalkReq) (useCache : Bool)
  deriving DecidableEq, Repr, Inhabited

/-- A location of the four that a physical address names (R374). -/
inductive PLoc where
  | tier1 | tier2 | host | remote (m : BitVec 8)
  deriving DecidableEq, Repr, Inhabited

/-- What a register write of the host carries: its size in bytes and its value (R388). -/
structure RegData where
  size : Nat
  val : Word
  deriving DecidableEq, Repr, Inhabited

/-- An access of the host or of a peer module (R89), or the loading of an image (R308, R314). -/
inductive HostOp where
  | store (l : PLoc) (pa : Nat) (bytes : List Byte)
  | read (l : PLoc) (pa : Nat) (len : Nat)
  | moveLine (l : PLoc) (pa : Nat) (l' : PLoc) (pa' : Nat)
  | readReg (fn : Nat) (off : Nat) (size : Nat)
  | loadImage (part : Nat) (base : Nat)
  deriving DecidableEq, Repr, Inhabited

/-- A self-managing power block (R408). -/
inductive PowerBlock where
  | cluster (n : Nat) | stack (n : Nat) | port (n : Nat)
  deriving DecidableEq, Repr, Inhabited

/-- What a module reset and the boot that it starts come to (R7, R396, R397): the reset itself; the running step is over and the next one runs; the running step fails with
a cause; step 6 is over, with the ports that have trained and their peers. -/
inductive BootTrial where
  | start
  | next
  | fail (cause : BitVec 8)
  | ready (ports : List (Nat × BitVec 8))
  deriving DecidableEq, Repr, Inhabited

end Sys2Proof
end

