-- ==== Sys2Proof/Syntax.lean ====
section
/-!
DEFINITION. The instruction syntax: one constructor per row of the opcode table.

The first and the last constructors are the machine's events (95 of the spec); the others are the instruction words of R172 and the pair word of R169.
-/

namespace Sys2Proof

/-- The rows of the opcode table: events of the machine and instruction words. -/
inductive Instr where
  /-- ISSUE_CHOICE (R14). -/
  | issueChoice (core pipe : Nat)
  /-- RESULT_LAND (R318). -/
  | resultLand (g : GRef)
  /-- STATE_VOTE (R33). -/
  | stateVote (g : GRef)
  /-- SPLIT_GROUP_CYCLE (R37). -/
  | splitGroupCycle (g : GRef)
  /-- STATE_ENTRY_COUNT_LIMIT (R42). -/
  | stateEntryCountLimit (m : Member)
  /-- CODE_SEGMENT_DELIVER (R10). -/
  | codeSegmentDeliver (m : Member)
  /-- PERFORM (R67). -/
  | perform (g : GRef) (seq lane : Nat)
  /-- DRAIN (R67). -/
  | drain (g : GRef) (seq lane : Nat)
  /-- PROPAGATE (R67). -/
  | propagate (id : Nat)
  /-- MAP_POINT_PASS (R84). -/
  | mapPointPass (g : GRef) (seq lane : Nat)
  /-- REPLAY (R240). -/
  | replay (g : GRef) (seq : Nat)
  /-- COPY_ACCEPT (R106). -/
  | copyAccept (core : Nat)
  /-- KICK_READ_COMPLETE (R106). -/
  | kickReadComplete (crew : Nat)
  /-- COPY_LINE_ARRIVE (R108). -/
  | copyLineArrive (core slot off len : Nat)
  /-- MATRIX_OP_START (R263). -/
  | matrixOpStart (core : Nat)
  /-- MATRIX_OP_COMPLETE (R137). -/
  | matrixOpComplete (core : Nat)
  /-- BERYL_OP_COMPLETE (R149). -/
  | berylOpComplete (core : Nat)
  /-- RACQ_GRANT (R22). -/
  | racqGrant (core : Nat)
  /-- BAR_COMPLETE (R114). -/
  | barComplete (crew n : Nat)
  /-- TBWAIT_END (R254). -/
  | tbwaitEnd (m : Member)
  /-- WAITA_END (R120). -/
  | waitaEnd (m : Member)
  /-- TWAIT_END (R137). -/
  | twaitEnd (m : Member)
  /-- MWAIT_WAKE (R122). -/
  | mwaitWake (m : Member)
  /-- MWAIT_TIMEOUT (R122). -/
  | mwaitTimeout (m : Member)
  /-- XRED_HOP (R260). -/
  | xredHop (rid blk : Nat) (remote : BitVec 264)
  /-- PREEMPT_RAISE (R346). -/
  | preemptRaise (crew : Nat)
  /-- GRACE_EXPIRY (R346). -/
  | graceExpiry (crew : Nat)
  /-- CREW_FLIP (R366). -/
  | crewFlip (crew : Nat)
  /-- SHADOW_DRAIN (R367). -/
  | shadowDrain (core crew : Nat)
  /-- CREW_RESTORE (R369). -/
  | crewRestore (crew core : Nat)
  /-- TASK_ENTER (R258). -/
  | taskEnter (src : PostSrc)
  /-- PLACEMENT_DECISION (R343). -/
  | placementDecision (part core : Nat)
  /-- CREW_RETIRE (R341). -/
  | crewRetire (crew : Nat)
  /-- QUEUE_RECORD_READ (R340). -/
  | queueRecordRead (fn q img : Nat)
  /-- KILL (R347). -/
  | kill
  /-- PAGE_WALK (R354). -/
  | pageWalk (r : WalkReq) (useCache contigFirst : Bool)
  /-- FAQ_RECORD_POST (R361). -/
  | faqRecordPost
  /-- TLB_FLUSH (R357). -/
  | tlbFlush (second : Bool) (unit idx : Nat)
  /-- SHOOTDOWN_COMPLETE (R359). -/
  | shootdownComplete
  /-- TUMBLER_GRANULE_MOVE (R382). -/
  | tumblerGranuleMove
  /-- STACK_FREEZE (R385). -/
  | stackFreeze (k : Nat) (temp : BitVec 8)
  /-- STACK_RESUME (R385). -/
  | stackResume (k : Nat) (temp : BitVec 8)
  /-- FREEZE_TIMEOUT (R405). -/
  | freezeTimeout (k : Nat)
  /-- REFRESH_INTERRUPT (R386). -/
  | refreshInterrupt (k : Nat)
  /-- ERROR_DETECT (R401). -/
  | errorDetect (unit : BitVec 4) (unc : Bool) (place : BitVec 8) (loc : BitVec 28) (who : ErrWho)
  /-- SELF_TEST_COMPLETE (R403). -/
  | selfTestComplete (entry : Nat) (pass : Bool)
  /-- SPARE_ROW_MAP (R404). -/
  | spareRowMap (core : Nat)
  /-- MONITOR_SAMPLE (R407). -/
  | monitorSample (unit : Nat) (v : BitVec 32)
  /-- CLOCK_STEP_DOWN (R408). -/
  | clockStepDown (die : Nat) (temp : BitVec 8) (power : BitVec 16)
  /-- CLOCK_STEP_UP (R408). -/
  | clockStepUp (die : Nat) (temp : BitVec 8) (power : BitVec 16)
  /-- THERMAL_SHUTDOWN (R408). -/
  | thermalShutdown (temp : BitVec 8)
  /-- POWER_GATE (R408). -/
  | powerGate (b : PowerBlock)
  /-- POWER_WAKE (R408). -/
  | powerWake (b : PowerBlock)
  /-- FLIT_RETRY (R393). -/
  | flitRetry (port : Nat)
  /-- FLIT_RETRY_LIMIT (R395). -/
  | flitRetryLimit (port : Nat)
  /-- PORT_UP (R394). -/
  | portUp (port : Nat) (peer : BitVec 8)
  /-- PORT_DOWN (R400). -/
  | portDown (port : Nat)
  /-- PEER_RESET (R395). -/
  | peerReset (module : BitVec 8)
  /-- MODULE_RESET (R7). -/
  | moduleReset (boot : BootTrial)
  /-- FUNCTION_LEVEL_RESET (R391). -/
  | functionLevelReset (fn : Nat)
  /-- REGISTER_WRITE (R6). -/
  | registerWrite (fn off : Nat) (d : RegData)
  /-- Q_TAIL_WRITE (R340). -/
  | qTailWrite (fn q : Nat) (v : Word)
  /-- Q_CFG_WRITE (R340). -/
  | qCfgWrite (fn q : Nat) (v : Word)
  /-- DEV_PARTROOT_WRITE (R339). -/
  | devPartrootWrite (part : Nat) (v : Word)
  /-- KWY_REFRESH (R348). -/
  | kwyRefresh
  /-- KWY_KILL (R348). -/
  | kwyKill
  /-- KWY_DRAIN (R349). -/
  | kwyDrain
  /-- KWY_END_DRAIN (R349). -/
  | kwyEndDrain
  /-- MAP_SHOOTDOWN (R358). -/
  | mapShootdown (part : BitVec 5)
  /-- MAP_HARVEST (R358). -/
  | mapHarvest (part : BitVec 5)
  /-- FAQ_RESP_RESOLVED (R364). -/
  | faqRespResolved (token : BitVec 32)
  /-- FAQ_RESP_DECLINED (R364). -/
  | faqRespDeclined (token : BitVec 32)
  /-- CAP_LIVE_WRITE (R378). -/
  | capLiveWrite (v : Word)
  /-- TMB_RETIRE (R381). -/
  | tmbRetire (stack : BitVec 4)
  /-- MBOX_READ_ENTRY (R392). -/
  | mboxReadEntry (arg : BitVec 16)
  /-- MBOX_APPEND (R392). -/
  | mboxAppend
  /-- MBOX_READ_COUNT (R392). -/
  | mboxReadCount
  /-- SEC_REPORT_REQUEST (R398). -/
  | secReportRequest
  /-- SEC_REPORT_DONE (R398). -/
  | secReportDone
  /-- SEC_NONCE_WRITE (R399). -/
  | secNonceWrite (i : Nat) (v : Word)
  /-- MON_CTL_WRITE (R407). -/
  | monCtlWrite (unit : Nat) (v : Word)
  /-- BR (R180). -/
  | br (w : Body)
  /-- BRC (R180). -/
  | brc (w : Body)
  /-- BRX (R180). -/
  | brx (w : Body)
  /-- CALL (R181). -/
  | call (w : Body)
  /-- CALLX (R181). -/
  | callx (w : Body)
  /-- RET (R181). -/
  | ret (w : Body)
  /-- EXIT (R185). -/
  | exit (w : Body)
  /-- YIELD (R185). -/
  | yield (w : Body)
  /-- NOP (R185). -/
  | nop (w : Body)
  /-- BKPT (R186). -/
  | bkpt (w : Body)
  /-- TRAP (R186). -/
  | trap (w : Body)
  /-- TRET (R187). -/
  | tret (w : Body)
  /-- PMDONE (R188). -/
  | pmdone (w : Body)
  /-- SRD (R190). -/
  | srd (w : Body)
  /-- SWR (R190). -/
  | swr (w : Body)
  /-- RACQ (R191). -/
  | racq (w : Body)
  /-- RACQ_TRY (R191). -/
  | racqTry (w : Body)
  /-- RREL (R191). -/
  | rrel (w : Body)
  /-- GANG (R192). -/
  | gang (w : Body)
  /-- BRRD (R193). -/
  | brrd (w : Body)
  /-- BRWR (R193). -/
  | brwr (w : Body)
  /-- VOTE (R194). -/
  | vote (w : Body)
  /-- SPLITQ (R195). -/
  | splitq (w : Body)
  /-- PAND (R196). -/
  | pand (w : Body)
  /-- POR (R196). -/
  | por (w : Body)
  /-- PXOR (R196). -/
  | pxor (w : Body)
  /-- PNOT (R196). -/
  | pnot (w : Body)
  /-- IADD (R200). -/
  | iadd (w : Body)
  /-- ISUB (R200). -/
  | isub (w : Body)
  /-- IADDS (R200). -/
  | iadds (w : Body)
  /-- ISUBS (R200). -/
  | isubs (w : Body)
  /-- INEG (R200). -/
  | ineg (w : Body)
  /-- IABS (R200). -/
  | iabs (w : Body)
  /-- IMIN (R200). -/
  | imin (w : Body)
  /-- IMAX (R200). -/
  | imax (w : Body)
  /-- ICLAMP (R200). -/
  | iclamp (w : Body)
  /-- ISAD (R200). -/
  | isad (w : Body)
  /-- IMUL (R201). -/
  | imul (w : Body)
  /-- IMULH (R201). -/
  | imulh (w : Body)
  /-- IMAD (R201). -/
  | imad (w : Body)
  /-- IDIV (R201). -/
  | idiv (w : Body)
  /-- IREM (R201). -/
  | irem (w : Body)
  /-- AND (R202). -/
  | and (w : Body)
  /-- OR (R202). -/
  | or (w : Body)
  /-- XOR (R202). -/
  | xor (w : Body)
  /-- ANDN (R202). -/
  | andn (w : Body)
  /-- NOT (R202). -/
  | not (w : Body)
  /-- TERN (R202). -/
  | tern (w : Body)
  /-- SHL (R203). -/
  | shl (w : Body)
  /-- SHR (R203). -/
  | shr (w : Body)
  /-- SAR (R203). -/
  | sar (w : Body)
  /-- ROL (R203). -/
  | rol (w : Body)
  /-- ROR (R203). -/
  | ror (w : Body)
  /-- FSH (R203). -/
  | fsh (w : Body)
  /-- POPC (R204). -/
  | popc (w : Body)
  /-- CLZ (R204). -/
  | clz (w : Body)
  /-- CTZ (R204). -/
  | ctz (w : Body)
  /-- BREV (R204). -/
  | brev (w : Body)
  /-- BFE (R205). -/
  | bfe (w : Body)
  /-- BFI (R205). -/
  | bfi (w : Body)
  /-- ICMP (R206). -/
  | icmp (w : Body)
  /-- SEL (R207). -/
  | sel (w : Body)
  /-- MOV (R207). -/
  | mov (w : Body)
  /-- MOVI (R207). -/
  | movi (w : Body)
  /-- IEXT (R208). -/
  | iext (w : Body)
  /-- INARROW (R208). -/
  | inarrow (w : Body)
  /-- PACK (R208). -/
  | pack (w : Body)
  /-- UNPACK (R208). -/
  | unpack (w : Body)
  /-- SHFL (R210). -/
  | shfl (w : Body)
  /-- BCAST (R210). -/
  | bcast (w : Body)
  /-- LSCAN (R211). -/
  | lscan (w : Body)
  /-- LRED (R211). -/
  | lred (w : Body)
  /-- RGATH (R212). -/
  | rgath (w : Body)
  /-- COMPACT (R213). -/
  | compact (w : Body)
  /-- FADD (R217). -/
  | fadd (w : Body)
  /-- FSUB (R217). -/
  | fsub (w : Body)
  /-- FMUL (R217). -/
  | fmul (w : Body)
  /-- FFMA (R217). -/
  | ffma (w : Body)
  /-- FMIN (R218). -/
  | fmin (w : Body)
  /-- FMAX (R218). -/
  | fmax (w : Body)
  /-- FCMP (R219). -/
  | fcmp (w : Body)
  /-- FCLASS (R220). -/
  | fclass (w : Body)
  /-- FROUND (R221). -/
  | fround (w : Body)
  /-- FSCALE (R222). -/
  | fscale (w : Body)
  /-- FRCP (R223). -/
  | frcp (w : Body)
  /-- FRSQ (R223). -/
  | frsq (w : Body)
  /-- FSQRT (R223). -/
  | fsqrt (w : Body)
  /-- FDIV (R223). -/
  | fdiv (w : Body)
  /-- FEXP2 (R223). -/
  | fexp2 (w : Body)
  /-- FLOG2 (R223). -/
  | flog2 (w : Body)
  /-- FSIN (R223). -/
  | fsin (w : Body)
  /-- FCOS (R223). -/
  | fcos (w : Body)
  /-- FTANH (R223). -/
  | ftanh (w : Body)
  /-- FSIGM (R223). -/
  | fsigm (w : Body)
  /-- FCVT (R227). -/
  | fcvt (w : Body)
  /-- F2I (R228). -/
  | f2i (w : Body)
  /-- I2F (R229). -/
  | i2f (w : Body)
  /-- MXQ (R231). -/
  | mxq (w : Body)
  /-- MXDQ (R232). -/
  | mxdq (w : Body)
  /-- Q4PK (R233). -/
  | q4pk (w : Body)
  /-- Q4UPK (R234). -/
  | q4upk (w : Body)
  /-- FDOT (R235). -/
  | fdot (w : Body)
  /-- PAIR_WORD (R171). -/
  | pair (h : Hdr) (x : Half1) (y : Half2)
  /-- LD (R243). -/
  | ld (w : Body)
  /-- ST (R243). -/
  | st (w : Body)
  /-- LDS (R243). -/
  | lds (w : Body)
  /-- PREF (R243). -/
  | pref (w : Body)
  /-- LD_X (R244). -/
  | ldX (w : Body)
  /-- ST_X (R244). -/
  | stX (w : Body)
  /-- SLD (R245). -/
  | sld (w : Body)
  /-- SST (R245). -/
  | sst (w : Body)
  /-- RECLD (R245). -/
  | recld (w : Body)
  /-- ATOM (R246). -/
  | atom (w : Body)
  /-- INCB (R246). -/
  | incb (w : Body)
  /-- CELLADD (R247). -/
  | celladd (w : Body)
  /-- CELLRD (R247). -/
  | cellrd (w : Body)
  /-- CELLCLR (R247). -/
  | cellclr (w : Body)
  /-- FENCE (R248). -/
  | fence (w : Body)
  /-- CODEFENCE (R248). -/
  | codefence (w : Body)
  /-- RFENCE (R248). -/
  | rfence (w : Body)
  /-- OPFENCE (R248). -/
  | opfence (w : Body)
  /-- MONITOR (R249). -/
  | monitor (w : Body)
  /-- MWAIT (R250). -/
  | mwait (w : Body)
  /-- WAITA (R250). -/
  | waita (w : Body)
  /-- ACPY (R251). -/
  | acpy (w : Body)
  /-- CKICK (R252). -/
  | ckick (w : Body)
  /-- TBINIT (R253). -/
  | tbinit (w : Body)
  /-- TBEXPECT (R253). -/
  | tbexpect (w : Body)
  /-- TBARRIVE (R253). -/
  | tbarrive (w : Body)
  /-- TBWAIT (R254). -/
  | tbwait (w : Body)
  /-- TBTEST (R254). -/
  | tbtest (w : Body)
  /-- BAR (R255). -/
  | bar (w : Body)
  /-- SPAWN (R256). -/
  | spawn (w : Body)
  /-- XRED (R259). -/
  | xred (w : Body)
  /-- OBRES (R264). -/
  | obres (w : Body)
  /-- OBREL (R264). -/
  | obrel (w : Body)
  /-- OBST (R265). -/
  | obst (w : Body)
  /-- OBLD (R265). -/
  | obld (w : Body)
  /-- WBLD (R266). -/
  | wbld (w : Body)
  /-- MMA (R268). -/
  | mma (w : Body)
  /-- MMAS (R268). -/
  | mmas (w : Body)
  /-- TWAIT (R270). -/
  | twait (w : Body)
  /-- AMLD (R271). -/
  | amld (w : Body)
  /-- AMST (R271). -/
  | amst (w : Body)
  /-- AMZERO (R272). -/
  | amzero (w : Body)
  /-- AMCVT (R273). -/
  | amcvt (w : Body)
  /-- PRUNE48 (R275). -/
  | prune48 (w : Body)
  /-- BMAP (R276). -/
  | bmap (w : Body)
  /-- SPEXP (R277). -/
  | spexp (w : Body)
  /-- QINIT (R279). -/
  | qinit (w : Body)
  /-- QDEG (R279). -/
  | qdeg (w : Body)
  /-- QMUL (R280). -/
  | qmul (w : Body)
  /-- QMULS (R280). -/
  | qmuls (w : Body)
  /-- QDIV (R280). -/
  | qdiv (w : Body)
  /-- QCONV (R281). -/
  | qconv (w : Body)
  /-- QRD (R282). -/
  | qrd (w : Body)
  /-- QNORM (R281). -/
  | qnorm (w : Body)
  /-- QSAVE (R283). -/
  | qsave (w : Body)
  /-- QLOAD (R283). -/
  | qload (w : Body)
  /-- HOST_ACCESS (R89). -/
  | hostAccess (op : HostOp)
  /-- MAILBOX_RESPONSE_READY (R392). -/
  | mailboxResponseReady
  deriving DecidableEq, Repr, Inhabited

/-- One entry of the machine's agenda: the time that passes first, in nanoseconds of CLOCK and in cycles of each die, and the step that is then taken (R67). -/
structure Sched where
  ns : Nat
  c0 : Nat
  c1 : Nat
  ev : Instr
  deriving DecidableEq, Repr, Inhabited

/-- The instruction words that are not pair words, by name (R172). -/
inductive Op where
  | br | brc | brx | call | callx | ret | exit | yield | nop | bkpt | trap | tret | pmdone | srd | swr | racq
  | racqTry | rrel | gang | brrd | brwr | vote | splitq | pand | por | pxor | pnot | iadd | isub | iadds | isubs
  | ineg | iabs | imin | imax | iclamp | isad | imul | imulh | imad | idiv | irem | and | or | xor | andn | not
  | tern | shl | shr | sar | rol | ror | fsh | popc | clz | ctz | brev | bfe | bfi | icmp | sel | mov | movi | iext
  | inarrow | pack | unpack | shfl | bcast | lscan | lred | rgath | compact | fadd | fsub | fmul | ffma | fmin | fmax
  | fcmp | fclass | fround | fscale | frcp | frsq | fsqrt | fdiv | fexp2 | flog2 | fsin | fcos | ftanh | fsigm | fcvt
  | f2i | i2f | mxq | mxdq | q4pk | q4upk | fdot | ld | st | lds | pref | ldX | stX | sld | sst | recld | atom | incb
  | celladd | cellrd | cellclr | fence | codefence | rfence | opfence | monitor | mwait | waita | acpy | ckick
  | tbinit | tbexpect | tbarrive | tbwait | tbtest | bar | spawn | xred | obres | obrel | obst | obld | wbld | mma
  | mmas | twait | amld | amst | amzero | amcvt | prune48 | bmap | spexp | qinit | qdeg | qmul | qmuls | qdiv | qconv
  | qrd | qnorm | qsave | qload
  deriving DecidableEq, Repr, Inhabited

/-- The instruction word of an operation and its fields. -/
def Op.mk (o : Op) (w : Body) : Instr :=
  match o with
  | .br => .br w
  | .brc => .brc w
  | .brx => .brx w
  | .call => .call w
  | .callx => .callx w
  | .ret => .ret w
  | .exit => .exit w
  | .yield => .yield w
  | .nop => .nop w
  | .bkpt => .bkpt w
  | .trap => .trap w
  | .tret => .tret w
  | .pmdone => .pmdone w
  | .srd => .srd w
  | .swr => .swr w
  | .racq => .racq w
  | .racqTry => .racqTry w
  | .rrel => .rrel w
  | .gang => .gang w
  | .brrd => .brrd w
  | .brwr => .brwr w
  | .vote => .vote w
  | .splitq => .splitq w
  | .pand => .pand w
  | .por => .por w
  | .pxor => .pxor w
  | .pnot => .pnot w
  | .iadd => .iadd w
  | .isub => .isub w
  | .iadds => .iadds w
  | .isubs => .isubs w
  | .ineg => .ineg w
  | .iabs => .iabs w
  | .imin => .imin w
  | .imax => .imax w
  | .iclamp => .iclamp w
  | .isad => .isad w
  | .imul => .imul w
  | .imulh => .imulh w
  | .imad => .imad w
  | .idiv => .idiv w
  | .irem => .irem w
  | .and => .and w
  | .or => .or w
  | .xor => .xor w
  | .andn => .andn w
  | .not => .not w
  | .tern => .tern w
  | .shl => .shl w
  | .shr => .shr w
  | .sar => .sar w
  | .rol => .rol w
  | .ror => .ror w
  | .fsh => .fsh w
  | .popc => .popc w
  | .clz => .clz w
  | .ctz => .ctz w
  | .brev => .brev w
  | .bfe => .bfe w
  | .bfi => .bfi w
  | .icmp => .icmp w
  | .sel => .sel w
  | .mov => .mov w
  | .movi => .movi w
  | .iext => .iext w
  | .inarrow => .inarrow w
  | .pack => .pack w
  | .unpack => .unpack w
  | .shfl => .shfl w
  | .bcast => .bcast w
  | .lscan => .lscan w
  | .lred => .lred w
  | .rgath => .rgath w
  | .compact => .compact w
  | .fadd => .fadd w
  | .fsub => .fsub w
  | .fmul => .fmul w
  | .ffma => .ffma w
  | .fmin => .fmin w
  | .fmax => .fmax w
  | .fcmp => .fcmp w
  | .fclass => .fclass w
  | .fround => .fround w
  | .fscale => .fscale w
  | .frcp => .frcp w
  | .frsq => .frsq w
  | .fsqrt => .fsqrt w
  | .fdiv => .fdiv w
  | .fexp2 => .fexp2 w
  | .flog2 => .flog2 w
  | .fsin => .fsin w
  | .fcos => .fcos w
  | .ftanh => .ftanh w
  | .fsigm => .fsigm w
  | .fcvt => .fcvt w
  | .f2i => .f2i w
  | .i2f => .i2f w
  | .mxq => .mxq w
  | .mxdq => .mxdq w
  | .q4pk => .q4pk w
  | .q4upk => .q4upk w
  | .fdot => .fdot w
  | .ld => .ld w
  | .st => .st w
  | .lds => .lds w
  | .pref => .pref w
  | .ldX => .ldX w
  | .stX => .stX w
  | .sld => .sld w
  | .sst => .sst w
  | .recld => .recld w
  | .atom => .atom w
  | .incb => .incb w
  | .celladd => .celladd w
  | .cellrd => .cellrd w
  | .cellclr => .cellclr w
  | .fence => .fence w
  | .codefence => .codefence w
  | .rfence => .rfence w
  | .opfence => .opfence w
  | .monitor => .monitor w
  | .mwait => .mwait w
  | .waita => .waita w
  | .acpy => .acpy w
  | .ckick => .ckick w
  | .tbinit => .tbinit w
  | .tbexpect => .tbexpect w
  | .tbarrive => .tbarrive w
  | .tbwait => .tbwait w
  | .tbtest => .tbtest w
  | .bar => .bar w
  | .spawn => .spawn w
  | .xred => .xred w
  | .obres => .obres w
  | .obrel => .obrel w
  | .obst => .obst w
  | .obld => .obld w
  | .wbld => .wbld w
  | .mma => .mma w
  | .mmas => .mmas w
  | .twait => .twait w
  | .amld => .amld w
  | .amst => .amst w
  | .amzero => .amzero w
  | .amcvt => .amcvt w
  | .prune48 => .prune48 w
  | .bmap => .bmap w
  | .spexp => .spexp w
  | .qinit => .qinit w
  | .qdeg => .qdeg w
  | .qmul => .qmul w
  | .qmuls => .qmuls w
  | .qdiv => .qdiv w
  | .qconv => .qconv w
  | .qrd => .qrd w
  | .qnorm => .qnorm w
  | .qsave => .qsave w
  | .qload => .qload w

/-- The operation and the fields of an instruction word that is no pair word. -/
def Instr.word? (i : Instr) : Option (Op × Body) :=
  match i with
  | .br w => some (.br, w)
  | .brc w => some (.brc, w)
  | .brx w => some (.brx, w)
  | .call w => some (.call, w)
  | .callx w => some (.callx, w)
  | .ret w => some (.ret, w)
  | .exit w => some (.exit, w)
  | .yield w => some (.yield, w)
  | .nop w => some (.nop, w)
  | .bkpt w => some (.bkpt, w)
  | .trap w => some (.trap, w)
  | .tret w => some (.tret, w)
  | .pmdone w => some (.pmdone, w)
  | .srd w => some (.srd, w)
  | .swr w => some (.swr, w)
  | .racq w => some (.racq, w)
  | .racqTry w => some (.racqTry, w)
  | .rrel w => some (.rrel, w)
  | .gang w => some (.gang, w)
  | .brrd w => some (.brrd, w)
  | .brwr w => some (.brwr, w)
  | .vote w => some (.vote, w)
  | .splitq w => some (.splitq, w)
  | .pand w => some (.pand, w)
  | .por w => some (.por, w)
  | .pxor w => some (.pxor, w)
  | .pnot w => some (.pnot, w)
  | .iadd w => some (.iadd, w)
  | .isub w => some (.isub, w)
  | .iadds w => some (.iadds, w)
  | .isubs w => some (.isubs, w)
  | .ineg w => some (.ineg, w)
  | .iabs w => some (.iabs, w)
  | .imin w => some (.imin, w)
  | .imax w => some (.imax, w)
  | .iclamp w => some (.iclamp, w)
  | .isad w => some (.isad, w)
  | .imul w => some (.imul, w)
  | .imulh w => some (.imulh, w)
  | .imad w => some (.imad, w)
  | .idiv w => some (.idiv, w)
  | .irem w => some (.irem, w)
  | .and w => some (.and, w)
  | .or w => some (.or, w)
  | .xor w => some (.xor, w)
  | .andn w => some (.andn, w)
  | .not w => some (.not, w)
  | .tern w => some (.tern, w)
  | .shl w => some (.shl, w)
  | .shr w => some (.shr, w)
  | .sar w => some (.sar, w)
  | .rol w => some (.rol, w)
  | .ror w => some (.ror, w)
  | .fsh w => some (.fsh, w)
  | .popc w => some (.popc, w)
  | .clz w => some (.clz, w)
  | .ctz w => some (.ctz, w)
  | .brev w => some (.brev, w)
  | .bfe w => some (.bfe, w)
  | .bfi w => some (.bfi, w)
  | .icmp w => some (.icmp, w)
  | .sel w => some (.sel, w)
  | .mov w => some (.mov, w)
  | .movi w => some (.movi, w)
  | .iext w => some (.iext, w)
  | .inarrow w => some (.inarrow, w)
  | .pack w => some (.pack, w)
  | .unpack w => some (.unpack, w)
  | .shfl w => some (.shfl, w)
  | .bcast w => some (.bcast, w)
  | .lscan w => some (.lscan, w)
  | .lred w => some (.lred, w)
  | .rgath w => some (.rgath, w)
  | .compact w => some (.compact, w)
  | .fadd w => some (.fadd, w)
  | .fsub w => some (.fsub, w)
  | .fmul w => some (.fmul, w)
  | .ffma w => some (.ffma, w)
  | .fmin w => some (.fmin, w)
  | .fmax w => some (.fmax, w)
  | .fcmp w => some (.fcmp, w)
  | .fclass w => some (.fclass, w)
  | .fround w => some (.fround, w)
  | .fscale w => some (.fscale, w)
  | .frcp w => some (.frcp, w)
  | .frsq w => some (.frsq, w)
  | .fsqrt w => some (.fsqrt, w)
  | .fdiv w => some (.fdiv, w)
  | .fexp2 w => some (.fexp2, w)
  | .flog2 w => some (.flog2, w)
  | .fsin w => some (.fsin, w)
  | .fcos w => some (.fcos, w)
  | .ftanh w => some (.ftanh, w)
  | .fsigm w => some (.fsigm, w)
  | .fcvt w => some (.fcvt, w)
  | .f2i w => some (.f2i, w)
  | .i2f w => some (.i2f, w)
  | .mxq w => some (.mxq, w)
  | .mxdq w => some (.mxdq, w)
  | .q4pk w => some (.q4pk, w)
  | .q4upk w => some (.q4upk, w)
  | .fdot w => some (.fdot, w)
  | .ld w => some (.ld, w)
  | .st w => some (.st, w)
  | .lds w => some (.lds, w)
  | .pref w => some (.pref, w)
  | .ldX w => some (.ldX, w)
  | .stX w => some (.stX, w)
  | .sld w => some (.sld, w)
  | .sst w => some (.sst, w)
  | .recld w => some (.recld, w)
  | .atom w => some (.atom, w)
  | .incb w => some (.incb, w)
  | .celladd w => some (.celladd, w)
  | .cellrd w => some (.cellrd, w)
  | .cellclr w => some (.cellclr, w)
  | .fence w => some (.fence, w)
  | .codefence w => some (.codefence, w)
  | .rfence w => some (.rfence, w)
  | .opfence w => some (.opfence, w)
  | .monitor w => some (.monitor, w)
  | .mwait w => some (.mwait, w)
  | .waita w => some (.waita, w)
  | .acpy w => some (.acpy, w)
  | .ckick w => some (.ckick, w)
  | .tbinit w => some (.tbinit, w)
  | .tbexpect w => some (.tbexpect, w)
  | .tbarrive w => some (.tbarrive, w)
  | .tbwait w => some (.tbwait, w)
  | .tbtest w => some (.tbtest, w)
  | .bar w => some (.bar, w)
  | .spawn w => some (.spawn, w)
  | .xred w => some (.xred, w)
  | .obres w => some (.obres, w)
  | .obrel w => some (.obrel, w)
  | .obst w => some (.obst, w)
  | .obld w => some (.obld, w)
  | .wbld w => some (.wbld, w)
  | .mma w => some (.mma, w)
  | .mmas w => some (.mmas, w)
  | .twait w => some (.twait, w)
  | .amld w => some (.amld, w)
  | .amst w => some (.amst, w)
  | .amzero w => some (.amzero, w)
  | .amcvt w => some (.amcvt, w)
  | .prune48 w => some (.prune48, w)
  | .bmap w => some (.bmap, w)
  | .spexp w => some (.spexp, w)
  | .qinit w => some (.qinit, w)
  | .qdeg w => some (.qdeg, w)
  | .qmul w => some (.qmul, w)
  | .qmuls w => some (.qmuls, w)
  | .qdiv w => some (.qdiv, w)
  | .qconv w => some (.qconv, w)
  | .qrd w => some (.qrd, w)
  | .qnorm w => some (.qnorm, w)
  | .qsave w => some (.qsave, w)
  | .qload w => some (.qload, w)
  | _ => none

end Sys2Proof
end

