-- ==== Sys2Proof/Config.lean ====
section
/-!
DEFINITION. What the spec leaves free, as constants with no body: nothing in Lean can know their values, so a claim holds whatever they are.
-/

namespace Sys2Proof.Config

/-- Which of the allowed steps comes next, past the end of the agenda: entry n (R67). -/
opaque schedule : Nat → Sched

/-- Free bits: word i of the n-th choice that the spec leaves open (R78, R79, R120, R260, R324, R347). -/
opaque freeBits : Nat → Nat → BitVec 64

/-- The special functions whose results R224 bounds and does not fix. -/
inductive SpecialFn where
  | frsq | fexp2 | flog2 | fsin | fcos | ftanh | fsigm
  deriving DecidableEq, Repr, Inhabited

/-- The device's result of a special function for an input's bits in a format named by its TYPE code, where it lies within the bound of R224. -/
opaque special : SpecialFn → Nat → Nat → Nat

/-- The DRAM row in which a stack line, or a line of the second tier, lies: the spec does not give its size (R379, R403, R405). -/
opaque rowOf : Nat → Nat

/-- SM3 of a byte string, a hash that the spec names and does not define (R396, R398). -/
opaque sm3 : List Byte → BitVec 256

/-- The identity public key, x then y, derived from the unclonable function (R396, R398). -/
opaque identityKey : BitVec 512

/-- The SM2 signature of a report's first 384 bytes with the identity key (R398). -/
opaque sm2Sign : BitVec 3072 → BitVec 512

end Sys2Proof.Config
end

