-- ==== Sys2Proof/Machine/Bits.lean ====
section
/-!
DEFINITION. Bits, bytes and sub-elements (R6, R17): the plain operations that every other file uses.
-/

namespace Sys2Proof.Machine

/-- Bits lo + n − 1 : lo of a number. -/
def nbits (x lo n : Nat) : Nat := (x >>> lo) % 2 ^ n

/-- Bit i of a number. -/
def nbit (x i : Nat) : Bool := x.testBit i

/-- A number read as two's complement of w bits. -/
def toSigned (w x : Nat) : Int :=
  let y := x % 2 ^ w
  if 0 < w ∧ 2 ^ (w - 1) ≤ y then (y : Int) - (2 ^ w : Nat) else y

/-- An integer modulo 2^w (R93). -/
def wrap (w : Nat) (x : Int) : Nat := (x % ((2 ^ w : Nat) : Int)).toNat

/-- A number of w bits extended with its sign to 64 bits. -/
def sext64 (w x : Nat) : Nat := wrap 64 (toSigned w x)

/-- The n low bytes of a number, least significant first (R6). -/
def bytesOf (n x : Nat) : List Byte :=
  match n with
  | 0 => []
  | n + 1 => BitVec.ofNat 8 x :: bytesOf n (x / 256)

/-- The number whose bytes are given, least significant first (R6). -/
def ofBytes (l : List Byte) : Nat :=
  match l with
  | [] => 0
  | b :: t => b.toNat + 256 * ofBytes t

/-- Sub-element s of width w of a 64-bit value (R17). -/
def getSub (w s x : Nat) : Nat := nbits x (w * s) w

/-- Write sub-element s of width w, keeping the others (R17). -/
def setSub (w s x v : Nat) : Nat :=
  x - getSub w s x * 2 ^ (w * s) + (v % 2 ^ w) * 2 ^ (w * s)

/-- The sub-elements of width w of a 64-bit register, in ascending order. -/
def subs (w : Nat) : List Nat := List.range (64 / w)

/-- Replace a field of n bits at lo. -/
def setField (x lo n v : Nat) : Nat := x - nbits x lo n * 2 ^ lo + (v % 2 ^ n) * 2 ^ lo

/-- Round a length up to a multiple. -/
def roundUp (x m : Nat) : Nat := (x + m - 1) / m * m

/-- Ceiling of a quotient. -/
def ceilDiv (x m : Nat) : Nat := (x + m - 1) / m

/-- Replace element i of a list. -/
def listSet {α : Type} (l : List α) (i : Nat) (v : α) : List α := l.set i v

/-- Insertion into a list sorted by a key, after equal keys. -/
def insertBy {α : Type} (le : α → α → Bool) (x : α) (l : List α) : List α :=
  match l with
  | [] => [x]
  | y :: t => if le y x then y :: insertBy le x t else x :: y :: t

/-- Stable sorting by insertion. -/
def sortBy {α : Type} (le : α → α → Bool) (l : List α) : List α := l.foldl (fun acc x => insertBy le x acc) []

/-- The lanes of a mask, ascending. -/
def lanesOf (m : Word) : List Nat := (List.range 64).filter (fun l => m.getLsbD l)

/-- The mask of a list of lanes. -/
def maskOf (l : List Nat) : Word := l.foldl (fun m i => m ||| BitVec.ofNat 64 (2 ^ i)) 0

/-- The bytes of a buffer or of an accumulator read as a number of n bits. -/
def popcount (x : Nat) (n : Nat) : Nat := ((List.range n).filter (fun i => x.testBit i)).length

end Sys2Proof.Machine
end

