-- ==== Sys2Proof/Machine/Fp.lean ====
section
/-!
DEFINITION. Number formats and rounding (R91 to R99): every value is an exact dyadic number, and every operation is exact before one rounding.

FLAGS bits are those of R97.
A result is tiny when its value rounded to unbounded exponent range is below the smallest normal (R98).
-/

namespace Sys2Proof.Machine

/-- A value: a NaN (signalling or quiet), an infinity with its sign, or (−1)^s × m × 2^e. -/
inductive Num where
  | nan (sig : Bool)
  | inf (s : Bool)
  | fin (s : Bool) (m : Nat) (e : Int)
  deriving DecidableEq, Repr, Inhabited

/-- The floating-point formats of instructions (R91, R167). -/
inductive Fmt where
  | f16 | bf16 | f32 | f64 | e4m3 | e5m2
  deriving DecidableEq, Repr, Inhabited

/-- Bits of a value of the format. -/
def fmtBits (f : Fmt) : Nat :=
  match f with
  | .f16 | .bf16 => 16
  | .f32 => 32
  | .f64 => 64
  | .e4m3 | .e5m2 => 8

/-- Bits of the mantissa field (R91). -/
def fmtMant (f : Fmt) : Nat :=
  match f with
  | .f16 => 10 | .bf16 => 7 | .f32 => 23 | .f64 => 52 | .e4m3 => 3 | .e5m2 => 2

/-- The exponent bias (R91). -/
def fmtBias (f : Fmt) : Nat :=
  match f with
  | .f16 => 15 | .bf16 => 127 | .f32 => 127 | .f64 => 1023 | .e4m3 => 7 | .e5m2 => 15

/-- Bits of the exponent field (R91). -/
def fmtExp (f : Fmt) : Nat := fmtBits f - 1 - fmtMant f

/-- The exponent of the least significant bit of a subnormal. -/
def fmtMinLsb (f : Fmt) : Int := 1 - (fmtBias f : Int) - (fmtMant f : Int)

/-- The largest finite value as significand and exponent (R91). -/
def fmtMax (f : Fmt) : Nat × Int :=
  match f with
  | .e4m3 => (14, 5)
  | f => (2 ^ (fmtMant f + 1) - 1, (fmtBias f : Int) - fmtMant f)

/-- The canonical NaN (R92). -/
def canonNaN (f : Fmt) : Nat :=
  match f with
  | .f64 => 0x7FF8000000000000
  | .f32 => 0x7FC00000
  | .f16 => 0x7E00
  | .bf16 => 0x7FC0
  | .e4m3 => 0x7F
  | .e5m2 => 0x7E

/-- The value of an encoding (R91, R92). -/
def numOf (f : Fmt) (x : Nat) : Num :=
  let mb := fmtMant f
  let s := x.testBit (fmtBits f - 1)
  let e := nbits x mb (fmtExp f)
  let m := nbits x 0 mb
  let top := 2 ^ fmtExp f - 1
  if f = .e4m3 ∧ e = top ∧ m = 7 then .nan false
  else if f ≠ .e4m3 ∧ e = top then (if m = 0 then .inf s else .nan (!m.testBit (mb - 1)))
  else if e = 0 then .fin s m (fmtMinLsb f)
  else .fin s (2 ^ mb + m) ((e : Int) - fmtBias f - mb)

/-- FLAGS bits (R97). -/
def fNV : BitVec 16 := 1
def fDZ : BitVec 16 := 2
def fOF : BitVec 16 := 4
def fUF : BitVec 16 := 8
def fNX : BitVec 16 := 16
def fIDZ : BitVec 16 := 32
def fIOV : BitVec 16 := 64
def fSAT : BitVec 16 := 128

/-- One flag under a condition. -/
def flagIf (c : Bool) (f : BitVec 16) : BitVec 16 := if c then f else 0

/-- Rounding modes by code (R98). -/
inductive Rm where
  | rne | rtz | rup | rdn
  deriving DecidableEq, Repr, Inhabited

/-- The mode of a 2-bit rounding field (R98). -/
def rmOf (c : BitVec 2) : Rm :=
  match c.toNat with
  | 0 => .rne
  | 1 => .rtz
  | 2 => .rup
  | _ => .rdn

/-- The number of significant bits. -/
def sigBits (m : Nat) : Nat := if m = 0 then 0 else m.log2 + 1

/-- Does the magnitude round away from zero, given the lowest kept bit, the comparison of the discarded part with one half, and the sign? -/
def roundsUp (rm : Rm) (s odd : Bool) (rest : Ordering) (zero : Bool) : Bool :=
  match rm with
  | .rne => rest == .gt || (rest == .eq && odd)
  | .rtz => false
  | .rup => !s && !zero
  | .rdn => s && !zero

/-- A magnitude m × 2^e rounded so that its least significant bit has exponent q or above: the new significand, its exponent and whether it is inexact. -/
def roundAt (rm : Rm) (s : Bool) (m : Nat) (e q : Int) : Nat × Int × Bool :=
  if q ≤ e then (m, e, false)
  else
    let sh := (q - e).toNat
    if sigBits m + 1 < sh then
      ((if roundsUp rm s false .lt (m == 0) then 1 else 0), q, m != 0)
    else
      let hi := m >>> sh
      let lo := m % 2 ^ sh
      let c := compare (2 * lo) (2 ^ sh)
      (if roundsUp rm s (hi.testBit 0) c (lo == 0) then hi + 1 else hi, q, lo != 0)

/-- Rounded to p significant bits with unbounded exponent. -/
def roundPrec (rm : Rm) (s : Bool) (m : Nat) (e : Int) (p : Nat) : Nat × Int × Bool :=
  roundAt rm s m e (e + sigBits m - p)

/-- Is m × 2^e less than n × 2^g? -/
def magLt (m : Nat) (e : Int) (n : Nat) (g : Int) : Bool :=
  if m = 0 then n != 0
  else if n = 0 then false
  else
    let a := (sigBits m : Int) + e
    let b := (sigBits n : Int) + g
    if a < b then true else if b < a then false
    else if e ≤ g then m < n <<< (g - e).toNat else m <<< (e - g).toNat < n

/-- The encoding of a sign and an exactly representable magnitude. -/
def packMag (f : Fmt) (s : Bool) (m : Nat) (e : Int) : Nat :=
  let sign := if s then 2 ^ (fmtBits f - 1) else 0
  if m = 0 then sign
  else
    let top := (sigBits m : Int) + e - 1
    if top < 1 - (fmtBias f : Int) then
      let k := e - fmtMinLsb f
      sign + (if 0 ≤ k then m <<< k.toNat else m >>> (-k).toNat)
    else
      let k := top - fmtMant f
      let n := if k ≤ e then m <<< (e - k).toNat else m >>> (k - e).toNat
      sign + (top + fmtBias f).toNat * 2 ^ fmtMant f + (n - 2 ^ fmtMant f)

/-- The encoding of an infinity; E4M3 has none and takes its largest finite value (R99). -/
def packInf (f : Fmt) (s : Bool) : Nat :=
  match f with
  | .e4m3 => packMag f s 14 5
  | f => (if s then 2 ^ (fmtBits f - 1) else 0) + (2 ^ fmtExp f - 1) * 2 ^ fmtMant f

/-- The encoding of the largest finite value. -/
def packMax (f : Fmt) (s : Bool) : Nat := packMag f s (fmtMax f).1 (fmtMax f).2

/-- A value rounded into a format: its encoding and the flags (R98, R99). With sat, overflow and infinities take the largest finite value. -/
def roundTo (f : Fmt) (rm : Rm) (sat : Bool) (x : Num) : Nat × BitVec 16 :=
  let sat := sat || f == .e4m3
  match x with
  | .nan sig => (canonNaN f, flagIf sig fNV)
  | .inf s => if sat then (packMax f s, fOF) else (packInf f s, 0)
  | .fin s m e =>
    if m = 0 then (packMag f s 0 0, 0)
    else
      let p := fmtMant f + 1
      let (um, ue, _) := roundPrec rm s m e p
      if magLt (fmtMax f).1 (fmtMax f).2 um ue then
        let toInf := !sat && (match rm with
          | .rne => true
          | .rtz => false
          | .rup => !s
          | .rdn => s)
        (if toInf then packInf f s else packMax f s, fOF ||| fNX)
      else
        let q := max (e + sigBits m - p) (fmtMinLsb f)
        let (rmag, re, inex) := roundAt rm s m e q
        let tiny := magLt um ue 1 (1 - (fmtBias f : Int))
        (packMag f s rmag re, flagIf inex fNX ||| flagIf (inex && tiny) fUF)

/-! ### Exact operations (R216) -/

/-- The two significands on a common exponent. -/
def align (m : Nat) (e : Int) (n : Nat) (g : Int) : Nat × Nat × Int :=
  if e ≤ g then (m, n <<< (g - e).toNat, e) else (m <<< (e - g).toNat, n, g)

/-- The exact sum of two finite values; an exact zero sum of unlike signs takes +0, or −0 under rdn (R98). -/
def addFin (rm : Rm) (s : Bool) (m : Nat) (e : Int) (t : Bool) (n : Nat) (g : Int) : Num :=
  if m = 0 ∧ n = 0 then .fin (if s = t then s else rm == .rdn) 0 0
  else if m = 0 then .fin t n g
  else if n = 0 then .fin s m e
  else
    let (a, b, k) := align m e n g
    if s = t then .fin s (a + b) k
    else if a = b then .fin (rm == .rdn) 0 0
    else if b < a then .fin s (a - b) k
    else .fin t (b - a) k

/-- Is the value a signalling NaN? -/
def isSNaN (x : Num) : Bool := x == .nan true

/-- Is the value a NaN? -/
def isNaN (x : Num) : Bool :=
  match x with
  | .nan _ => true
  | _ => false

/-- The sign changed. -/
def negNum (x : Num) : Num :=
  match x with
  | .nan b => .nan b
  | .inf s => .inf (!s)
  | .fin s m e => .fin (!s) m e

/-- The exact sum; ∞ − ∞ is a NaN that sets NV (R216), written as a signalling NaN. -/
def addNum (rm : Rm) (x y : Num) : Num :=
  match x, y with
  | .nan a, .nan b => .nan (a || b)
  | .nan a, _ => .nan a
  | _, .nan b => .nan b
  | .inf s, .inf t => if s = t then .inf s else .nan true
  | .inf s, _ => .inf s
  | _, .inf t => .inf t
  | .fin s m e, .fin t n g => addFin rm s m e t n g

/-- The exact product; 0 × ∞ is a NaN that sets NV (R216). -/
def mulNum (x y : Num) : Num :=
  match x, y with
  | .nan a, .nan b => .nan (a || b)
  | .nan a, _ => .nan a
  | _, .nan b => .nan b
  | .inf s, .inf t => .inf (s != t)
  | .inf s, .fin t n _ => if n = 0 then .nan true else .inf (s != t)
  | .fin s m _, .inf t => if m = 0 then .nan true else .inf (s != t)
  | .fin s m e, .fin t n g => .fin (s != t) (m * n) (e + g)

/-- x × y + z exactly; 0 × ∞ sets NV even when z is a quiet NaN (R216). -/
def fmaNum (rm : Rm) (x y z : Num) : Num := addNum rm (mulNum x y) z

/-- Multiplied by 2^n. -/
def scaleNum (x : Num) (n : Int) : Num :=
  match x with
  | .fin s m e => .fin s m (e + n)
  | x => x

/-- The comparison of two numbers that are no NaN; −0 equals +0. -/
def cmpNum (x y : Num) : Ordering :=
  match x, y with
  | .inf s, .inf t => if s = t then .eq else if s then .lt else .gt
  | .inf s, _ => if s then .lt else .gt
  | _, .inf t => if t then .gt else .lt
  | .fin s m e, .fin t n g =>
    if m = 0 ∧ n = 0 then .eq
    else
      let lt := magLt m e n g
      let gt := magLt n g m e
      match s, t with
      | false, false => if lt then .lt else if gt then .gt else .eq
      | true, true => if lt then .gt else if gt then .lt else .eq
      | false, true => .gt
      | true, false => .lt
  | _, _ => .eq

/-- The quotient with enough bits that one rounding is correct: the lowest bit is a sticky bit. -/
def divMag (m : Nat) (e : Int) (n : Nat) (g : Int) (p : Nat) : Nat × Int :=
  let k := p + 3 + sigBits n
  let a := m <<< k
  let q := a / n
  (2 * q + (if a % n = 0 then 0 else 1), e - g - k - 1)

/-- The integer square root, bit by bit from bit i down. -/
def isqrtGo (n : Nat) (i : Nat) (r : Nat) : Nat :=
  match i with
  | 0 => if (r + 1) * (r + 1) ≤ n then r + 1 else r
  | i + 1 => isqrtGo n i (if (r + 2 ^ (i + 1)) * (r + 2 ^ (i + 1)) ≤ n then r + 2 ^ (i + 1) else r)

/-- The integer square root. -/
def isqrt (n : Nat) : Nat := isqrtGo n (sigBits n / 2 + 1) 0

/-- The square root likewise. -/
def sqrtMag (m : Nat) (e : Int) (p : Nat) : Nat × Int :=
  let odd := e % 2 = 1
  let m := if odd then 2 * m else m
  let e := if odd then e - 1 else e
  let k := p + 3
  let a := m <<< (2 * k)
  let r := isqrt a
  (2 * r + (if r * r = a then 0 else 1), e / 2 - k - 1)

/-- The floor of the base-2 logarithm of a nonzero magnitude. -/
def floorLog2 (m : Nat) (e : Int) : Int := (sigBits m : Int) - 1 + e

/-- A finite value rounded to an integer in a mode, with whether it changed. -/
def roundInt (rm : Rm) (s : Bool) (m : Nat) (e : Int) : Int × Bool :=
  let (n, g, inex) := roundAt rm s m e 0
  let v : Int := (n <<< g.toNat : Nat)
  (if s then -v else v, inex)

/-- An integer as an exact value. -/
def numOfInt (v : Int) : Num := .fin (v < 0) v.natAbs 0

/-! ### Block scales and four-bit codes (R91, R94, R95) -/

/-- The exponent of an E8M0 scale, none for the code 0xFF (R91, R94). -/
def e8m0 (x : Nat) : Option Int := if x % 256 = 255 then none else some ((x % 256 : Nat) - 127 : Int)

/-- The value of an E2M1 code (R91). -/
def e2m1 (x : Nat) : Num :=
  let e := nbits x 1 2
  let m := nbits x 0 1
  if e = 0 then .fin (x.testBit 3) m (-1) else .fin (x.testBit 3) (2 + m) ((e : Int) - 2)

/-- Element i of a block of KQ4 codes, with whether it counts an anomaly (R95); code j is given by a function of its index. -/
def kq4 (code : Nat → Nat) (scale : Nat) (i : Nat) : Num × Bool :=
  let c := code i
  let marker := fun j => code j == 8
  let anomaly := i % 2 = 1 ∧ c = 8 ∧ ¬ marker (i - 1)
  let v : Num :=
    if i % 2 = 0 ∧ c = 8 then scaleNum (e2m1 (code (i + 1))) 4
    else if i % 2 = 1 ∧ marker (i - 1) then .fin false 0 0
    else if c = 8 then .fin false 0 0
    else numOfInt (if c < 8 then c else (c : Int) - 16)
  (match e8m0 scale with
   | none => .nan false
   | some x => scaleNum v x, anomaly)

end Sys2Proof.Machine
end

