-- ==== Sys2Proof/Machine/Flags.lean ====
section
/-!
DEFINITION. Results and flags of one sub-element (R97, R200 to R208): pure functions of the width and of the source sub-elements.
-/

namespace Sys2Proof.Machine

/-- A result and the flags it raises. -/
abbrev Res := Nat × BitVec 16

/-- A result without flags. -/
def plain (x : Nat) : Res := (x, 0)

/-- Val(x): two's complement, or unsigned when UNS is 1 (R198). -/
def valOf (uns : Bool) (w x : Nat) : Int := if uns then (x % 2 ^ w : Nat) else toSigned w x

/-- The least value of a destination. -/
def loOf (uns : Bool) (w : Nat) : Int := if uns then 0 else -(2 ^ (w - 1) : Nat)

/-- The greatest value of a destination. -/
def hiOf (uns : Bool) (w : Nat) : Int := if uns then (2 ^ w - 1 : Nat) else (2 ^ (w - 1) - 1 : Nat)

/-- Sat(v) with the flag SAT where it changes v (R198). -/
def satTo (uns : Bool) (w : Nat) (v : Int) : Res :=
  if v < loOf uns w then (wrap w (loOf uns w), fSAT)
  else if hiOf uns w < v then (wrap w (hiOf uns w), fSAT)
  else (wrap w v, 0)

/-! ### Add group (R200) -/

def eAdd (w a b : Nat) : Res := plain ((a + b) % 2 ^ w)
def eSub (w a b : Nat) : Res := plain (wrap w ((a : Int) - b))
def eAdds (uns : Bool) (w a b : Nat) : Res := satTo uns w (valOf uns w a + valOf uns w b)
def eSubs (uns : Bool) (w a b : Nat) : Res := satTo uns w (valOf uns w a - valOf uns w b)
def eNeg (sat : Bool) (w a : Nat) : Res := if sat then satTo false w (-(toSigned w a)) else plain (wrap w (-(toSigned w a)))
def eAbs (sat : Bool) (w a : Nat) : Res :=
  let v : Int := (toSigned w a).natAbs
  if sat then satTo false w v else plain (wrap w v)
def eMin (uns : Bool) (w a b : Nat) : Res := plain (if valOf uns w a ≤ valOf uns w b then a else b)
def eMax (uns : Bool) (w a b : Nat) : Res := plain (if valOf uns w b ≤ valOf uns w a then a else b)
def eClamp (uns : Bool) (w a b c : Nat) : Res :=
  plain (if valOf uns w c < valOf uns w a ∨ valOf uns w c < valOf uns w b then c else if valOf uns w a < valOf uns w b then b else a)
def eSad (uns : Bool) (w a b c : Nat) : Res := plain (((valOf uns w a - valOf uns w b).natAbs + c) % 2 ^ w)

/-! ### Multiply and divide (R201) -/

def eMul (w a b : Nat) : Res := plain ((a * b) % 2 ^ w)
def eMulh (uns : Bool) (w a b : Nat) : Res := plain (wrap (2 * w) (valOf uns w a * valOf uns w b) / 2 ^ w)
def eMad (w a b c : Nat) : Res := plain ((a * b + c) % 2 ^ w)

/-- Quotient and remainder with the flags IDZ and IOV (R201). -/
def divRem (uns : Bool) (w a b : Nat) : Nat × Nat × BitVec 16 :=
  let x := valOf uns w a
  let y := valOf uns w b
  if y = 0 then (2 ^ w - 1, wrap w x, fIDZ)
  else if !uns ∧ x = -(2 ^ (w - 1) : Nat) ∧ y = -1 then (wrap w x, 0, fIOV)
  else (wrap w (x.tdiv y), wrap w (x - x.tdiv y * y), 0)

def eDiv (uns : Bool) (w a b : Nat) : Res := let r := divRem uns w a b; (r.1, r.2.2)
def eRem (uns : Bool) (w a b : Nat) : Res := let r := divRem uns w a b; (r.2.1, r.2.2)

/-! ### Logic (R202) -/

def eAnd (a b : Nat) : Res := plain (a &&& b)
def eOr (a b : Nat) : Res := plain (a ||| b)
def eXor (a b : Nat) : Res := plain (a ^^^ b)
def eNot (w a : Nat) : Res := plain ((2 ^ w - 1) ^^^ (a % 2 ^ w))
def eAndn (w a b : Nat) : Res := plain (a &&& ((2 ^ w - 1) ^^^ (b % 2 ^ w)))

/-- TERN by its truth table: bit i of a is the least significant index bit. -/
def eTern (table w a b c : Nat) : Res :=
  plain ((List.range w).foldl (fun acc i =>
    let t := (if c.testBit i then 4 else 0) + (if b.testBit i then 2 else 0) + (if a.testBit i then 1 else 0)
    if table.testBit t then acc + 2 ^ i else acc) 0)

/-! ### Shifts and rotates (R203): the amount is the whole unsigned value -/

def eShl (w a n : Nat) : Res := plain (if w ≤ n then 0 else (a * 2 ^ n) % 2 ^ w)
def eShr (w a n : Nat) : Res := plain (if w ≤ n then 0 else a / 2 ^ n)
def eSar (w a n : Nat) : Res :=
  let m := min n w
  plain (wrap w (Int.fdiv (toSigned w a) ((2 ^ m : Nat) : Int)))
def eRol (w a n : Nat) : Res := let m := n % w; plain ((a * 2 ^ m) % 2 ^ w ||| a / 2 ^ (w - m))
def eRor (w a n : Nat) : Res := let m := n % w; plain (a / 2 ^ m ||| (a * 2 ^ (w - m)) % 2 ^ w)

/-- FSH: a is the high half; to the right when SUB is 0. -/
def eFsh (left : Bool) (w a b n : Nat) : Res :=
  let z := a * 2 ^ w + b
  if 2 * w ≤ n then plain 0
  else if left then plain (z * 2 ^ n / 2 ^ w % 2 ^ w) else plain (z / 2 ^ n % 2 ^ w)

/-! ### Bit operations (R204, R205) -/

def ePopc (w a : Nat) : Res := plain (popcount a w)
def eClz (w a : Nat) : Res := plain (if a = 0 then w else w - 1 - a.log2)
def eCtz (w a : Nat) : Res := plain (((List.range w).find? (fun i => a.testBit i)).getD w)
def eBrev (w a : Nat) : Res := plain ((List.range w).foldl (fun acc i => if a.testBit i then acc + 2 ^ (w - 1 - i) else acc) 0)

/-- BFE with the control of a lane. -/
def eBfe (uns : Bool) (w a ctl : Nat) : Res :=
  let pos := ctl % 256
  let n := min (ctl / 256 % 256) w
  let bit := fun i => if pos + i < w then a.testBit (pos + i) else !uns && a.testBit (w - 1)
  plain ((List.range w).foldl (fun acc i =>
    let b := if i < n then bit i else !uns && decide (0 < n) && bit (n - 1)
    if b then acc + 2 ^ i else acc) 0)

/-- BFI with the control of a lane. -/
def eBfi (w a b ctl : Nat) : Res :=
  let pos := ctl % 256
  let n := min (ctl / 256 % 256) w
  plain ((List.range w).foldl (fun acc i =>
    let v := if pos ≤ i ∧ i < pos + n then a.testBit (i - pos) else b.testBit i
    if v then acc + 2 ^ i else acc) 0)

/-! ### Compare (R206) -/

/-- The condition of ICMP. -/
def eCmp (cond : Nat) (uns : Bool) (w a b : Nat) : Bool :=
  let x := valOf uns w a
  let y := valOf uns w b
  match cond with
  | 0 => decide (x = y)
  | 1 => decide (x ≠ y)
  | 2 => decide (x < y)
  | 3 => decide (y ≤ x)
  | 4 => decide (x ≤ y)
  | _ => decide (y < x)

/-! ### Width changes (R208), by destination sub-element -/

def eIext (hi uns : Bool) (w : Nat) (a s : Nat) : Res :=
  let v := getSub (w / 2) (s + (64 / w) * (if hi then 1 else 0)) a
  plain (if uns then v else wrap w (toSigned (w / 2) v))
def eInarrow (sat uns : Bool) (w : Nat) (a s : Nat) : Res :=
  if s < 64 / w / 2 then
    let v := valOf uns (2 * w) (getSub (2 * w) s a)
    if sat then satTo uns w v else plain (wrap w v)
  else plain 0
def ePack (uns : Bool) (w : Nat) (a b s : Nat) : Res :=
  let h := 64 / w / 2
  satTo uns w (toSigned (2 * w) (if s < h then getSub (2 * w) s a else getSub (2 * w) (s - h) b))
def eUnpack (hi : Bool) (w : Nat) (a b s : Nat) : Res :=
  let h := 64 / w / 2
  let i := s / 2 + h * (if hi then 1 else 0)
  plain (if s % 2 = 0 then getSub w i a else getSub w i b)

end Sys2Proof.Machine
end

