-- ==== Sys2Proof/Machine/OpTable.lean ====
section
/-!
DEFINITION. The encoding tables: which operands, types and fields each instruction word admits (R163 to R173 and the encoding tables of the reference chapters), and the defects of a word that breaks them.

A word is an instruction exactly when it has no defect; the defect reported is the one of lowest WHY and, within it, lowest FIELD (R173).
-/

namespace Sys2Proof.Machine

/-- A kind of operand (R165). -/
inductive Kind where
  | v | s | p | b | a | q | k | sys | imm
  deriving DecidableEq, Repr, Inhabited

/-- The forms an opcode admits (R163, R172). -/
inductive Form where
  | r | ri | i | m
  deriving DecidableEq, Repr, Inhabited

/-- The fields of form R (and of form I, with SUB2 for SUB) that an entry may use (R164). -/
inductive Use where
  | ssel | type2 | imm8 | sub | uns | sat | rnd
  deriving DecidableEq, Repr, Inhabited

/-- The further rules of an entry on its fields, each named for what it checks. -/
inductive Extra where
  | br | srd | swr | racq | quarter | vote | sdst | subMax1 | subMax4 | subMax5 | subMax7 | tyNotB | tyNotD
  | shfl | lanesel | scan | lred | cvt | fdot | mem | mat | shape | mma | amcvt | prune | bmap | qty | qrd
  deriving DecidableEq, Repr, Inhabited

/-- One row of the encoding tables. -/
structure Spec where
  cls   : Nat
  minor : Nat
  form  : Form
  ty    : List Nat
  dst   : List Kind
  a     : List Kind
  b     : List Kind
  c     : List Kind
  uses  : List Use
  extra : List Extra
  deriving DecidableEq, Repr, Inhabited

/-- The encoding table's row of an operation (R172, R180 to R196, R200 to R213, R217 to R235, R241, R242, R262 to R283). -/
def opSpec (o : Op) : Spec :=
  match o with
  | .br => ⟨0x00, 0x00, .i, [0], [], [.imm], [], [], [], [.br]⟩
  | .brc => ⟨0x00, 0x01, .i, [0, 1, 2, 3], [], [.imm], [.v, .s], [], [.sub], [.br]⟩
  | .brx => ⟨0x00, 0x02, .r, [0], [], [.v, .s], [], [], [], []⟩
  | .call => ⟨0x00, 0x03, .i, [0], [], [.imm], [], [], [], [.br]⟩
  | .callx => ⟨0x00, 0x04, .r, [0], [], [.v, .s], [], [], [], []⟩
  | .ret => ⟨0x00, 0x05, .r, [0], [], [], [], [], [], []⟩
  | .exit => ⟨0x00, 0x06, .r, [0], [], [], [], [], [], []⟩
  | .yield => ⟨0x00, 0x07, .r, [0], [], [], [], [], [], []⟩
  | .nop => ⟨0x00, 0x08, .r, [0], [], [], [], [], [], []⟩
  | .bkpt => ⟨0x00, 0x09, .r, [0], [], [], [], [], [], []⟩
  | .trap => ⟨0x00, 0x0A, .i, [0], [], [.imm], [], [], [], []⟩
  | .tret => ⟨0x00, 0x0B, .r, [0], [], [], [], [], [], []⟩
  | .pmdone => ⟨0x00, 0x0C, .r, [0], [], [], [], [], [], []⟩
  | .srd => ⟨0x01, 0x00, .r, [0], [.v, .s], [.sys], [], [], [], [.srd]⟩
  | .swr => ⟨0x01, 0x01, .ri, [0], [.sys], [.v, .s, .imm], [], [], [], [.swr]⟩
  | .racq => ⟨0x01, 0x02, .ri, [0], [], [.s, .imm], [], [], [.sub], [.racq]⟩
  | .racqTry => ⟨0x01, 0x02, .ri, [0], [.p], [.s, .imm], [], [], [.sub], []⟩
  | .rrel => ⟨0x01, 0x03, .ri, [0], [], [.s, .imm], [], [], [], []⟩
  | .gang => ⟨0x01, 0x04, .ri, [0], [], [.s, .imm], [], [], [], []⟩
  | .brrd => ⟨0x01, 0x05, .r, [0], [.v, .s], [.b], [], [], [.ssel], [.quarter]⟩
  | .brwr => ⟨0x01, 0x06, .r, [0], [.b], [.s], [], [], [.ssel], [.quarter]⟩
  | .vote => ⟨0x01, 0x07, .r, [0], [.p, .s], [.p], [], [], [.sub], [.vote]⟩
  | .splitq => ⟨0x01, 0x08, .r, [0], [.s], [], [], [], [.sub], [.subMax4]⟩
  | .pand => ⟨0x02, 0x00, .r, [0, 1, 2, 3], [.p], [.p], [.p], [], [], []⟩
  | .por => ⟨0x02, 0x01, .r, [0, 1, 2, 3], [.p], [.p], [.p], [], [], []⟩
  | .pxor => ⟨0x02, 0x02, .r, [0, 1, 2, 3], [.p], [.p], [.p], [], [], []⟩
  | .pnot => ⟨0x02, 0x03, .r, [0, 1, 2, 3], [.p], [.p], [], [], [], []⟩
  | .iadd => ⟨0x04, 0x00, .ri, [0, 1, 2, 3], [.v, .s], [.v, .s, .imm], [.v, .s, .imm], [], [.uns], [.sdst]⟩
  | .isub => ⟨0x04, 0x01, .ri, [0, 1, 2, 3], [.v, .s], [.v, .s, .imm], [.v, .s, .imm], [], [.uns], [.sdst]⟩
  | .iadds => ⟨0x04, 0x02, .ri, [0, 1, 2, 3], [.v, .s], [.v, .s, .imm], [.v, .s, .imm], [], [.uns], [.sdst]⟩
  | .isubs => ⟨0x04, 0x03, .ri, [0, 1, 2, 3], [.v, .s], [.v, .s, .imm], [.v, .s, .imm], [], [.uns], [.sdst]⟩
  | .ineg => ⟨0x04, 0x04, .ri, [0, 1, 2, 3], [.v, .s], [.v, .s, .imm], [], [], [.sat], [.sdst]⟩
  | .iabs => ⟨0x04, 0x05, .ri, [0, 1, 2, 3], [.v, .s], [.v, .s, .imm], [], [], [.sat], [.sdst]⟩
  | .imin => ⟨0x04, 0x06, .ri, [0, 1, 2, 3], [.v, .s], [.v, .s, .imm], [.v, .s, .imm], [], [.uns], [.sdst]⟩
  | .imax => ⟨0x04, 0x07, .ri, [0, 1, 2, 3], [.v, .s], [.v, .s, .imm], [.v, .s, .imm], [], [.uns], [.sdst]⟩
  | .iclamp => ⟨0x04, 0x08, .r, [0, 1, 2, 3], [.v, .s], [.v, .s], [.v, .s], [.v, .s], [.uns], [.sdst]⟩
  | .isad => ⟨0x04, 0x09, .r, [0, 1, 2, 3], [.v, .s], [.v, .s], [.v, .s], [.v, .s], [.uns], [.sdst]⟩
  | .imul => ⟨0x05, 0x00, .ri, [0, 1, 2, 3], [.v, .s], [.v, .s, .imm], [.v, .s, .imm], [], [.uns], [.sdst]⟩
  | .imulh => ⟨0x05, 0x01, .ri, [0, 1, 2, 3], [.v, .s], [.v, .s, .imm], [.v, .s, .imm], [], [.uns], [.sdst]⟩
  | .imad => ⟨0x05, 0x02, .r, [0, 1, 2, 3], [.v, .s], [.v, .s], [.v, .s], [.v, .s], [], [.sdst]⟩
  | .idiv => ⟨0x05, 0x03, .ri, [0, 1, 2, 3], [.v, .s], [.v, .s, .imm], [.v, .s, .imm], [], [.uns], [.sdst]⟩
  | .irem => ⟨0x05, 0x04, .ri, [0, 1, 2, 3], [.v, .s], [.v, .s, .imm], [.v, .s, .imm], [], [.uns], [.sdst]⟩
  | .and => ⟨0x06, 0x00, .ri, [0, 1, 2, 3], [.v, .s], [.v, .s, .imm], [.v, .s, .imm], [], [.uns], [.sdst]⟩
  | .or => ⟨0x06, 0x01, .ri, [0, 1, 2, 3], [.v, .s], [.v, .s, .imm], [.v, .s, .imm], [], [.uns], [.sdst]⟩
  | .xor => ⟨0x06, 0x02, .ri, [0, 1, 2, 3], [.v, .s], [.v, .s, .imm], [.v, .s, .imm], [], [.uns], [.sdst]⟩
  | .andn => ⟨0x06, 0x03, .ri, [0, 1, 2, 3], [.v, .s], [.v, .s, .imm], [.v, .s, .imm], [], [.uns], [.sdst]⟩
  | .not => ⟨0x06, 0x04, .ri, [0, 1, 2, 3], [.v, .s], [.v, .s, .imm], [], [], [.uns], [.sdst]⟩
  | .tern => ⟨0x06, 0x05, .r, [0, 1, 2, 3], [.v, .s], [.v, .s], [.v, .s], [.v, .s], [.imm8], [.sdst]⟩
  | .shl => ⟨0x07, 0x00, .ri, [0, 1, 2, 3], [.v, .s], [.v, .s, .imm], [.v, .s, .imm], [], [.uns], [.sdst]⟩
  | .shr => ⟨0x07, 0x01, .ri, [0, 1, 2, 3], [.v, .s], [.v, .s, .imm], [.v, .s, .imm], [], [.uns], [.sdst]⟩
  | .sar => ⟨0x07, 0x02, .ri, [0, 1, 2, 3], [.v, .s], [.v, .s, .imm], [.v, .s, .imm], [], [.uns], [.sdst]⟩
  | .rol => ⟨0x07, 0x03, .ri, [0, 1, 2, 3], [.v, .s], [.v, .s, .imm], [.v, .s, .imm], [], [.uns], [.sdst]⟩
  | .ror => ⟨0x07, 0x04, .ri, [0, 1, 2, 3], [.v, .s], [.v, .s, .imm], [.v, .s, .imm], [], [.uns], [.sdst]⟩
  | .fsh => ⟨0x07, 0x05, .r, [0, 1, 2, 3], [.v, .s], [.v, .s], [.v, .s], [.v, .s], [.sub], [.sdst, .subMax1]⟩
  | .popc => ⟨0x08, 0x00, .ri, [0, 1, 2, 3], [.v, .s], [.v, .s, .imm], [], [], [.uns], [.sdst]⟩
  | .clz => ⟨0x08, 0x01, .ri, [0, 1, 2, 3], [.v, .s], [.v, .s, .imm], [], [], [.uns], [.sdst]⟩
  | .ctz => ⟨0x08, 0x02, .ri, [0, 1, 2, 3], [.v, .s], [.v, .s, .imm], [], [], [.uns], [.sdst]⟩
  | .brev => ⟨0x08, 0x03, .ri, [0, 1, 2, 3], [.v, .s], [.v, .s, .imm], [], [], [.uns], [.sdst]⟩
  | .bfe => ⟨0x08, 0x04, .r, [0, 1, 2, 3], [.v, .s], [.v, .s], [.v, .s], [], [.uns], [.sdst]⟩
  | .bfi => ⟨0x08, 0x05, .r, [0, 1, 2, 3], [.v, .s], [.v, .s], [.v, .s], [.v, .s], [], [.sdst]⟩
  | .icmp => ⟨0x09, 0x00, .ri, [0, 1, 2, 3], [.p], [.v, .s, .imm], [.v, .s, .imm], [], [.sub, .uns], [.sdst, .subMax5]⟩
  | .sel => ⟨0x09, 0x01, .r, [0, 1, 2, 3], [.v], [.v, .s], [.v, .s], [.p], [], [.sdst]⟩
  | .mov => ⟨0x09, 0x02, .ri, [0, 1, 2, 3], [.v, .s], [.v, .s, .imm], [], [], [.uns], [.sdst]⟩
  | .movi => ⟨0x09, 0x03, .i, [3], [.v, .s], [.v, .s], [.imm], [], [.sub], [.sdst, .subMax1]⟩
  | .iext => ⟨0x0A, 0x00, .ri, [0, 1, 2, 3], [.v, .s], [.v, .s, .imm], [], [], [.sub, .uns], [.sdst, .subMax1, .tyNotB]⟩
  | .inarrow => ⟨0x0A, 0x01, .ri, [0, 1, 2, 3], [.v, .s], [.v, .s, .imm], [], [], [.sat, .uns], [.sdst, .tyNotD]⟩
  | .pack => ⟨0x0A, 0x02, .ri, [0, 1, 2, 3], [.v, .s], [.v, .s, .imm], [.v, .s, .imm], [], [.uns], [.sdst, .tyNotD]⟩
  | .unpack => ⟨0x0A, 0x03, .ri, [0, 1, 2, 3], [.v, .s], [.v, .s, .imm], [.v, .s, .imm], [], [.sub, .uns], [.sdst, .subMax1, .tyNotD]⟩
  | .shfl => ⟨0x0C, 0x00, .r, [0, 1, 2, 3], [.v], [.v], [.v], [], [.ssel, .sub, .imm8], [.shfl]⟩
  | .bcast => ⟨0x0C, 0x01, .r, [0, 1, 2, 3], [.v], [.v], [], [], [.ssel, .imm8], [.lanesel]⟩
  | .lscan => ⟨0x0C, 0x02, .r, [0, 1, 2, 3], [.v], [.v], [], [], [.sub, .type2, .imm8, .uns, .rnd], [.scan]⟩
  | .lred => ⟨0x0C, 0x03, .r, [0, 1, 2, 3], [.v], [.v], [], [], [.sub, .type2, .imm8, .uns, .rnd], [.scan, .lred]⟩
  | .rgath => ⟨0x0C, 0x04, .r, [0, 1, 2, 3], [.v], [.v], [.v], [], [], []⟩
  | .compact => ⟨0x0C, 0x05, .r, [0, 1, 2, 3], [.v], [.v], [.p], [], [], []⟩
  | .fadd => ⟨0x10, 0x00, .ri, [0, 1, 2, 3], [.v], [.v, .s, .imm], [.v, .s, .imm], [], [.rnd], []⟩
  | .fsub => ⟨0x10, 0x01, .ri, [0, 1, 2, 3], [.v], [.v, .s, .imm], [.v, .s, .imm], [], [.rnd], []⟩
  | .fmul => ⟨0x10, 0x02, .ri, [0, 1, 2, 3], [.v], [.v, .s, .imm], [.v, .s, .imm], [], [.rnd], []⟩
  | .ffma => ⟨0x10, 0x03, .r, [0, 1, 2, 3], [.v], [.v, .s], [.v, .s], [.v, .s], [.rnd], []⟩
  | .fmin => ⟨0x10, 0x04, .ri, [0, 1, 2, 3], [.v], [.v, .s, .imm], [.v, .s, .imm], [], [], []⟩
  | .fmax => ⟨0x10, 0x05, .ri, [0, 1, 2, 3], [.v], [.v, .s, .imm], [.v, .s, .imm], [], [], []⟩
  | .fcmp => ⟨0x11, 0x00, .ri, [0, 1, 2, 3], [.p], [.v, .s, .imm], [.v, .s, .imm], [], [.sub], [.subMax7]⟩
  | .fclass => ⟨0x11, 0x01, .ri, [0, 1, 2, 3], [.v], [.v, .s, .imm], [], [], [], []⟩
  | .fround => ⟨0x11, 0x02, .ri, [0, 1, 2, 3], [.v], [.v, .s, .imm], [], [], [.sub, .rnd], [.subMax1]⟩
  | .fscale => ⟨0x11, 0x03, .ri, [0, 1, 2, 3], [.v], [.v, .s, .imm], [.v, .s, .imm], [], [.rnd], []⟩
  | .frcp => ⟨0x12, 0x00, .ri, [0, 1, 2, 3], [.v], [.v, .s, .imm], [], [], [.rnd], []⟩
  | .frsq => ⟨0x12, 0x01, .ri, [0, 1, 2, 3], [.v], [.v, .s, .imm], [], [], [], []⟩
  | .fsqrt => ⟨0x12, 0x02, .ri, [0, 1, 2, 3], [.v], [.v, .s, .imm], [], [], [.rnd], []⟩
  | .fdiv => ⟨0x12, 0x03, .ri, [0, 1, 2, 3], [.v], [.v, .s, .imm], [.v, .s, .imm], [], [.rnd], []⟩
  | .fexp2 => ⟨0x12, 0x04, .ri, [0, 1, 2], [.v], [.v, .s, .imm], [], [], [], []⟩
  | .flog2 => ⟨0x12, 0x05, .ri, [0, 1, 2], [.v], [.v, .s, .imm], [], [], [], []⟩
  | .fsin => ⟨0x12, 0x06, .ri, [0, 1, 2], [.v], [.v, .s, .imm], [], [], [], []⟩
  | .fcos => ⟨0x12, 0x07, .ri, [0, 1, 2], [.v], [.v, .s, .imm], [], [], [], []⟩
  | .ftanh => ⟨0x12, 0x08, .ri, [0, 1, 2], [.v], [.v, .s, .imm], [], [], [], []⟩
  | .fsigm => ⟨0x12, 0x09, .ri, [0, 1, 2], [.v], [.v, .s, .imm], [], [], [], []⟩
  | .fcvt => ⟨0x13, 0x00, .ri, [0, 1, 2, 3, 4, 5], [.v], [.v, .s, .imm], [], [], [.sub, .type2, .sat, .rnd], [.cvt]⟩
  | .f2i => ⟨0x13, 0x01, .ri, [0, 1, 2, 3], [.v], [.v, .s, .imm], [], [], [.sub, .type2, .uns, .rnd], [.cvt]⟩
  | .i2f => ⟨0x13, 0x02, .ri, [0, 1, 2, 3, 4, 5], [.v], [.v, .s, .imm], [], [], [.sub, .type2, .uns, .sat, .rnd], [.cvt]⟩
  | .mxq => ⟨0x14, 0x00, .r, [0, 1, 2], [.v], [.v], [], [], [.ssel, .sub, .rnd], [.subMax1]⟩
  | .mxdq => ⟨0x14, 0x01, .r, [0, 1, 2], [.v], [.v], [], [], [.ssel, .sub, .rnd], [.subMax1]⟩
  | .q4pk => ⟨0x14, 0x02, .r, [0, 1, 2], [.v], [.v], [], [], [.ssel, .sub], [.subMax1]⟩
  | .q4upk => ⟨0x14, 0x03, .r, [0, 1, 2], [.v], [.v], [], [], [.ssel, .rnd], []⟩
  | .fdot => ⟨0x14, 0x04, .r, [2], [.v], [.v, .s], [.v, .s], [.v, .s], [.type2, .rnd], [.fdot]⟩
  | .ld => ⟨0x18, 0x00, .m, [0, 1, 2, 3, 4], [.v], [.v, .s], [], [], [], [.mem]⟩
  | .st => ⟨0x18, 0x01, .m, [0, 1, 2, 3, 4], [], [.v, .s], [.v, .s], [], [], [.mem]⟩
  | .lds => ⟨0x18, 0x02, .m, [0, 1, 2, 3, 4], [.v], [.v, .s], [.a], [], [], [.mem]⟩
  | .pref => ⟨0x18, 0x03, .m, [0, 1, 2, 3, 4], [], [.v, .s], [], [], [], [.mem]⟩
  | .ldX => ⟨0x19, 0x00, .m, [0, 1, 2, 3, 4], [.v], [.v, .s], [], [], [], [.mem]⟩
  | .stX => ⟨0x19, 0x01, .m, [0, 1, 2, 3, 4], [], [.v, .s], [.v, .s], [], [], [.mem]⟩
  | .sld => ⟨0x1A, 0x00, .m, [0, 1, 2, 3], [.s], [.s], [], [], [], [.mem]⟩
  | .sst => ⟨0x1A, 0x01, .m, [0, 1, 2, 3], [], [.s], [.s], [], [], [.mem]⟩
  | .recld => ⟨0x1A, 0x02, .m, [0], [], [.s], [], [], [], [.mem]⟩
  | .atom => ⟨0x1B, 0x00, .m, [2, 3, 5, 6], [.v], [.v, .s], [.v, .s], [], [], [.mem]⟩
  | .incb => ⟨0x1B, 0x01, .m, [2, 3], [.v], [.v, .s], [.v, .s], [], [], [.mem]⟩
  | .celladd => ⟨0x1B, 0x02, .m, [4], [], [.v, .s], [.v, .s], [], [], [.mem]⟩
  | .cellrd => ⟨0x1B, 0x03, .m, [4], [.v], [.v, .s], [], [], [], [.mem]⟩
  | .cellclr => ⟨0x1B, 0x04, .m, [4], [], [.v, .s], [], [], [], [.mem]⟩
  | .fence => ⟨0x1C, 0x00, .m, [0], [], [], [], [], [], [.mem]⟩
  | .codefence => ⟨0x1C, 0x01, .r, [0], [], [], [], [], [], []⟩
  | .rfence => ⟨0x1C, 0x02, .r, [0], [], [], [], [], [], []⟩
  | .opfence => ⟨0x1C, 0x03, .r, [0], [], [], [], [], [], []⟩
  | .monitor => ⟨0x1C, 0x04, .m, [3], [.p], [.v, .s], [], [], [], [.mem]⟩
  | .mwait => ⟨0x1C, 0x05, .ri, [0], [.s], [.s, .imm], [], [], [], []⟩
  | .waita => ⟨0x1C, 0x06, .ri, [0], [], [.a], [.s, .imm], [], [], []⟩
  | .acpy => ⟨0x1D, 0x00, .m, [2, 3, 4], [.s], [.v, .s], [.v, .s], [], [], [.mem]⟩
  | .ckick => ⟨0x1D, 0x01, .ri, [0], [], [.s, .imm], [.s, .imm], [], [], []⟩
  | .tbinit => ⟨0x1D, 0x02, .ri, [0], [], [.s, .imm], [.s, .imm], [], [], []⟩
  | .tbexpect => ⟨0x1D, 0x03, .ri, [0], [], [.s, .imm], [.s, .imm], [], [], []⟩
  | .tbarrive => ⟨0x1D, 0x04, .ri, [0], [], [.s, .imm], [.s, .imm], [], [], []⟩
  | .tbwait => ⟨0x1D, 0x05, .ri, [0], [.s], [.s, .imm], [.s, .imm], [], [], []⟩
  | .tbtest => ⟨0x1D, 0x06, .ri, [0], [.s], [.s, .imm], [.s, .imm], [], [], []⟩
  | .bar => ⟨0x1D, 0x07, .ri, [0], [], [.s, .imm], [], [], [], []⟩
  | .spawn => ⟨0x1E, 0x00, .r, [0], [.s], [.s], [], [], [.sub], [.subMax1]⟩
  | .xred => ⟨0x1E, 0x01, .r, [0], [], [.s], [], [], [], []⟩
  | .obres => ⟨0x20, 0x00, .r, [0], [.s], [.s], [], [], [], [.mat]⟩
  | .obrel => ⟨0x20, 0x01, .ri, [0], [], [.s, .imm], [], [], [], [.mat]⟩
  | .obst => ⟨0x20, 0x02, .r, [0, 1, 2, 3, 4], [], [.s], [.v, .s], [.v, .s], [], [.mat]⟩
  | .obld => ⟨0x20, 0x03, .r, [0, 1, 2, 3, 4], [.v], [.s], [.v, .s], [], [], [.mat]⟩
  | .wbld => ⟨0x20, 0x04, .r, [0], [.k], [.s], [.s], [.s], [.sub], [.mat, .subMax1]⟩
  | .mma => ⟨0x20, 0x05, .r, [0, 1, 2], [.k], [.s, .v], [.s], [], [.type2, .imm8, .sub, .uns], [.mat, .shape, .mma]⟩
  | .mmas => ⟨0x20, 0x06, .r, [0, 1, 2], [.k], [.s, .v], [.s], [.v], [.type2, .imm8, .sub, .uns, .ssel], [.mat, .shape, .mma]⟩
  | .twait => ⟨0x20, 0x07, .r, [0], [], [.k], [], [], [], [.mat]⟩
  | .amld => ⟨0x20, 0x08, .r, [2, 3, 4], [.v], [.v, .s], [], [], [], [.mat]⟩
  | .amst => ⟨0x20, 0x09, .r, [2, 3, 4], [], [.v, .s], [.v, .s], [], [], [.mat]⟩
  | .amzero => ⟨0x20, 0x0A, .r, [0, 1, 2], [.k], [], [], [], [.imm8], [.mat, .shape]⟩
  | .amcvt => ⟨0x20, 0x0B, .r, [0, 1, 2], [.k], [.s], [], [], [.imm8, .type2, .sat, .rnd], [.mat, .shape, .amcvt]⟩
  | .prune48 => ⟨0x21, 0x00, .r, [0, 1], [.v], [.v], [], [], [.sub], [.prune]⟩
  | .bmap => ⟨0x21, 0x01, .r, [0, 1, 2, 3], [.v], [.v], [], [], [.sub, .imm8, .ssel], [.bmap]⟩
  | .spexp => ⟨0x21, 0x02, .r, [0, 1], [.v], [.v], [], [], [], []⟩
  | .qinit => ⟨0x22, 0x00, .ri, [0], [.q], [.s, .imm], [], [], [.sub], [.subMax1]⟩
  | .qdeg => ⟨0x22, 0x01, .ri, [0], [.q], [.s, .imm], [], [], [], []⟩
  | .qmul => ⟨0x22, 0x02, .r, [0, 1, 2, 3, 4, 5, 6], [.q], [.v], [.v], [], [.uns], [.qty]⟩
  | .qmuls => ⟨0x22, 0x03, .r, [0, 1, 2, 3, 4, 5, 6], [.q], [.v], [], [], [.uns], [.qty]⟩
  | .qdiv => ⟨0x22, 0x04, .r, [0, 1, 2, 3, 4, 5, 6], [.q], [.v], [.v], [], [.uns], [.qty]⟩
  | .qconv => ⟨0x22, 0x05, .r, [0], [.q], [.q], [.q], [], [], []⟩
  | .qrd => ⟨0x22, 0x06, .r, [2, 3], [.v], [.q], [], [], [.imm8], [.qrd]⟩
  | .qnorm => ⟨0x22, 0x07, .ri, [0], [.q], [.s, .imm], [], [], [], []⟩
  | .qsave => ⟨0x22, 0x08, .ri, [0], [], [.q], [.s, .imm], [], [], []⟩
  | .qload => ⟨0x22, 0x09, .ri, [0], [.q], [.s, .imm], [], [], [], []⟩

/-- The opcode map (R172); RACQ and RACQ.try share one opcode and differ in SUB (R191). -/
def opTable : List (Nat × Op) :=
  [(0x000, .br), (0x001, .brc), (0x002, .brx), (0x003, .call), (0x004, .callx), (0x005, .ret), (0x006, .exit),
   (0x007, .yield), (0x008, .nop), (0x009, .bkpt), (0x00A, .trap), (0x00B, .tret), (0x00C, .pmdone), (0x040, .srd),
   (0x041, .swr), (0x042, .racq), (0x043, .rrel), (0x044, .gang), (0x045, .brrd), (0x046, .brwr), (0x047, .vote),
   (0x048, .splitq), (0x080, .pand), (0x081, .por), (0x082, .pxor), (0x083, .pnot), (0x100, .iadd), (0x101, .isub),
   (0x102, .iadds), (0x103, .isubs), (0x104, .ineg), (0x105, .iabs), (0x106, .imin), (0x107, .imax),
   (0x108, .iclamp), (0x109, .isad), (0x140, .imul), (0x141, .imulh), (0x142, .imad), (0x143, .idiv),
   (0x144, .irem), (0x180, .and), (0x181, .or), (0x182, .xor), (0x183, .andn), (0x184, .not), (0x185, .tern),
   (0x1C0, .shl), (0x1C1, .shr), (0x1C2, .sar), (0x1C3, .rol), (0x1C4, .ror), (0x1C5, .fsh), (0x200, .popc),
   (0x201, .clz), (0x202, .ctz), (0x203, .brev), (0x204, .bfe), (0x205, .bfi), (0x240, .icmp), (0x241, .sel),
   (0x242, .mov), (0x243, .movi), (0x280, .iext), (0x281, .inarrow), (0x282, .pack), (0x283, .unpack),
   (0x300, .shfl), (0x301, .bcast), (0x302, .lscan), (0x303, .lred), (0x304, .rgath), (0x305, .compact),
   (0x400, .fadd), (0x401, .fsub), (0x402, .fmul), (0x403, .ffma), (0x404, .fmin), (0x405, .fmax), (0x440, .fcmp),
   (0x441, .fclass), (0x442, .fround), (0x443, .fscale), (0x480, .frcp), (0x481, .frsq), (0x482, .fsqrt),
   (0x483, .fdiv), (0x484, .fexp2), (0x485, .flog2), (0x486, .fsin), (0x487, .fcos), (0x488, .ftanh),
   (0x489, .fsigm), (0x4C0, .fcvt), (0x4C1, .f2i), (0x4C2, .i2f), (0x500, .mxq), (0x501, .mxdq), (0x502, .q4pk),
   (0x503, .q4upk), (0x504, .fdot), (0x600, .ld), (0x601, .st), (0x602, .lds), (0x603, .pref), (0x640, .ldX),
   (0x641, .stX), (0x680, .sld), (0x681, .sst), (0x682, .recld), (0x6C0, .atom), (0x6C1, .incb), (0x6C2, .celladd),
   (0x6C3, .cellrd), (0x6C4, .cellclr), (0x700, .fence), (0x701, .codefence), (0x702, .rfence), (0x703, .opfence),
   (0x704, .monitor), (0x705, .mwait), (0x706, .waita), (0x740, .acpy), (0x741, .ckick), (0x742, .tbinit),
   (0x743, .tbexpect), (0x744, .tbarrive), (0x745, .tbwait), (0x746, .tbtest), (0x747, .bar), (0x780, .spawn),
   (0x781, .xred), (0x800, .obres), (0x801, .obrel), (0x802, .obst), (0x803, .obld), (0x804, .wbld), (0x805, .mma),
   (0x806, .mmas), (0x807, .twait), (0x808, .amld), (0x809, .amst), (0x80A, .amzero), (0x80B, .amcvt),
   (0x840, .prune48), (0x841, .bmap), (0x842, .spexp), (0x880, .qinit), (0x881, .qdeg), (0x882, .qmul),
   (0x883, .qmuls), (0x884, .qdiv), (0x885, .qconv), (0x886, .qrd), (0x887, .qnorm), (0x888, .qsave),
   (0x889, .qload)]

/-- The operation that a 12-bit opcode names, RACQ.try apart. -/
def opOfCode (n : Nat) : Option Op :=
  (opTable.find? (fun e => e.1 == n)).map (·.2)

/-- The fields of a word that is no pair word, as bits (R163). -/
structure Raw where
  hdr   : Hdr
  cls   : BitVec 6
  minor : BitVec 6
  ty    : BitVec 3
  dst   : BitVec 9
  a     : BitVec 9
  b     : BitVec 9
  fs    : BitVec 38
  deriving DecidableEq, Repr, Inhabited

/-- WHY and FIELD of an encoding that is no instruction (R173). -/
structure Defect where
  why   : Nat
  field : Nat
  deriving DecidableEq, Repr, Inhabited

/-- The lowest defect by WHY and then by FIELD (R173). -/
def Defect.worst (l : List Defect) : Option Defect :=
  l.foldl (fun acc d => match acc with
    | none => some d
    | some e => if d.why < e.why ∨ (d.why = e.why ∧ d.field < e.field) then some d else some e) none

/-- One defect when a condition holds, else none. -/
def defectIf (c : Bool) (why field : Nat) : List Defect := if c then [⟨why, field⟩] else []

/-- The system operand of a code (R189). SRD takes every code of R189's table, 0x197 and 0x198 among them, which R190's row of SRD leaves out (DEDUCED, assumption 82). -/
def sysOfCode (n : Nat) : Option SysReg :=
  match n with
  | 0x180 => some .laneid | 0x181 => some .grpidx | 0x182 => some .crewid | 0x183 => some .taskid
  | 0x184 => some .gridix | 0x185 => some .core | 0x186 => some .cluster | 0x187 => some .die
  | 0x188 => some .width | 0x189 => some .ngroup | 0x18A => some .rows | 0x18B => some .state
  | 0x18C => some .split | 0x18D => some .defmask | 0x18E => some .clock | 0x18F => some .memcap
  | 0x190 => some .mapphase | 0x191 => some .param | 0x192 => some .trapcause | 0x193 => some .trapinfo
  | 0x194 => some .flags | 0x195 => some .prio | 0x196 => some .block | 0x197 => some .obbase
  | 0x198 => some .accbase
  | _ => none

/-- The code of a system operand (R189). -/
def sysCode (r : SysReg) : BitVec 9 :=
  match r with
  | .laneid => 0x180 | .grpidx => 0x181 | .crewid => 0x182 | .taskid => 0x183 | .gridix => 0x184 | .core => 0x185
  | .cluster => 0x186 | .die => 0x187 | .width => 0x188 | .ngroup => 0x189 | .rows => 0x18A | .state => 0x18B
  | .split => 0x18C | .defmask => 0x18D | .clock => 0x18E | .memcap => 0x18F | .mapphase => 0x190 | .param => 0x191
  | .trapcause => 0x192 | .trapinfo => 0x193 | .flags => 0x194 | .prio => 0x195 | .block => 0x196 | .obbase => 0x197
  | .accbase => 0x198

/-- The operand of a code, none for a reserved code (R165). -/
def opndOfCode (c : BitVec 9) : Option Opnd :=
  if c.toNat < 0x100 then some (.v (c.setWidth 8))
  else if c.toNat < 0x140 then some (.s (c.setWidth 6))
  else if c.toNat < 0x150 then some (.p (c.setWidth 4))
  else if c.toNat < 0x160 then some (.b (c.setWidth 4))
  else if c.toNat < 0x170 then some (.a (c.setWidth 4))
  else if c.toNat < 0x174 then some (.q (c.setWidth 2))
  else if c.toNat < 0x178 then none
  else if c.toNat < 0x180 then some (.k (c.setWidth 3))
  else if c.toNat < 0x1C0 then (sysOfCode c.toNat).map .sys
  else if c.toNat = 0x1FF then some .imm
  else none

/-- The code of an operand (R165). -/
def opndCode (o : Opnd) : BitVec 9 :=
  match o with
  | .v n => n.setWidth 9
  | .s n => 0x100#9 ||| n.setWidth 9
  | .p n => 0x140#9 ||| n.setWidth 9
  | .b n => 0x150#9 ||| n.setWidth 9
  | .a n => 0x160#9 ||| n.setWidth 9
  | .q n => 0x170#9 ||| n.setWidth 9
  | .k n => 0x178#9 ||| n.setWidth 9
  | .sys r => sysCode r
  | .imm => 0x1FF

/-- The kind of an operand. -/
def opndKind (o : Opnd) : Kind :=
  match o with
  | .v _ => .v | .s _ => .s | .p _ => .p | .b _ => .b | .a _ => .a | .q _ => .q | .k _ => .k | .sys _ => .sys | .imm => .imm

/-- Is the operand of this code of this kind? -/
def codeIs (c : BitVec 9) (kind : Kind) : Bool := ((opndOfCode c).map opndKind) == some kind

/-- The layout of the format-specific bits under R163: an opcode of forms R and I is in form I when SRCA or SRCB holds 0x1FF. -/
def rawForm (sp : Spec) (w : Raw) : Form :=
  match sp.form with
  | .r => .r
  | .i => .i
  | .m => .m
  | .ri => if w.a = 0x1FF ∨ w.b = 0x1FF then .i else .r

/-- Bits h:l of FS in the word's own numbering, where FS is 53:16 (R163). -/
def fsBits (w : Raw) (lo n : Nat) : Nat := (w.fs.extractLsb' (lo - 16) n).toNat

/-- SRCC of form R. -/
def rawC (w : Raw) : BitVec 9 := w.fs.extractLsb' 29 9

/-- SUB of form R, or SUB2 of form I. -/
def rawSub (sp : Spec) (w : Raw) : Nat :=
  match rawForm sp w with
  | .i => fsBits w 20 2
  | _ => fsBits w 20 4

/-- The defects of one operand field at bit position lo that accepts the kinds ks; an empty list is an unused field, where a reserved code and 0x1FF keep their own WHY (R164, R165, R173). -/
def operandDefects (ks : List Kind) (c : BitVec 9) (lo : Nat) : List Defect :=
  if ks = [] then
    if c = 0 then [] else if c = 0x1FF then [⟨2, lo⟩] else if opndOfCode c = none then [⟨1, lo⟩] else [⟨3, lo⟩]
  else match opndOfCode c with
    | none => [⟨1, lo⟩]
    | some o => defectIf (!ks.contains (opndKind o)) 2 lo

/-- The defects of the fields that form R or form I gives, where an unused field must be zero (R164). -/
def fieldDefects (sp : Spec) (w : Raw) : List Defect :=
  let u (x : Use) := sp.uses.contains x
  match rawForm sp w with
  | .i =>
      defectIf (!u .sub && fsBits w 20 2 != 0) 3 20 ++ defectIf (!u .uns && fsBits w 19 1 != 0) 3 19 ++
      defectIf (!u .sat && fsBits w 18 1 != 0) 3 18 ++ defectIf (!u .rnd && fsBits w 16 2 != 0) 3 16
  | .m => []
  | _ =>
      operandDefects sp.c (rawC w) 45 ++ defectIf (fsBits w 38 7 != 0) 3 38 ++
      defectIf (!u .ssel && fsBits w 35 3 != 0) 3 35 ++ defectIf (!u .type2 && fsBits w 32 3 != 0) 3 32 ++
      defectIf (!u .imm8 && fsBits w 24 8 != 0) 3 24 ++ defectIf (!u .sub && fsBits w 20 4 != 0) 3 20 ++
      defectIf (!u .uns && fsBits w 19 1 != 0) 3 19 ++ defectIf (!u .sat && fsBits w 18 1 != 0) 3 18 ++
      defectIf (!u .rnd && fsBits w 16 2 != 0) 3 16

/-- A TYPE outside the entry's codes: a misuse where the code is a size that the class defines (R241), a reserved code elsewhere (R167), as for TYPE 0 to 2 of MOVI
and 0 or 1 of FDOT, to which no entry gives a WHY (R207, R235; DESIGN CHOICE, assumption 13). -/
def typeDefects (sp : Spec) (w : Raw) : List Defect :=
  defectIf (!sp.ty.contains w.ty.toNat)
    (if 0x18 ≤ sp.cls ∧ sp.cls ≤ 0x1B ∧ w.ty.toNat < 7 then 7 else 4) 81

/-- What a memory word's SUBM, ORDER and SCOPE may hold (R241): SUBM codes, ORDER codes, and whether it is a load, a store or both. -/
structure MemRow where
  subm  : List Nat
  order : List Nat
  loads : Bool
  stores : Bool
  hasScope : Bool
  scratch : Bool
  virt  : Bool
  record : Bool
  deriving DecidableEq, Repr, Inhabited

/-- The rows of R241's table. -/
def memRow (o : Op) : MemRow :=
  match o with
  | .ld     => ⟨[0, 1], [0, 1], true, false, true, false, true, true⟩
  | .st     => ⟨[0], [0, 2], false, true, true, false, true, true⟩
  | .lds    => ⟨[0, 1], [0], true, false, false, false, true, true⟩
  | .pref   => ⟨[0], [0], true, false, false, false, true, true⟩
  | .ldX    => ⟨[0, 1], [0, 1], true, false, true, true, false, false⟩
  | .stX    => ⟨[0], [0, 2], false, true, true, true, false, false⟩
  | .sld    => ⟨[0, 1], [0, 1], true, false, true, false, true, false⟩
  | .sst    => ⟨[0], [0, 2], false, true, true, false, true, false⟩
  | .recld  => ⟨[0], [0], true, false, false, false, true, false⟩
  | .atom   => ⟨[0, 1, 2, 3, 4, 5, 6, 7], [0, 1, 2, 3], true, true, true, false, true, true⟩
  | .incb   => ⟨[0], [0, 1, 2, 3], true, true, true, false, true, true⟩
  | .celladd => ⟨[0, 1, 2, 3], [0, 2, 3], true, true, true, false, true, true⟩
  | .cellrd => ⟨[0, 1, 2], [0, 1], true, false, true, false, true, true⟩
  | .cellclr => ⟨[0], [0, 2], false, true, true, false, true, true⟩
  | .monitor => ⟨[0, 1, 2], [0], true, false, false, false, true, true⟩
  | .acpy   => ⟨[0], [0], false, false, false, false, true, true⟩
  | _       => ⟨[0, 1, 2], [0], false, false, true, false, false, false⟩

/-- The defects of form M: SUBM, ORDER, CACHE, SCOPE, IMM24 and BIDX (R65, R66, R164, R237, R241, R249, R251). -/
def memDefects (o : Op) (w : Raw) : List Defect :=
  let r := memRow o
  let subm := fsBits w 51 3; let order := fsBits w 49 2; let cache := fsBits w 47 2
  let scope := fsBits w 44 3; let imm24 := fsBits w 20 24; let bidx := fsBits w 16 4
  let fence := o == .fence
  defectIf (!r.subm.contains subm) (if r.subm = [0] then 3 else 7) 51 ++
  defectIf (scope > 5) 6 44 ++
  defectIf (!fence && order == 0 && scope != 0) 6 44 ++
  defectIf (r.loads && !r.stores && (order == 2 || order == 3)) 6 49 ++
  defectIf (r.stores && !r.loads && (order == 1 || order == 3)) 6 49 ++
  defectIf (order == 3 && !(o == .atom || o == .incb || o == .celladd)) 6 49 ++
  defectIf (r.scratch && scope ≥ 2) 6 44 ++
  defectIf (!r.order.contains order) 7 49 ++
  defectIf (!r.hasScope && scope != 0) 7 44 ++
  defectIf (!r.virt && cache != 0) 3 47 ++
  defectIf (fence && imm24 != 0) 3 20 ++
  defectIf (!r.record && bidx != 0) 3 16 ++
  defectIf (o == .monitor && subm == 2 && w.a != 0) 3 63 ++
  defectIf (o == .monitor && subm == 2 && imm24 != 0) 3 20 ++
  defectIf (o == .monitor && subm == 2 && bidx != 0) 3 16 ++
  defectIf (o == .acpy && bidx % 2 == 1) 7 16 ++
  defectIf (o == .atom && (w.ty == 5 || w.ty == 6) && !(subm == 1 || subm == 2)) 7 81

/-- The sub-elements of a 64-bit register at the width that TYPE 0 to 3 names (R17). -/
def subsOfTy (ty : Nat) : Nat := 8 / 2 ^ ty

/-- The defects that one further rule of an entry finds. Where the spec gives no WHY or FIELD the choice is the model's (DESIGN CHOICE, assumption 13): nonzero IMM32
bits 31:16 of BR, BRC and CALL have FIELD 38, their lowest bit; a V source of an S destination is WHY 2 at the source; UNS with a float TYPE in QMUL, QMULS and QDIV is
WHY 7 at UNS; a scan TYPE that does not match TYPE2 is WHY 7 at TYPE, and its nonzero IMM8 bits 7:1 have FIELD 25. -/
def extraDefects (o : Op) (sp : Spec) (w : Raw) (e : Extra) : List Defect :=
  let sub := rawSub sp w
  let ty := w.ty.toNat
  let imm8 := fsBits w 24 8; let ssel := fsBits w 35 3; let type2 := if rawForm sp w == .i then 0 else fsBits w 32 3
  match e with
  | .br => defectIf (fsBits w 38 16 != 0) 3 38
  | .srd => defectIf (codeIs w.dst .s && (w.a == 0x180 || w.a == 0x194 || w.a == 0x196)) 2 63
  | .swr =>
      if w.dst = 0x194 then [] else if w.dst = 0x195 then defectIf (codeIs w.a .v) 2 63
      else defectIf (codeIs w.dst .sys) 2 72
  | .racq => defectIf (sub > 1) 7 20
  | .quarter => defectIf (ssel > 3) 7 35
  | .vote =>
      defectIf (sub > 3) 7 20 ++
      defectIf ((sub < 2 && codeIs w.dst .s) || ((sub == 2 || sub == 3) && codeIs w.dst .p)) 2 72
  | .sdst =>
      if codeIs w.dst .s then
        defectIf (sp.a != [] && codeIs w.a .v) 2 63 ++ defectIf (sp.b != [] && codeIs w.b .v) 2 54 ++
        defectIf (sp.c != [] && codeIs (rawC w) .v) 2 45
      else []
  | .subMax1 => defectIf (sub > 1) 7 20
  | .subMax4 => defectIf (sub > 4) 7 20
  | .subMax5 => defectIf (sub > 5) 7 20
  | .subMax7 => defectIf (sub > 7) 7 20
  | .tyNotB => defectIf (ty == 0) 7 81
  | .tyNotD => defectIf (ty == 3) 7 81
  | .shfl =>
      defectIf (sub > 3) 7 20 ++
      (if sub = 0 then defectIf (imm8 != 0) 3 24 ++ defectIf (ssel != 0) 3 35
       else defectIf (sub ≤ 3 && w.b != 0) 3 54 ++ defectIf (imm8 > 63) 7 24 ++ defectIf (ssel ≥ subsOfTy ty) 7 35)
  | .lanesel => defectIf (imm8 > 63) 7 24 ++ defectIf (ssel ≥ subsOfTy ty) 7 35
  | .scan =>
      let flt := sub ≥ 8
      defectIf (sub == 6 || sub == 7 || sub > 10) 7 20 ++
      (if flt then
        defectIf (type2 > 3) 4 32 ++ defectIf (type2 ≤ 3 && ty != (if type2 ≤ 1 then 1 else type2)) 7 81 ++
        defectIf (fsBits w 19 1 != 0) 3 19
      else defectIf (type2 != 0) 3 32 ++ defectIf (fsBits w 16 2 != 0) 3 16) ++
      defectIf (imm8 / 2 != 0) 3 25
  | .lred => defectIf (imm8 % 2 != 0) 3 24
  | .cvt =>
      let intSrc := o == .i2f
      let intDst := o == .f2i
      defectIf (if intSrc then type2 > 3 else type2 > 5) 4 32 ++
      (let ws := if intSrc then 8 * 2 ^ type2 else if type2 ≤ 1 then 16 else if type2 = 2 then 32 else if type2 = 3 then 64 else 8
       let wd := if intDst then 8 * 2 ^ ty else if ty ≤ 1 then 16 else if ty = 2 then 32 else if ty = 3 then 64 else 8
       let lim := if ws ≤ wd then wd / ws else ws / wd
       defectIf (sub ≥ lim) 7 20 ++
       defectIf (!intSrc && ws == 8 && w.a == 0x1FF) 2 63) ++
      defectIf (!intDst && fsBits w 18 1 != 0 && ty != 5) 7 18
  | .fdot => defectIf (type2 > 5) 4 32 ++ defectIf (type2 == 2 || type2 == 3) 7 32
  | .mem => memDefects o w
  | .mat => if w.hdr.gneg then [⟨7, 3⟩] else defectIf (w.hdr.gpred != 0) 7 4
  | .shape => defectIf (ty ≥ 4) 3 83 ++ defectIf (fsBits w 30 2 == 3) 4 30
  | .mma =>
      defectIf (type2 > 5) 4 32 ++ defectIf (codeIs w.a .v && type2 == 0) 2 32 ++ defectIf (codeIs w.a .s && type2 != 0) 2 32
  | .amcvt =>
      defectIf (type2 == 2 || type2 == 3 || type2 == 7) 4 32 ++
      defectIf (type2 == 6 && fsBits w 16 2 != 0) 3 16 ++ defectIf (type2 != 5 && fsBits w 18 1 != 0) 7 18
  | .prune => defectIf (!(if ty = 0 then sub ≤ 2 else sub == 3 || sub == 4)) 7 20
  | .bmap =>
      defectIf (sub > 1) 7 20 ++ defectIf (imm8 == 0 || imm8 > 8) 7 24 ++ defectIf (ssel > 1) 7 35 ++
      defectIf (ssel ≤ 1 && 32 * ssel + imm8 * subsOfTy ty > 64) 7 24
  | .qty => defectIf (ty ≥ 4 && fsBits w 19 1 != 0) 7 19
  | .qrd => defectIf (imm8 > 63) 7 24

/-- Every defect of a word that is no pair word, given its operation (R173). -/
def bodyDefects (o : Op) (w : Raw) : List Defect :=
  let sp := opSpec o
  operandDefects sp.dst w.dst 72 ++ operandDefects sp.a w.a 63 ++ operandDefects sp.b w.b 54 ++
  defectIf (w.a == 0x1FF && w.b == 0x1FF) 2 54 ++
  typeDefects sp w ++ fieldDefects sp w ++ sp.extra.flatMap (extraDefects o sp w)

/-! ### Pair words -/

/-- The half-operation of half 1 that a code names (R170). -/
def halfOp1OfCode (n : Nat) : Option HalfOp1 :=
  match n with
  | 0x00 => some .iadd | 0x01 => some .isub | 0x02 => some .imin | 0x03 => some .imax | 0x04 => some .ineg
  | 0x05 => some .iabs | 0x08 => some .and | 0x09 => some .or | 0x0A => some .xor | 0x0B => some .andn
  | 0x0C => some .not | 0x10 => some .shl | 0x11 => some .shr | 0x12 => some .sar | 0x13 => some .rol
  | 0x14 => some .ror | 0x3F => some .empty
  | _ => none

/-- The code of a half-operation of half 1 (R170). -/
def halfOp1Code (h : HalfOp1) : BitVec 6 :=
  match h with
  | .iadd => 0x00 | .isub => 0x01 | .imin => 0x02 | .imax => 0x03 | .ineg => 0x04 | .iabs => 0x05 | .and => 0x08
  | .or => 0x09 | .xor => 0x0A | .andn => 0x0B | .not => 0x0C | .shl => 0x10 | .shr => 0x11 | .sar => 0x12
  | .rol => 0x13 | .ror => 0x14 | .empty => 0x3F

/-- The half-operation of half 2 that a code names (R170). -/
def halfOp2OfCode (n : Nat) : Option HalfOp2 :=
  match n with
  | 0x00 => some .imul | 0x01 => some .imad | 0x02 => some .fmul | 0x03 => some .ffma | 0x3F => some .empty
  | _ => none

/-- The code of a half-operation of half 2 (R170). -/
def halfOp2Code (h : HalfOp2) : BitVec 6 :=
  match h with
  | .imul => 0x00 | .imad => 0x01 | .fmul => 0x02 | .ffma => 0x03 | .empty => 0x3F

/-- The sources that a half-operation of half 1 reads: two, or one for INEG, IABS and NOT. -/
def half1Reads (h : HalfOp1) : Nat :=
  match h with
  | .ineg | .iabs | .not => 1
  | .empty => 0
  | _ => 2

/-- The sources that a half-operation of half 2 reads. -/
def half2Reads (h : HalfOp2) : Nat :=
  match h with
  | .imad | .ffma => 3
  | .empty => 0
  | _ => 2

/-- The fields of one half of a pair word, as bits (R169). -/
structure RawHalf where
  hop : BitVec 6
  ty  : BitVec 2
  d   : BitVec 8
  a   : BitVec 8
  b   : BitVec 8
  c   : BitVec 8
  deriving DecidableEq, Repr, Inhabited

/-- The defects of one half with its lowest bit at lo (R170, R171): the number of sources its half-operation reads is given, none for an unlisted code. -/
def halfDefects (h : RawHalf) (reads : Option Nat) (lo : Nat) : List Defect :=
  match reads with
  | none => [⟨5, lo + 34⟩]
  | some 0 =>
      if h.c ≠ 0 then [⟨5, lo⟩] else if h.b ≠ 0 then [⟨5, lo + 8⟩] else if h.a ≠ 0 then [⟨5, lo + 16⟩]
      else if h.d ≠ 0 then [⟨5, lo + 24⟩] else defectIf (h.ty != 0) 5 (lo + 32)
  | some n => defectIf (n < 3 && h.c != 0) 5 lo ++ defectIf (n < 2 && h.b != 0) 3 (lo + 8)

/-- The source registers of a half with their field positions, in the order HA, HB, HC (R171). -/
def halfSources (h : RawHalf) (n lo : Nat) : List (BitVec 8 × Nat) :=
  ([(h.a, lo + 16), (h.b, lo + 8), (h.c, lo)] : List _).take n

/-- The field that brings the count of distinct source registers to four, if one does (R171). -/
def fourthSource (l : List (BitVec 8 × Nat)) (seen : List (BitVec 8)) : Option Nat :=
  match l with
  | [] => none
  | (r, p) :: t =>
      if seen.contains r then fourthSource t seen
      else if seen.length = 3 then some p
      else fourthSource t (r :: seen)

/-- Every defect of a pair word (R170, R171). -/
def pairDefects (x y : RawHalf) : List Defect :=
  let o1 := halfOp1OfCode x.hop.toNat
  let o2 := halfOp2OfCode y.hop.toNat
  let n1 := o1.map half1Reads
  let n2 := o2.map half2Reads
  halfDefects x n1 16 ++ halfDefects y n2 56 ++
  defectIf (o1 == some .empty && o2 == some .empty) 5 50 ++
  defectIf (n1.isSome && n2.isSome && n1 != some 0 && n2 != some 0 && x.d.extractLsb' 0 2 == y.d.extractLsb' 0 2) 5 80 ++
  (match fourthSource (halfSources x (n1.getD 0) 16 ++ halfSources y (n2.getD 0) 56) [] with
   | some p => [⟨5, p⟩]
   | none => [])

end Sys2Proof.Machine
end

