-- ==== Sys2Proof/WellFormed.lean ====
section
/-!
DEFINITION. Which instructions are well formed: those whose word has no defect (R173).

The bits of each field are given here, and an instruction word is well formed when its fields lie in the form that R163 gives it and break no rule of its encoding table.
Every event is well formed: events are not encoded.
-/

namespace Sys2Proof.Machine

/-- One bit as a number. -/
def bit (b : Bool) : BitVec 1 := if b then 1 else 0

/-- The 38 bits of FS (R164): form R holds SRCC, seven reserved zeros, SSEL, TYPE2, IMM8, SUB, UNS, SAT and RND. -/
def fsOf (f : Fs) : BitVec 38 :=
  match f with
  | .r f => (opndCode f.srcc ++ (0 : BitVec 7) ++ f.ssel ++ f.type2 ++ f.imm8 ++ f.sub ++ bit f.uns ++ bit f.sat ++ f.rnd)
  | .i f => (f.imm32 ++ f.sub2 ++ bit f.uns ++ bit f.sat ++ f.rnd)
  | .m f => (f.subm ++ f.order ++ f.cache ++ f.scope ++ f.imm24 ++ f.bidx)

/-- The fields of an instruction word as bits. -/
def rawOf (o : Op) (w : Body) : Raw :=
  ⟨w.hdr, BitVec.ofNat 6 (opSpec o).cls, BitVec.ofNat 6 (opSpec o).minor, w.ty, opndCode w.dst, opndCode w.a, opndCode w.b, fsOf w.fs⟩

/-- The layout in which the format-specific bits are held. -/
def formOf (f : Fs) : Form :=
  match f with
  | .r _ => .r
  | .i _ => .i
  | .m _ => .m

/-- RACQ whose SUB is 1 is RACQ.try (R191). -/
def refineOp (o : Op) (w : Raw) : Op :=
  match o with
  | .racq => if rawSub (opSpec .racq) w = 1 then .racqTry else .racq
  | o => o

/-- The opcode under which an operation is listed. -/
def opcodeOf (o : Op) : Nat := (opSpec o).cls * 64 + (opSpec o).minor

/-- The bits of half 1. -/
def rawHalf1 (h : Half1) : RawHalf := ⟨halfOp1Code h.hop, h.ty, h.d, h.a, h.b, h.c⟩

/-- The bits of half 2. -/
def rawHalf2 (h : Half2) : RawHalf := ⟨halfOp2Code h.hop, h.ty, h.d, h.a, h.b, h.c⟩

/-- An instruction word is well formed: its format bits are in the form R163 gives it, its SUB agrees with its name, and it has no defect (R173). -/
def wfBody (o : Op) (w : Body) : Bool :=
  formOf w.fs == rawForm (opSpec o) (rawOf o w) && refineOp (if o = .racqTry then .racq else o) (rawOf o w) == o &&
    (bodyDefects o (rawOf o w)).isEmpty

end Sys2Proof.Machine

namespace Sys2Proof

open Machine in
/-- Well-formed instructions. -/
def Instr.wf (i : Instr) : Bool :=
  match i with
  | .pair _ x y => (pairDefects (rawHalf1 x) (rawHalf2 y)).isEmpty
  | i => match i.word? with
    | some (o, w) => wfBody o w
    | none => true

end Sys2Proof
end

