-- ==== Sys2Proof/Decode.lean ====
section
/-!
DEFINITION. The decoder, total on every 96-bit word, and after it the encoder (R158 to R173).

A word that is no instruction is answered by its defect: WHY and FIELD as TRAPINFO of ILLEGAL holds them (R173).
-/

namespace Sys2Proof.Machine

/-- The header (R159). -/
def hdrOf (c : Code) : Hdr :=
  ⟨c.extractLsb' 0 3, c.getLsbD 3, c.extractLsb' 4 4, c.extractLsb' 8 5, c.getLsbD 13, c.getLsbD 14⟩

/-- The fields of the body when PAIR is 0 (R163). -/
def rawOfCode (c : Code) : Raw :=
  ⟨hdrOf c, c.extractLsb' 90 6, c.extractLsb' 84 6, c.extractLsb' 81 3, c.extractLsb' 72 9, c.extractLsb' 63 9, c.extractLsb' 54 9,
    c.extractLsb' 16 38⟩

/-- The format-specific bits read in one layout (R164), none when SRCC holds a reserved code. -/
def fsOfRaw (f : Form) (w : BitVec 38) : Option Fs :=
  match f with
  | .i => some (.i ⟨w.extractLsb' 6 32, w.extractLsb' 4 2, w.getLsbD 3, w.getLsbD 2, w.extractLsb' 0 2⟩)
  | .m => some (.m ⟨w.extractLsb' 35 3, w.extractLsb' 33 2, w.extractLsb' 31 2, w.extractLsb' 28 3, w.extractLsb' 4 24, w.extractLsb' 0 4⟩)
  | _ => (opndOfCode (w.extractLsb' 29 9)).map (fun c =>
      .r ⟨c, w.extractLsb' 19 3, w.extractLsb' 16 3, w.extractLsb' 8 8, w.extractLsb' 4 4, w.getLsbD 3, w.getLsbD 2, w.extractLsb' 0 2⟩)

/-- The fields of a word with every operand named, none when a field holds a reserved code (R165). -/
def bodyOfRaw (sp : Spec) (w : Raw) : Option Body :=
  match opndOfCode w.dst, opndOfCode w.a, opndOfCode w.b, fsOfRaw (rawForm sp w) w.fs with
  | some d, some a, some b, some f => some ⟨w.hdr, w.ty, d, a, b, f⟩
  | _, _, _, _ => none

/-- A word that names no operation has WHY 0; FIELD is the minor code's when the class is assigned, else the class's (R172, R173). -/
def unassigned (cls : Nat) : Defect :=
  if opTable.any (fun e => e.1 / 64 == cls) then ⟨0, 84⟩ else ⟨0, 90⟩

/-- The bits of half 1 or half 2, from its lowest bit (R169). -/
def rawHalfOf (c : Code) (lo : Nat) : RawHalf :=
  ⟨c.extractLsb' (lo + 34) 6, c.extractLsb' (lo + 32) 2, c.extractLsb' (lo + 24) 8, c.extractLsb' (lo + 16) 8, c.extractLsb' (lo + 8) 8,
    c.extractLsb' lo 8⟩

/-- Decoding of a pair word (R169 to R171). -/
def decodePair (c : Code) : Except Defect Instr :=
  let x := rawHalfOf c 16
  let y := rawHalfOf c 56
  match Defect.worst (pairDefects x y) with
  | some d => .error d
  | none =>
    match halfOp1OfCode x.hop.toNat, halfOp2OfCode y.hop.toNat with
    | some o1, some o2 => .ok (.pair (hdrOf c) ⟨o1, x.ty, x.d, x.a, x.b, x.c⟩ ⟨o2, y.ty, y.d, y.a, y.b, y.c⟩)
    | _, _ => .error ⟨5, 50⟩

/-- Decoding of a word that is no pair word (R163 to R168, R172). -/
def decodeBody (c : Code) : Except Defect Instr :=
  let w := rawOfCode c
  match opOfCode (w.cls.toNat * 64 + w.minor.toNat) with
  | none => .error (unassigned w.cls.toNat)
  | some o0 =>
    let o := refineOp o0 w
    match Defect.worst (bodyDefects o w) with
    | some d => .error d
    | none =>
      match bodyOfRaw (opSpec o) w with
      | some b => .ok (o.mk b)
      | none => .error ⟨1, 45⟩

/-- The instruction of a word, or the defect that makes it none (R173). -/
def decode (c : Code) : Except Defect Instr :=
  if c.getLsbD 15 then decodePair c else decodeBody c

/-- The word whose bytes stand in memory, least significant first (R6, R158). -/
def codeOfBytes (l : List Byte) : Code :=
  match l with
  | [] => 0
  | b :: t => b.setWidth 96 ||| (codeOfBytes t <<< 8)

/-- The n bytes of a word from its byte i upward. -/
def bytesOfCode (c : Code) (i n : Nat) : List Byte :=
  match n with
  | 0 => []
  | n + 1 => c.extractLsb' (8 * i) 8 :: bytesOfCode c (i + 1) n

/-! ### The encoder -/

/-- The header bits with PAIR (R159). -/
def hdrBits (h : Hdr) (pair : Bool) : BitVec 16 :=
  bit pair ++ bit h.rh ++ bit h.yh ++ h.stall ++ h.gpred ++ bit h.gneg ++ h.slot

/-- The word of its fields (R163). -/
def codeOfRaw (w : Raw) : Code :=
  w.cls ++ w.minor ++ w.ty ++ w.dst ++ w.a ++ w.b ++ w.fs ++ hdrBits w.hdr false

/-- The 40 bits of a half (R169). -/
def halfBits (h : RawHalf) : BitVec 40 := h.hop ++ h.ty ++ h.d ++ h.a ++ h.b ++ h.c

/-- The word of a pair (R169). -/
def codeOfPair (h : Hdr) (x y : RawHalf) : Code := halfBits y ++ halfBits x ++ hdrBits h true

/-- The word of an instruction, none for an event. -/
def encode (i : Instr) : Option Code :=
  match i with
  | .pair h x y => some (codeOfPair h (rawHalf1 x) (rawHalf2 y))
  | i => i.word?.map (fun p => codeOfRaw (rawOf p.1 p.2))

end Sys2Proof.Machine

namespace Sys2Proof

open Machine in
/-- The instruction that the decoder reads from bits numbered as the opcode table numbers them: bit 0 is the least significant bit of word 0, which is stored first, least significant byte first. -/
def decodeTableWord (nbits w : Nat) : Option Instr :=
  match decode (codeOfBytes (bytesOfCode (BitVec.ofNat 96 (w % 2 ^ nbits)) 0 12)) with
  | .ok i => some i
  | .error _ => none

end Sys2Proof
end

