-- ==== Sys2Proof/Machine/Sparse.lean ====
section
/-!
DEFINITION. Sparse contents by key: a list of key and value pairs in one canonical form, keys strictly rising and no entry equal to what an unlisted key reads as.

Memory and the register files are held this way, so that equal contents are equal data.
-/

namespace Sys2Proof.Machine

/-- Sparse contents by key. -/
abbrev SMap (α : Type) := List (Nat × α)

/-- What a key reads as: its first entry's value; an unlisted key reads as the default. -/
def smGet {α : Type} (d : α) (m : SMap α) (k : Nat) : α :=
  match m with
  | [] => d
  | (k', v) :: t => if k = k' then v else smGet d t k

/-- Put an entry at its place among rising keys. -/
def smPut {α : Type} (m : SMap α) (k : Nat) (v : α) : SMap α :=
  match m with
  | [] => [(k, v)]
  | (k', v') :: t => if k < k' then (k, v) :: (k', v') :: t else if k = k' then (k, v) :: t else (k', v') :: smPut t k v

/-- Remove the entries of a key. -/
def smDel {α : Type} (m : SMap α) (k : Nat) : SMap α := m.filter (fun e => e.1 != k)

/-- Write one key, keeping the canonical form: writing the default removes the entry. -/
def smSet {α : Type} [DecidableEq α] (d : α) (m : SMap α) (k : Nat) (v : α) : SMap α := if v = d then smDel m k else smPut m k v

/-- The canonical form above a bound: keys at or above it, strictly rising, and no entry holds the default. -/
def smWfFrom {α : Type} [DecidableEq α] (d : α) (lo : Nat) (m : SMap α) : Bool :=
  match m with
  | [] => true
  | (k, v) :: t => decide (lo ≤ k) && decide (v ≠ d) && smWfFrom d (k + 1) t

/-- The canonical form. -/
def smWf {α : Type} [DecidableEq α] (d : α) (m : SMap α) : Bool := smWfFrom d 0 m

/-- Keep the entries whose key satisfies a test. -/
def smFilter {α : Type} (f : Nat → Bool) (m : SMap α) : SMap α := m.filter (fun e => f e.1)

/-- Memory: bytes by location, in canonical form. -/
abbrev Memory := List Host.Cell

/-- What an unlisted byte of memory reads as: zero, for memory that nothing has written (DESIGN CHOICE, assumption 3). -/
def unlistedByte : Byte := 0

/-- The byte at a location. -/
def Memory.get (m : Memory) (k : Nat) : Byte := smGet unlistedByte m k

/-- Write one byte. -/
def Memory.set (m : Memory) (k : Nat) (b : Byte) : Memory := smSet unlistedByte m k b

/-- Write bytes at the keys given with them; the first byte listed for a key counts. -/
def Memory.setAll (m : Memory) (l : List (Nat × Byte)) : Memory := l.foldr (fun e m => m.set e.1 e.2) m

/-- The canonical form of memory. -/
def Memory.wf (m : Memory) : Bool := smWf unlistedByte m

end Sys2Proof.Machine
end

