-- ==== Sys2Proof/Machine/State.lean ====
section
/-!
DEFINITION. The state of the module as plain data: everything the spec gives the machine, and the model's own bookkeeping, marked so.

The architectural pieces are listed with their rules in INVENTORY.md under State.
Numbers that no instruction adds, shifts or masks as a word (indices, counts, cycles, byte addresses while they are keys) are natural numbers.
-/

namespace Sys2Proof.Machine

/-! ### Names -/

/-- Why a step stops with a fault. -/
inductive Fault where
  /-- Raised by every step while the module has no power: power management has removed it at 115 °C and only a module reset follows (R408).
  Safe: the hardware does nothing either. -/
  | noPower
  deriving DecidableEq, Repr, Inhabited

/-- Why a step is refused. -/
inductive Refusal where
  /-- An instruction that the model gives no meaning, by its mnemonic. Safe: the model stops. -/
  | notModelled (mnemonic : String)
  /-- A step of the ordering machine, of an engine or of the outside world that the rules do not allow in this state (R67), by its row.
  Safe: the machine may not take such a step. -/
  | notEnabled (row : String)
  /-- An instruction word asked for where no issue entity issues one. Safe: words run only when an entity issues them (R12). -/
  | noIssuer
  deriving DecidableEq, Repr, Inhabited

/-- A byte's place: a location of memory by its key, or a byte of a lane's V register reached through a register window (R61). -/
inductive Place where
  | mem (key : Nat)
  | vreg (crew grp reg lane byte : Nat)
  deriving DecidableEq, Repr, Inhabited

/-- The writer of a store (R64, R77, R83, R89). -/
inductive Agent where
  | group (crew grp core : Nat)
  | engine (crew core : Nat)
  | device
  | host
  deriving DecidableEq, Repr, Inhabited

/-- Stores that precede a release (R73): one that has drained, by its number, or every store of a group before a place in its program order, drained or not. -/
inductive Seen where
  | store (id : Nat)
  | group (crew grp po : Nat)
  deriving DecidableEq, Repr, Inhabited

/-! ### Results on their way -/

/-- A write of part of a register: the bits of the mask take the value's. -/
inductive RegW where
  | v (reg lane : Nat) (mask val : Word)
  | p (reg lane : Nat) (mask val : Byte)
  | s (reg : Nat) (val : Word)
  deriving DecidableEq, Repr, Inhabited

/-- A result that has not landed (R318, R321): of a fixed-latency word, or a locked one of an interlocked word, which waits behind an earlier result of its register. -/
structure Pend where
  due   : Nat
  seq   : Nat
  st    : Nat
  pos   : Nat
  lanes : Word
  regs  : List Nat
  ws    : List RegW
  lock  : Bool
  deriving DecidableEq, Repr, Inhabited

/-- What a memory word does at each of its accesses (R243 to R247); a SPAWN or an XRED stands here only while its log entry waits for a verdict (R240, R364). -/
inductive MemOp where
  | load (sign : Bool)
  | store
  | atom (op : BitVec 3) (uns : Bool)
  | incb
  | cellAdd
  | cellRd (kind : BitVec 3)
  | arm (slot : Nat) (named : Nat) (disarm : Bool)
  | recld
  | spawn (try_ : Bool)
  | xred
  deriving DecidableEq, Repr, Inhabited

/-- One access of a memory word: an aligned run of up to 16 bytes for one lane (R67), when it first passed the map point and whether it was returned (R86). -/
structure Acc where
  lane   : Nat
  va     : Nat
  virt   : Bool
  size   : Nat
  data   : Nat
  cmp    : Nat
  place  : Option Place
  passed : Bool
  first  : Nat
  back   : Bool
  done   : Bool
  val    : Nat
  deriving DecidableEq, Repr, Inhabited

/-- Where a memory word's translation stands (R58, R240, R364). -/
inductive MStat where
  | walking
  | asked (token : Nat)
  | resolved
  | ready
  | faulted (cause : BitVec 8) (info : Word)
  | delivered
  deriving DecidableEq, Repr, Inhabited

/-- The destination of a loading word. -/
inductive MDst where
  | none
  | v (reg : Nat) (pair : Bool)
  | s (reg : Nat)
  | p (reg : Nat)
  deriving DecidableEq, Repr, Inhabited

/-- An issued memory word that has not completed: its loads are the outstanding-load set, its stores the store buffer (R64, R67).
For an LDS, clob holds the writes that later words have made to its destination, each with the width of its sub-elements (R120).
A blank word is a QSAVE whose accumulator the Beryl unit has not supplied (R80); a logged one has had a fault, and its log entry stands until it completes (R240). -/
structure MemWord where
  seq   : Nat
  ent   : Nat
  st    : Nat
  pos   : Nat
  op    : MemOp
  dst   : MDst
  order : BitVec 2
  scope : BitVec 3
  cnt   : Option Nat
  lds   : Bool
  clob  : List (RegW × Nat)
  lanes : Word
  zero  : List Nat
  accs  : List Acc
  stat  : MStat
  blank  : Bool
  logged : Bool := false
  deriving DecidableEq, Repr, Inhabited

/-- The kinds of fence (R74, R79, R81, R82). -/
inductive FenceKind where
  | acq | rel | full | code | record | oper
  deriving DecidableEq, Repr, Inhabited

/-- A fence that has not completed (R248). -/
structure Fence where
  seq   : Nat
  ent   : Nat
  kind  : FenceKind
  scope : BitVec 3
  deriving DecidableEq, Repr, Inhabited

/-- A store that has drained: its place in the coherence order is its place in the list (R67, R68); po is its place in its group's program order.
Its releases are scopes with the stores that they cover; a number above 5 is 6 plus a crew, for a release of crew scope with respect to that crew (R77). -/
structure Drained where
  id     : Nat
  writer : Agent
  po     : Nat
  level  : Nat
  cells  : List (Nat × Byte)
  rels   : List (Nat × List Seen)
  deriving DecidableEq, Repr, Inhabited

/-! ### Groups -/

/-- What an issue entity waits for (R345, R53). -/
inductive Wait where
  | held
  | fetch
  | fetchAsked (token : Nat)
  | racq (n : Nat) (since : Nat)
  | bar (n : Nat)
  | tbwait (off phase : Nat)
  | waita (a n : Nat)
  | twait (k : Nat)
  | mwait (since timeout : Nat)
  | spawn (try_ : Bool) (addr seq : Nat)
  | rendezvous
  deriving DecidableEq, Repr, Inhabited

/-- An issue entity's place in its state: the whole group when unsplit, one split, or the lanes of a handler (R12, R34 to R42, R49);
yh is the hint that its last word left to the pipe that issued it, yhOther one that an earlier word left to the other pipe (R161);
since is the moment at which it entered its state (R10); met says that its lanes met without a common state, so that they join in the next one (R75). -/
structure Ent where
  idx     : Nat
  lanes   : Word
  st      : Nat
  code    : List Code
  pos     : Nat
  readyAt : Nat
  issued  : Nat
  entries : Nat
  mark    : Bool
  yh      : Bool
  wait    : Option Wait
  join    : Nat
  stopped : Bool
  skips   : Nat
  pipe    : Nat
  since   : Nat
  yhOther : Bool := false
  met     : Bool := false
  deriving DecidableEq, Repr, Inhabited

/-- One lane's automaton state (R20, R31, R45, R49, R97); the fields from hOcc on are what the Cam holds while a handler runs, the return stack among them (R54, R183). -/
structure Lane where
  blk     : BitVec 16
  valid   : Bool
  occ     : BitVec 16
  marked  : Bool
  called  : Bool
  tbr     : BitVec 17
  stack   : List (BitVec 16)
  spilled : Nat
  flags   : BitVec 16
  hOcc    : BitVec 16
  hMarked : Bool
  hCalled : Bool
  hDepth  : Nat
  hStack  : List (BitVec 16)
  hSpilled : Nat
  deriving DecidableEq, Repr, Inhabited

/-- A running handler (R49, R50); pre says that a PREEMPT was in force for the group when it was entered (R53, R55). -/
structure Handler where
  cause   : BitVec 8
  trapped : Option Nat
  ent     : Ent
  pmdone  : Bool
  pre     : Bool := false
  deriving DecidableEq, Repr, Inhabited

/-- A trap that is to be delivered: its entity (none for a trap of the whole group), cause and detail (R48, R50). -/
structure Trap where
  ent   : Option Nat
  cause : BitVec 8
  info  : Word
  deriving DecidableEq, Repr, Inhabited

/-- A matrix ticket (R137); a done ticket holds the numbers of the operation's accumulator writes, which TWAIT acquires (R79). -/
inductive Ticket where
  | idle
  | busy
  | done (ids : List Nat)
  | failed (cause : BitVec 8) (info : Word)
  deriving DecidableEq, Repr, Inhabited

/-- A Beryl accumulator (R143, R144): coefficients, exponent, DEG, mode .i, and the status bits INV, COND, SAT, EXPR, NONFIN from bit 0. -/
structure QAcc where
  coef : SMap Word
  exp  : BitVec 32
  deg  : BitVec 6
  int  : Bool
  st   : BitVec 5
  deriving DecidableEq, Repr, Inhabited

/-- An armed line (R121): its slot, its virtual line and named 8-byte word, and the line's place in memory. -/
structure Monitor where
  slot : Nat
  line : Nat
  word : Nat
  key  : Option Nat
  deriving DecidableEq, Repr, Inhabited

/-- The wake latch with what set it (R122, R123): the slot of a written word, the slot of a written line, a restore. -/
structure Latch where
  write   : Option Nat
  line    : Option Nat
  restore : Bool
  deriving DecidableEq, Repr, Inhabited

/-- A resident or saved group (R16, R64). PREEMPT is taken once a pre-emption (preTaken); after PMDONE the group issues nothing more (preDone).
Fences that PREEMPT abandoned wait for TRET (heldFences), and each record that the group fetched with RECLD has a mark of its own (R245).
acq holds what the group has acquired, each with the place in program order of the acquire (R73); relf is the widest scope of a completed release fence (R74);
opf is the place of the last completed OPFENCE (R79); a floor is a lane, a byte's key and the store that the lane has read there though the group does not see it yet (R76). -/
structure Group where
  v       : SMap Word
  p       : SMap Byte
  s       : SMap Word
  b       : SMap BufRec
  a       : SMap (BitVec 10)
  q       : List QAcc
  k       : List Ticket
  gang    : List Nat
  prioW   : Option (BitVec 8)
  lanes   : List Lane
  nblk    : Nat
  ents    : List Ent
  deferred : List (Nat × Word)
  parked  : List (Nat × Word)
  handler : Option Handler
  traps   : List Trap
  atVote  : List Trap
  cause   : BitVec 8
  info    : Word
  pend    : List Pend
  mws     : List MemWord
  fences  : List Fence
  heldFences : List Fence
  acq     : List (Nat × Seen)
  relf    : Option Nat
  opf     : Nat
  floors  : List (Nat × Nat × Nat)
  monitors : List Monitor
  latch   : Option Latch
  recMark : Nat
  recMarks : List (Nat × Nat)
  turn    : Nat
  issued  : Nat
  preDone : Bool
  preTaken : Bool
  retired : Bool
  deriving DecidableEq, Repr, Inhabited

/-! ### Engines -/

/-- A kick that the request engine has not finished reading (R106, R252). -/
structure Kick where
  grp   : Nat
  seq   : Nat
  off   : Nat
  count : Nat
  deriving DecidableEq, Repr, Inhabited

/-- A copy request that has been read and waits to be accepted (R106, R107); the read of its shape record may wait for a verdict, or have been declined. -/
structure CopyReq where
  crew : Nat
  grp  : Nat
  seq  : Nat
  off  : Nat
  raw  : BitVec 512
  ask  : Option Nat
  bad  : Bool
  deriving DecidableEq, Repr, Inhabited

/-- An interval that the range scoreboard covers (R78, R115). -/
inductive Range where
  | scratch (crew lo hi : Nat)
  | opbuf (crew lo hi : Nat)
  | acc (crew lo hi : Nat)
  | regs (crew grp loBlk hiBlk : Nat)
  | virt (part lo hi : Nat)
  deriving DecidableEq, Repr, Inhabited

/-- One side of a linear copy: a virtual address, an own scratch offset or an on-chip address with the crews that held the slots of its core at acceptance (R107, R371). -/
inductive Side where
  | virt (va : Nat)
  | scratch (crew off : Nat)
  | onchip (owners : List Nat) (addr : Nat)
  deriving DecidableEq, Repr, Inhabited

/-- One end of a lane's copy: a virtual address, or the place that an on-chip address named at issue. -/
inductive Spot where
  | virt (va : Nat)
  | at_ (p : Place)
  deriving DecidableEq, Repr, Inhabited

/-- One lane's part of an ACPY (R109, R251): a source dropped by OOB reads zeros, a destination dropped by OOB is not written. -/
structure LaneCopy where
  lane : Nat
  size : Nat
  src  : Option Spot
  dst  : Option Spot
  deriving DecidableEq, Repr, Inhabited

/-- What a copy moves (R108, R109). -/
inductive CopyBody where
  | linear (src dst : Side) (len : Nat)
  | tile (toMem : Bool) (shape : BitVec 1536) (coord : List Int) (side : Side)
  | multi (src : Side) (dsts : List (Nat × Side × Option Place)) (len : Nat)
  | lanes (l : List LaneCopy)
  deriving DecidableEq, Repr, Inhabited

/-- What checking a line gives: where it lies, an error kind of R112, a fault to ask about, or no leave to pass the map point yet. -/
inductive LineRes where
  | ok (l : PLoc) (pa : Nat)
  | err (kind : Nat)
  | ask (kind : Nat)
  | wait
  deriving DecidableEq, Repr, Inhabited

/-- A copy in flight (R106): the runs of its bytes that have arrived with an error kind or 0, the runs that wait for a verdict on a line that they read or write,
the virtual lines whose fault was declined, for reads and for writes, its lines as they were translated and checked, each once and apart for reads and writes (R58, R354), the failing lines that have been posted (R112),
and the writes that SBAR counts only at the end (R77); mark is the moment since which the engine may read its source. -/
structure Copy where
  slot  : Nat
  crew  : Nat
  grp   : Nat
  seq   : Nat
  body  : CopyBody
  sbar  : Nat
  dbv   : Bool
  dbar  : Option Place
  runs  : List (Nat × Nat × Nat)
  asked : List (Nat × Nat × Nat × Bool)
  bad   : List (Nat × Bool)
  ranges : List (Nat × Range)
  lines : List ((Nat × Bool) × LineRes)
  told  : List (Nat × Nat)
  wrote : List Nat
  mark  : Nat
  deriving DecidableEq, Repr, Inhabited

/-- The shape and operands of an MMA or MMAS (R267, R268). -/
structure MmaP where
  sparse : Bool
  m : Nat
  n : Nat
  k : Nat
  aReg : Option Nat
  aFmt : Nat
  aRec : BitVec 64
  wdesc : Word
  bmReg : Nat
  sel  : Nat
  tile : Nat
  deriving DecidableEq, Repr, Inhabited

/-- An engine operation of the matrix queue (R263). -/
inductive MOp where
  | mma (p : MmaP)
  | wbld (dst : Nat) (src : Side) (len : Nat)
  | amzero (tile m n : Nat)
  | amcvt (tile m n : Nat) (fmt : Nat) (sat : Bool) (rnd : BitVec 2) (rec : BitVec 64)
  | restoreWb
  deriving DecidableEq, Repr, Inhabited

/-- An accepted operation with its members in gang order, their tickets, their places in program order and the lanes their issuing entities held (R126, R133, R137);
early holds, by member, contents of registers that the word may have read before a result on its way landed (R324);
mark is the moment since which the array may read its operands, fenced holds by group the place up to which an OPFENCE has made its stores operands for sure (R79). -/
structure MatOp where
  crew    : Nat
  members : List (Nat × Nat)
  handles : List Nat
  op      : MOp
  seqs    : List (Nat × Nat)
  lanes   : List Word
  early   : List (Nat × RegW)
  started : Bool
  fail    : Option (BitVec 8 × Word)
  kept    : List (Nat × SMap Word)
  mark    : Nat
  fenced  : List (Nat × Nat)
  deriving DecidableEq, Repr, Inhabited

/-- An arrival at a crew's rendezvous latch, in arrival order, with the word that R135 compares. -/
structure Arrival where
  grp    : Nat
  ent    : Nat
  seq    : Nat
  ticket : Nat
  gang   : List Nat
  word   : Body
  item   : MmaP
  handle : Nat
  lanes  : Word
  early  : List RegW
  opf    : Nat
  deriving DecidableEq, Repr, Inhabited

/-- The Beryl instructions with their operands as read at issue (R149). -/
inductive BOp where
  | init (q : Nat) (deg : Nat) (int : Bool)
  | deg (q : Nat) (deg : Nat)
  | mul (q : Nat) (ty : Nat) (uns : Bool) (fs : List (Nat × Nat))
  | muls (q : Nat) (ty : Nat) (uns : Bool) (fs : List Nat)
  | div (q : Nat) (ty : Nat) (uns : Bool) (fs : List (Nat × Nat))
  | conv (q qa qb : Nat)
  | rd (dst : Nat) (wide : Bool) (q : Nat) (idx : Nat) (lanes : Word)
  | norm (q : Nat) (n : BitVec 32)
  | save (q : Nat)
  | load (q : Nat) (img : Nat)
  deriving DecidableEq, Repr, Inhabited

/-- An accepted Beryl instruction (R149). -/
structure BerylOp where
  crew : Nat
  grp  : Nat
  seq  : Nat
  ent  : Nat
  st   : Nat
  pos  : Nat
  op   : BOp
  deriving DecidableEq, Repr, Inhabited

/-- A participant of a reduction that has issued its XRED (R259). -/
structure XPart where
  self  : Nat
  crew  : Nat
  core  : Nat
  seq   : Nat
  grp   : Nat
  src   : Nat
  ssc   : Nat
  dst   : Nat
  dsc   : Nat
  bar   : Nat
  part  : Nat
  dead  : Bool
  deriving DecidableEq, Repr, Inhabited

/-- A reduction in flight (R259, R260): the hops and the partial result of each block under way, the blocks that are over, per participant the lines that wait for a
verdict and those whose fault was declined, and whether descriptors have been found to differ. -/
structure Reduction where
  tag   : BitVec 32
  nblk  : Nat
  e5    : Bool
  plist : List Nat
  parts : List XPart
  partials : List (Nat × Nat × BitVec 264)
  dones : List Nat
  asked : List (Nat × Nat × Nat)
  bad   : List (Nat × Nat)
  mixed : Bool
  deriving DecidableEq, Repr, Inhabited

/-! ### Crews, tasks and images -/

/-- Where a crew's context is (R345, R366, R369). -/
inductive Phase where
  | resident
  | saved
  deriving DecidableEq, Repr, Inhabited

/-- A placed crew (R25, R27, R343, R366). -/
structure Crew where
  uid    : Nat
  task   : Nat
  taskId : BitVec 64
  part   : Nat
  img    : Nat
  unit   : Nat
  core   : Nat
  slot   : Nat
  order  : Nat
  grid   : BitVec 63
  width  : Nat
  rows   : BitVec 32
  param  : BitVec 64
  region : Nat
  grant  : BitVec 16
  access : BitVec 16
  scrKiB : Nat
  obKiB  : Nat
  obBase : Nat
  accN   : Nat
  accBase : Nat
  depth  : Nat
  bars   : Nat
  groups : List Group
  resv   : List (Nat × BitVec 64)
  kicks  : List Kick
  rdv    : List Arrival
  check  : Bool
  phase  : Phase
  preempt : Option Nat
  image  : Option Nat
  wbUsed : Bool
  wbSnap : SMap Byte
  stopped : Bool
  deriving DecidableEq, Repr, Inhabited

/-- A task in the matcher (R257, R341): seen are the stores that its crews acquire at their start (R258, R341), stores those of its crews that have retired. -/
structure Task where
  uid    : Nat
  id     : BitVec 64
  part   : Nat
  img    : Nat
  raw    : BitVec 1024
  region : Nat
  anc    : List Nat
  queue  : Option (Nat × Nat)
  base   : Nat
  eff    : Nat
  preds  : List Nat
  age    : Nat
  placed : Nat
  left   : Nat
  seen   : List Seen
  stores : List Seen
  deriving DecidableEq, Repr, Inhabited

/-- A unit entry of an image (R309). -/
structure UnitD where
  entry  : Nat
  crew   : Bool
  groups : Nat
  widthc : Nat
  regs   : Nat
  bars   : Nat
  scrKiB : Nat
  accN   : Nat
  obKiB  : Nat
  depth  : Nat
  deriving DecidableEq, Repr, Inhabited

/-- A state descriptor of an image (R311). -/
structure StateD where
  blks : List Nat
  seg  : Nat
  nword : Nat
  unit : Nat
  deriving DecidableEq, Repr, Inhabited

/-- A loaded image (R308 to R313): its tables as the loader read them. Block descriptors are read again from memory as R315 says. -/
structure Image where
  id     : Nat
  part   : Nat
  base   : Nat
  blockOff : Nat
  codeOff : Nat
  units  : List UnitD
  blocks : List (BitVec 64)
  states : List StateD
  tlog2  : Nat
  trans  : List (BitVec 128)
  hands  : List Nat
  deriving DecidableEq, Repr, Inhabited

/-! ### Translation -/

/-- A translation entry (R354): the core or cluster that holds it, the crew that filled it, the partition, the page and the leaf it came from. -/
structure TlbE where
  unit  : Nat
  crew  : Nat
  part  : Nat
  vbase : Nat
  size  : Nat
  pte   : BitVec 64
  pbase : Nat
  leaf  : Nat
  a     : Bool
  d     : Bool
  deriving DecidableEq, Repr, Inhabited

/-- A walk-cache entry: a table entry of level 3 to 1 (R354). -/
structure WalkE where
  die  : Nat
  part : Nat
  vbase : Nat
  level : Nat
  pte  : BitVec 64
  deriving DecidableEq, Repr, Inhabited

/-- A fault-address record (R362). -/
structure FaqRec where
  addr  : BitVec 64
  kind  : BitVec 8
  acc   : BitVec 3
  wait  : Bool
  phys  : Bool
  loc   : BitVec 2
  part  : BitVec 5
  core  : BitVec 8
  crew  : BitVec 4
  grp   : BitVec 4
  task  : BitVec 64
  token : BitVec 32
  deriving DecidableEq, Repr, Inhabited

/-- The access that a waiting record names (R364). -/
inductive Asker where
  | word (g : GRef) (seq : Nat)
  | copy (core slot off len : Nat)
  | fetch (m : Member)
  | xred (crew : Nat)
  deriving DecidableEq, Repr, Inhabited

/-! ### Cores and the device -/

/-- A code segment in a code window (R10, R82, R360). -/
structure Seg where
  img   : Nat
  st    : Nat
  code  : List Code
  last  : Nat
  stale : Bool
  deriving DecidableEq, Repr, Inhabited

/-- A record of the record cache (R81, R119), with the groups that would have read the same when it was read. -/
structure RecE where
  part : Nat
  va   : Nat
  raw  : BitVec 1536
  read : Nat
  used : Nat
  seen : List (Nat × Nat)
  deriving DecidableEq, Repr, Inhabited

/-- One core (R9, R10, R354, R366). -/
structure Core where
  pipes  : List Nat
  segs   : List Seg
  copies : List Copy
  reqs   : List CopyReq
  turn   : Nat
  beryl  : List BerylOp
  matrix : List MatOp
  recs   : List RecE
  shadow : List (Nat × Nat × Nat × Nat)
  anom   : BitVec 32
  spare  : Nat
  needRow : Nat
  deriving DecidableEq, Repr, Inhabited

/-- The registers of one submission queue (R340), and the record read from it that has not yet entered the matcher. -/
structure Queue where
  base  : BitVec 64
  log2n : BitVec 5
  en    : Bool
  region : BitVec 64
  head  : BitVec 32
  tail  : BitVec 32
  done  : BitVec 64
  skip  : Bool
  ovf   : Bool
  nskip : BitVec 16
  erridx : BitVec 32
  hand  : Option (Nat × BitVec 1024)
  flr   : Bool
  deriving DecidableEq, Repr, Inhabited

/-- One entry of the error log (R402), and whether it has been written since reset. -/
structure ErrE where
  used  : Bool
  time  : BitVec 64
  unit  : BitVec 4
  sev   : Bool
  verdict : BitVec 2
  place : BitVec 8
  loc   : BitVec 28
  deriving DecidableEq, Repr, Inhabited

/-- A targeted self-test that is due (R403): its log entry, none once that is overwritten, and what failed. -/
structure SelfTest where
  slot : Option Nat
  err  : ErrE
  deriving DecidableEq, Repr, Inhabited

/-- One monitor unit (R407). -/
structure MonU where
  ctl   : BitVec 64
  low   : BitVec 32
  width : BitVec 16
  value : BitVec 32
  samples : BitVec 32
  hist  : List (BitVec 32)
  next  : Nat
  on    : Bool
  errs  : Nat
  deriving DecidableEq, Repr, Inhabited

/-- Counters of one HBM4 stack (R405), its state and temperature (R377), and since when it has been frozen, until that is counted (R385);
rows are the rows that LROW counts, uncRows those that UNC counts, each once. -/
structure Stack where
  state : BitVec 2
  temp  : BitVec 8
  corr  : BitVec 32
  lrow  : BitVec 12
  unc   : BitVec 8
  froze : BitVec 4
  rec_  : Bool
  since : Option Nat
  rows  : List Nat
  uncRows : List Nat
  deriving DecidableEq, Repr, Inhabited

/-- One hinge-link port (R394). -/
structure Port where
  up    : Bool
  peer  : BitVec 8
  retry : BitVec 32
  deriving DecidableEq, Repr, Inhabited

/-- The registers of the device's partitions (R339, R348, R351), one record per partition. -/
structure Part where
  root  : BitVec 64
  ptroot : BitVec 64
  savebase : BitVec 64
  savesize : BitVec 64
  drain : Bool
  nextId : BitVec 64
  turn  : Nat
  deriving DecidableEq, Repr, Inhabited

/-- What survives in flash without power (R379, R396, R405, R406): the configuration record as bytes and what it enables, the dead stacks, the bad-page list,
the rows of each stack with an uncorrectable lasting verdict, the firmware stages, and whether vector 4 is owed. -/
structure Flash where
  record : List Byte
  coreen : BitVec 160
  live  : List Nat
  cap    : BitVec 28
  modNo : BitVec 8
  dead   : List Nat
  bad    : List (BitVec 64)
  unc    : List (List Nat)
  stages : List (List Byte)
  thermal : Bool
  deriving DecidableEq, Repr, Inhabited

/-- A running sweep of the Tumbler (R382): the stack, the next granule plus one, and whether the granule in W has been read. -/
structure Sweep where
  stack : Nat
  next  : Nat
  deriving DecidableEq, Repr, Inhabited

/-- The registers of the device as the host reads them (R377, R358, R361, R348, R392 to R402, R408). -/
structure Dev where
  ready : Bool
  halt  : Bool
  stage : BitVec 3
  cause : BitVec 8
  coreen : BitVec 160
  partmap : List (BitVec 8)
  parts : List Part
  mboxBusy : Option (BitVec 4 × BitVec 16)
  mboxData : BitVec 64
  mboxErr : Bool
  phase : BitVec 8
  watermark : BitVec 20
  table_ : List Nat
  capLive : BitVec 28
  hbm   : List Stack
  tmbErr : Bool
  sweep : Option Sweep
  sdAddr : BitVec 64
  sdLen : BitVec 32
  sdCmd : Option (BitVec 5 × Bool)
  sdErr : Bool
  sdDone : BitVec 32
  faqBase : BitVec 64
  faqLog : BitVec 5
  faqEn : Bool
  faqHead : BitVec 32
  faqTail : BitVec 32
  faqOvf : Bool
  faqDrop : BitVec 16
  kwyArg : BitVec 64
  kwyErr : Bool
  /-- A Keyway command in progress: its OP and the ARG it was issued with (R348). -/
  kwyBusy : Option (BitVec 4 × BitVec 64)
  killCnt : BitVec 32
  queues : List Queue
  self  : BitVec 8
  ports : List Port
  route : List (BitVec 18)
  lost  : BitVec 256
  stale : BitVec 256
  statT : List (BitVec 8)
  statP : BitVec 16
  statC : List (BitVec 12)
  elHead : BitVec 6
  elLost : BitVec 32
  elog  : List ErrE
  tests : List SelfTest
  mons  : List MonU
  secBusy : Bool
  secDone : Bool
  nonce : BitVec 256
  meas  : List (BitVec 256)
  report : BitVec 3584
  vectors : List (Nat × Nat)
  gated : List PowerBlock
  power : Bool
  deriving DecidableEq, Repr, Inhabited

/-- A kill that has been decided and not yet carried out (R347): a region of the domain, the cause and the task. -/
structure KillReq where
  region : Nat
  part   : Nat
  cause  : BitVec 8
  task   : BitVec 64
  deriving DecidableEq, Repr, Inhabited

/-- The word that is issuing: its entity, its place, and the cycle. -/
structure Cur where
  m   : Member
  st  : Nat
  pos : Nat
  cyc : Nat
  deriving DecidableEq, Repr, Inhabited

/-- The machine. Spans are the large pages that translations have come from, by partition, base and size, until a shootdown covers them (R358);
owed are the entries that have left their cache while the line of their leaf waits at the map point (R84, R356). -/
structure State where
  mem    : Memory
  drained : List Drained
  counted : List (Nat × Nat × Bool)
  crews  : List Crew
  cores  : List Core
  tlb1   : List TlbE
  tlb2   : List TlbE
  walks  : List WalkE
  spans  : List (Nat × Nat × Nat)
  owed   : List TlbE
  descs  : List (Nat × Nat × Nat × BitVec 64)
  tasks  : List Task
  rcbs   : List (Nat × BitVec 1024)
  images : List Image
  xreds  : List Reduction
  faq    : List (FaqRec × Option Asker)
  asked  : List (Nat × Asker × Nat)
  kills  : List KillReq
  dev    : Dev
  flash  : Flash
  poison : List Nat
  clock  : BitVec 64
  cyc0   : Nat
  cyc1   : Nat
  nextUid : Nat
  nextTask : Nat
  nextSeq : Nat
  nextTok : BitVec 32
  agenda : List Sched
  choices : Nat
  issue  : List Member
  cur    : Option Cur
  free   : Nat
  hostIn : List Byte
  deriving DecidableEq, Repr, Inhabited

/-! ### Reset -/

/-- A core right after module reset: nothing resident, nothing in flight; two spare rows (DESIGN CHOICE, assumption 5). -/
def Core.init : Core := ⟨[0, 0], [], [], [], 0, [], [], [], [], 0, 2, 0⟩

/-- A submission queue at reset (R340). -/
def Queue.init : Queue := ⟨0, 4, false, 0, 0, 0, 0, false, false, 0, 0, none, false⟩

/-- A monitor unit at reset (R407). -/
def MonU.init : MonU := ⟨0, 0, 1, 0, 0, List.replicate 16 0, 0, false, 0⟩

/-- A partition's registers at reset (R339, R348, R351); the next TASKID is 1 (R341). -/
def Part.init : Part := ⟨0, 0, 0, 0, false, 1, 0⟩

/-- The device's registers at reset (R7, R339 to R408); dash fields hold zero until boot loads them (DESIGN CHOICE, assumption 4). -/
def Dev.init : Dev where
  ready := false
  halt := false
  stage := 0
  cause := 0
  coreen := 0
  partmap := List.replicate 160 0x80
  parts := List.replicate 32 Part.init
  mboxBusy := none
  mboxData := 0
  mboxErr := false
  phase := 0
  watermark := 0
  table_ := []
  capLive := 0
  hbm := List.replicate 12 ⟨0, 0, 0, 0, 0, 0, false, none, [], []⟩
  tmbErr := false
  sweep := none
  sdAddr := 0
  sdLen := 0
  sdCmd := none
  sdErr := false
  sdDone := 0
  faqBase := 0
  faqLog := 6
  faqEn := false
  faqHead := 0
  faqTail := 0
  faqOvf := false
  faqDrop := 0
  kwyArg := 0
  kwyErr := false
  kwyBusy := none
  killCnt := 0
  queues := List.replicate 128 Queue.init
  self := 0
  ports := List.replicate 18 ⟨false, 0, 0⟩
  route := List.replicate 256 0
  lost := 0
  stale := 0
  statT := [0, 0]
  statP := 0
  statC := [0, 0]
  elHead := 0
  elLost := 0
  elog := List.replicate 64 ⟨false, 0, 0, false, 0, 0, 0⟩
  tests := []
  mons := List.replicate 16 MonU.init
  secBusy := false
  secDone := false
  nonce := 0
  meas := List.replicate 8 0
  report := 0
  vectors := []
  gated := []
  power := true

/-- What the flash holds (DESIGN CHOICE, assumption 4): every core enabled, twelve live stacks at full capacity, module number 0, no bad page. -/
def Flash.init : Flash := ⟨[], BitVec.allOnes 160, List.range 12, 784898, 0, [], [], List.replicate 12 [], [[], []], false⟩

/-- The machine right after module reset, before boot (R7): nothing resident, every device register at its reset value, memory with nothing listed. -/
def State.reset : State where
  mem := []
  drained := []
  counted := []
  crews := []
  cores := List.replicate 160 Core.init
  tlb1 := []
  tlb2 := []
  walks := []
  spans := []
  owed := []
  descs := []
  tasks := []
  rcbs := []
  images := []
  xreds := []
  faq := []
  asked := []
  kills := []
  dev := Dev.init
  flash := Flash.init
  poison := []
  clock := 0
  cyc0 := 0
  cyc1 := 0
  nextUid := 1
  nextTask := 1
  nextSeq := 1
  nextTok := 1
  agenda := []
  choices := 0
  issue := []
  cur := none
  free := 0
  hostIn := []

end Sys2Proof.Machine
end

