-- ==== Sys2Proof/Machine/Store.lean ====
section
/-!
DEFINITION. Storage as the ordering machine sees it (R56, R64 to R68): where bytes lie, who sees which store, and the coherence order.

A location's key is eight times its offset in its space plus the number of the space.
A store that has drained stands in the list of drained stores, oldest first, until every agent sees it; then it is part of memory.
-/

namespace Sys2Proof.Machine

/-! ### Locations (R374, R60, R61) -/

/-- A byte of the first tier. -/
def tier1Key (pa : Nat) : Nat := pa * 8

/-- A byte of the second tier. -/
def tier2Key (pa : Nat) : Nat := pa * 8 + 1

/-- A byte of host memory. -/
def hostKey (pa : Nat) : Nat := pa * 8 + 2

/-- A byte of a remote module. -/
def remoteKey (m pa : Nat) : Nat := (m * 2 ^ 52 + pa) * 8 + 3

/-- A byte of a crew's scratch. -/
def scratchKey (crew off : Nat) : Nat := (crew * 2 ^ 20 + off) * 8 + 4

/-- A byte of a crew's operand-buffer allocation. -/
def opbufKey (crew off : Nat) : Nat := (crew * 2 ^ 20 + off) * 8 + 5

/-- A byte of a crew's accumulator allocation. -/
def accKey (crew off : Nat) : Nat := (crew * 2 ^ 20 + off) * 8 + 6

/-- A byte of a core's weight buffer. -/
def wbufKey (core off : Nat) : Nat := (core * 2 ^ 20 + off) * 8 + 7

/-- The space of a key. -/
def keySpace (k : Nat) : Nat := k % 8

/-- The key of a physical address. -/
def plocKey (l : PLoc) (pa : Nat) : Nat :=
  match l with
  | .tier1 => tier1Key pa
  | .tier2 => tier2Key pa
  | .host => hostKey pa
  | .remote m => remoteKey m.toNat pa

/-- The place i bytes on. In a register window the bytes of one register of one lane are followed by those of the next lane (R61). -/
def Place.add (p : Place) (i : Nat) : Place :=
  match p with
  | .mem k => .mem (k + 8 * i)
  | .vreg c g r l b => .vreg c g r (l + (b + i) / 8) ((b + i) % 8)

/-- The keys of n bytes from a key on. -/
def keysFrom (k n : Nat) : List Nat := (List.range n).map (fun i => k + 8 * i)

/-- The keys of a place's n bytes; a register window has none. -/
def Place.keys (p : Place) (n : Nat) : List Nat :=
  match p with
  | .mem k => keysFrom k n
  | .vreg .. => []

/-- Do two runs of bytes share a byte? -/
def Place.overlap (p : Place) (n : Nat) (q : Place) (m : Nat) : Bool :=
  match p, q with
  | .mem a, .mem b => a % 8 == b % 8 && decide (a < b + 8 * m) && decide (b < a + 8 * n)
  | .vreg c g r l b, .vreg c' g' r' l' b' =>
      c == c' && g == g' && r == r' && decide (8 * l + b < 8 * l' + b' + m) && decide (8 * l' + b' < 8 * l + b + n)
  | _, _ => false

/-! ### Crews and groups -/

/-- The crew of a number. -/
def State.crew? (s : State) (uid : Nat) : Option Crew := s.crews.find? (fun c => c.uid == uid)

/-- Change one crew. -/
def State.modCrew (s : State) (uid : Nat) (f : Crew → Crew) : State :=
  { s with crews := s.crews.map (fun c => if c.uid = uid then f c else c) }

/-- Change one group of a crew. -/
def Crew.modGroup (c : Crew) (i : Nat) (f : Group → Group) : Crew := { c with groups := c.groups.modify i f }

/-- Change one group. -/
def State.modGroup (s : State) (uid i : Nat) (f : Group → Group) : State := s.modCrew uid (fun c => c.modGroup i f)

/-- The group of a crew's number and index. -/
def State.group? (s : State) (uid i : Nat) : Option Group := (s.crew? uid).bind (fun c => c.groups[i]?)

/-- Change one core. -/
def State.modCore (s : State) (i : Nat) (f : Core → Core) : State := { s with cores := s.cores.modify i f }

/-- The core of an index. -/
def State.core (s : State) (i : Nat) : Core := s.cores[i]?.getD Core.init

/-- The die and the cluster of a core (R9). -/
def dieOf (core : Nat) : Nat := core / 80

/-- The cluster of a core (R9). -/
def clusterOf (core : Nat) : Nat := core / 8

/-- The cycle count of a core's die. -/
def State.cyc (s : State) (core : Nat) : Nat := if dieOf core = 0 then s.cyc0 else s.cyc1

/-! ### Visibility (R65, R68) -/

/-- The crew of an agent. -/
def Agent.crew? (a : Agent) : Option Nat :=
  match a with
  | .group c _ _ | .engine c _ => some c
  | _ => none

/-- The core of an agent. -/
def Agent.core? (a : Agent) : Option Nat :=
  match a with
  | .group _ _ k | .engine _ k => some k
  | _ => none

/-- Are two agents one group, on whichever cores? -/
def Agent.sameGroup (a b : Agent) : Bool :=
  match a, b with
  | .group c g _, .group c' g' _ => c == c' && g == g'
  | a, b => a == b

/-- Is the agent a crew's engines? -/
def Agent.isEngine (a : Agent) : Bool :=
  match a with
  | .engine _ _ => true
  | _ => false

/-- Does the instance of a scope that contains agent a contain agent b (R65)? -/
def sameInst (scope : Nat) (a b : Agent) : Bool :=
  match scope with
  | 0 => a == b
  | 1 => a.crew?.isSome && a.crew? == b.crew?
  | 2 => a.core?.isSome && a.core? == b.core?
  | 3 => a.core?.isSome && a.core?.map dieOf == b.core?.map dieOf
  | 4 => a != .host && b != .host
  | _ => true

/-- The smallest scope whose instance contains both agents. -/
def joinScope (a b : Agent) : Nat := ((List.range 6).find? (fun n => sameInst n a b)).getD 5

/-- Is a drained store visible to an agent: at some instance that contains it (R68)? A store stays visible to a crew that has since moved to another core. -/
def Drained.visible (d : Drained) (r : Agent) : Bool := sameInst d.level d.writer r || (decide (1 ≤ d.level) && sameInst 1 d.writer r)

/-- The byte a list of cells gives a key. -/
def cellAt (l : List (Nat × Byte)) (k : Nat) : Option Byte := (l.find? (fun e => e.1 == k)).map (·.2)

/-- The byte an agent reads: of the drained stores visible to it the newest in coherence order, else memory (R68). -/
def State.readKey (s : State) (r : Agent) (k : Nat) : Byte :=
  s.drained.foldl (fun acc d => if d.visible r then (cellAt d.cells k).getD acc else acc) (s.mem.get k)

/-- The newest byte in coherence order, whoever sees it: what an atomic step acts on (R67, R70). -/
def State.latestKey (s : State) (k : Nat) : Byte :=
  s.drained.foldl (fun acc d => (cellAt d.cells k).getD acc) (s.mem.get k)

/-- Is a drained store among the stores that precede a release (R73)? -/
def Seen.has (x : Seen) (d : Drained) : Bool :=
  match x with
  | .store id => d.id == id
  | .group crew grp po => (match d.writer with
    | .group c g _ => c == crew && g == grp && decide (d.po < po)
    | _ => false)

/-- Has a word stores or atomics that have not drained? -/
def MemWord.storesLeft (m : MemWord) : Bool :=
  (match m.op with
   | .store | .atom _ _ | .incb | .cellAdd => true
   | _ => false) && m.accs.any (fun a => !a.done)

/-- Have stores that precede a release not drained: those of a group before a place in its program order (R73, R74)? -/
def State.toDrain (s : State) (x : Seen) : Bool :=
  match x with
  | .store _ => false
  | .group crew grp po => ((s.group? crew grp).map (fun g => g.mws.any (fun m => decide (m.seq < po) && m.storesLeft))).getD false

/-- Is one of the stores that precede a release not yet seen by every agent, with the stores that have drained given? -/
def State.unsettled (s : State) (l : List Drained) (x : Seen) : Bool := s.toDrain x || l.any x.has

/-- Stores that every agent sees become part of memory, in coherence order; one that is kept, as a release that still precedes others, stays with those after it. -/
def foldDrained (keep : Drained → List Drained → Bool) (m : Memory) (l : List Drained) : Memory × List Drained :=
  match l with
  | [] => (m, [])
  | d :: t => if d.level = 5 ∧ !keep d t then foldDrained keep (m.setAll d.cells) t else (m, d :: t)

/-- Does an engine read at a time of its own choosing, so that a store must still be told from what it replaced (R78, R79, R260, R266)? -/
def State.engineReads (s : State) : Bool := s.cores.any (fun k => !k.matrix.isEmpty || !k.copies.isEmpty) || !s.xreds.isEmpty

/-- Settle the head of the coherence order into memory; a release stays while a store that precedes it does not, since a later acquire of it counts that store (R73). -/
def State.settleMem (s : State) : State :=
  if s.engineReads then s
  else
    let r := foldDrained (fun d t => d.rels.any (fun r => r.2.any (s.unsettled t))) s.mem s.drained
    { s with mem := r.1, drained := r.2 }

/-- A store takes its place at the end of the coherence order, visible at the given level of its writer's instances (R67). -/
def State.append (s : State) (w : Agent) (po level : Nat) (cells : List (Nat × Byte)) (rels : List (Nat × List Seen)) : State :=
  if cells = [] then s
  else
    let d : Drained := ⟨s.nextSeq, w, po, level, cells, rels⟩
    ({ s with drained := s.drained ++ [d], nextSeq := s.nextSeq + 1 } : State).settleMem

/-- Does a store come before a read of a group's engine for sure: of the group itself by program order, of others by the moment since which the engine may read (R77, R78)? -/
def Drained.earlyTo (d : Drained) (r : Agent) (mark po : Nat) : Bool := if d.writer.sameGroup r then decide (d.po < po) else decide (d.id < mark)

/-- The bytes at keys as an engine reads them for an agent at some time of its own choosing (R77 to R79, R260, R266):
every store visible to the agent that comes before the read for sure, and the first of the others up to a free choice. -/
def State.spanRead (s : State) (r : Agent) (early : Drained → Bool) (keys : List Nat) (pick : Nat) : List Byte :=
  let seen := s.drained.filter (fun d => d.visible r)
  let later := (seen.filter (fun d => !early d && d.cells.any (fun e => keys.contains e.1))).map (·.id)
  let pickd := later.take (pick % (later.length + 1))
  let use := seen.filter (fun d => early d || pickd.contains d.id)
  keys.map (fun k => use.foldl (fun acc d => (cellAt d.cells k).getD acc) (s.mem.get k))

/-! ### V registers as bytes (R61, R134) -/

/-- A lane's V register (R16). -/
def Group.getV (g : Group) (r l : Nat) : Word := smGet 0 g.v (r * 64 + l)

/-- Write a lane's V register. -/
def Group.setV (g : Group) (r l : Nat) (x : Word) : Group := { g with v := smSet 0 g.v (r * 64 + l) x }

/-- Write the bits of a mask of a lane's V register. -/
def Group.maskV (g : Group) (r l : Nat) (m x : Word) : Group := g.setV r l ((g.getV r l &&& ~~~m) ||| (x &&& m))

/-- The byte at a place, read by an agent. -/
def State.readPlace (s : State) (r : Agent) (p : Place) : Byte :=
  match p with
  | .mem k => s.readKey r k
  | .vreg c g reg l b =>
    match s.group? c g with
    | some gr => (gr.getV reg l).extractLsb' (8 * b) 8
    | none => 0

/-- The number at n bytes from a place on. -/
def State.readNum (s : State) (r : Agent) (p : Place) (n : Nat) : Nat :=
  ofBytes ((List.range n).map (fun i => s.readPlace r (p.add i)))

/-- The registers of a group that accepted matrix operations still read (R134): first register and count. -/
def MatOp.readsOf (x : MatOp) (crew grp : Nat) : List Nat :=
  match x.op with
  | .mma p =>
    if x.crew = crew ∧ x.members.any (fun m => m.1 == grp) then
      (match p.aReg with
       | some a => (List.range (p.k * (if p.aFmt = 5 ∨ p.aFmt = 6 then 2 else 1) / 8)).map (fun i => a + i)
       | none => []) ++
      (if p.sparse then (List.range (p.k / 32)).map (fun i => p.bmReg + i) else [])
    else []
  | _ => []

/-- Accepted matrix operations that have still to read a register may read what it held before a write, unless the word that writes waits for them (R134): the old bytes
are kept beside the new. -/
def State.keepOld (s : State) (crew grp reg lane : Nat) (mask : Word) : State :=
  if s.cores.all (fun k => k.matrix.all (fun x => !(x.readsOf crew grp).contains reg)) then s
  else
    let old := ((s.group? crew grp).map (fun g => g.getV reg lane)).getD 0
    { s with cores := s.cores.map (fun k => { k with matrix := k.matrix.map (fun x =>
        if (x.readsOf crew grp).contains reg then { x with early := x.early ++ [(x.members.findIdx (fun m => m.1 == grp), .v reg lane mask old)] } else x) }) }

/-- Write register bytes; bytes of memory are not written here. -/
def State.pokeReg (s : State) (p : Place) (b : Byte) : State :=
  match p with
  | .mem _ => s
  | .vreg c g reg l i =>
    (s.keepOld c g reg l (BitVec.ofNat 64 (255 * 2 ^ (8 * i)))).modGroup c g (fun gr => if reg / 16 < gr.nblk then gr.maskV reg l (BitVec.ofNat 64 (255 * 2 ^ (8 * i))) (BitVec.ofNat 64 (b.toNat * 2 ^ (8 * i))) else gr)

/-- Store bytes at a place: memory bytes become one store of the writer at a level, register bytes take effect in the register (R77). -/
def State.storeAt (s : State) (w : Agent) (po level : Nat) (p : Place) (bytes : List Byte) (rels : List (Nat × List Seen)) : State :=
  match p with
  | .mem k => s.append w po level ((List.range bytes.length).map (fun i => k + 8 * i) |>.zip bytes) rels
  | .vreg .. => (List.range bytes.length).foldl (fun s i => s.pokeReg (p.add i) (bytes[i]?.getD 0)) s

/-! ### Free choices and error marks -/

/-- A fresh free choice: bits that nothing constrains. -/
def State.freeWord (s : State) (i : Nat) : Word := Config.freeBits s.free i

/-- The next free choice. -/
def State.nextFree (s : State) : State := { s with free := s.free + 1 }

/-- The bytes of memory whose line is marked as uncorrectable (R240, R380). -/
def State.poisoned (s : State) (k : Nat) : Bool := s.poison.contains (k / 2048 * 8 + k % 8)

end Sys2Proof.Machine
end

