-- ==== Sys2Proof/Machine/Map.lean ====
section
/-!
DEFINITION. The map in force and the map point (R84 to R88, R375, R377, R382, R403): which stack holds which first-tier line, and which lines wait.
-/

namespace Sys2Proof.Machine

/-- The granule of a first-tier address (R375). -/
def granule (pa : Nat) : Nat := pa / 2 ^ 20

/-! ### The map in force (R84, R88, R375, R377, R382) -/

/-- Lines of a granule on each of n stacks. -/
def slice (n : Nat) : Nat := ceilDiv 4096 n

/-- The 12-bit fold of a granule number. -/
def foldGran (g : Nat) : Nat := (g % 4096) ^^^ (g / 4096)

/-- The index in the table of the stack that holds line i of a granule under n stacks. -/
def stackIdx (n g i : Nat) : Nat := (i + foldGran g) % n

/-- The line within that stack. -/
def stackLine (n g i : Nat) : Nat := g * slice n + i / n

/-- Is a sweep running: MAP_PHASE odd? -/
def State.sweeping (s : State) : Bool := s.dev.phase.toNat % 2 == 1

/-- The table of the map that a running sweep moves to. -/
def State.newTable (s : State) : List Nat :=
  match s.dev.sweep with
  | some w => s.dev.table_.filter (fun k => k != w.stack)
  | none => s.dev.table_

/-- The table under which a granule is mapped: above the watermark the new map, below it the old (R84). -/
def State.mapFor (s : State) (g : Nat) : List Nat :=
  if s.sweeping && decide (s.dev.watermark.toNat < g) then s.newTable else s.dev.table_

/-- The stack of a first-tier address. -/
def State.stackOf (s : State) (pa : Nat) : Option Nat :=
  let t := s.mapFor (granule pa)
  t[stackIdx t.length (granule pa) (pa / 256 % 4096)]?

/-- The record of a stack. -/
def State.stack (s : State) (k : Nat) : Stack := (s.dev.hbm[k]?).getD default

/-- Does a self-test work on the row of an address of a tier (R403)? -/
def State.tested (s : State) (l : PLoc) (pa : Nat) : Bool :=
  s.dev.tests.any (fun t => match l with
    | .tier1 => decide (t.err.unit.toNat ≤ 1) && s.stackOf pa == some t.err.place.toNat &&
        Config.rowOf (stackLine (s.mapFor (granule pa)).length (granule pa) (pa / 256 % 4096)) == Config.rowOf t.err.loc.toNat
    | .tier2 => t.err.unit == 2 && Config.rowOf (pa / 256) == Config.rowOf (t.err.place.toNat * 2 ^ 28 + t.err.loc.toNat)
    | _ => false)

/-- Does a first-tier line wait at the map point: its granule is being moved (R84), its stack is frozen (R88), or it is under test (R403)? -/
def State.mapHeld (s : State) (pa : Nat) : Bool :=
  (s.sweeping && granule pa == s.dev.watermark.toNat) ||
  (match s.stackOf pa with
   | some k => (s.stack k).state == 1
   | none => false) || s.tested .tier1 pa

/-- Does a line of a location wait as at the map point? Lines of other tiers pass unchanged, but for those under test. -/
def State.lineHeld (s : State) (l : PLoc) (pa : Nat) : Bool := if l == .tier1 then s.mapHeld pa else s.tested l pa

/-- Does the line of a byte's key wait as at the map point? -/
def State.keyHeld (s : State) (k : Nat) : Bool :=
  match k % 8 with
  | 0 => s.mapHeld (k / 8)
  | 1 => s.tested .tier2 (k / 8)
  | _ => false

/-- Does a returned access to a place wait to perform again: it comes before any other access that has not passed the map point yet (R86)? -/
def State.returnedAt (s : State) (p : Place) (n : Nat) : Bool :=
  s.crews.any (fun c => c.groups.any (fun g => g.mws.any (fun m => m.accs.any (fun b =>
    b.back && !b.done && (b.place.map (fun q => q.overlap b.size p n)).getD false))))

/-- May n bytes of a line of a location not be accessed yet: the line waits at the map point, or a returned access to them comes first (R84, R86)? -/
def State.lineStops (s : State) (l : PLoc) (pa n : Nat) : Bool := s.lineHeld l pa || s.returnedAt (.mem (plocKey l pa)) n

/-- Change the record of a stack. -/
def State.modStack (s : State) (k : Nat) (f : Stack → Stack) : State := { s with dev := { s.dev with hbm := s.dev.hbm.modify k f } }

end Sys2Proof.Machine
end

