-- ==== Sys2Proof/Machine/Errors.lean ====
section
/-!
DEFINITION. What tells the host of events: MSI-X vectors, records for the fault-address queue, the error log and its self-tests (R361 to R363, R391, R401 to R405).
-/

namespace Sys2Proof.Machine

/-! ### Vectors (R391) -/

/-- A vector is raised to the host (R391). -/
def State.vector (s : State) (fn v : Nat) : State := { s with dev := { s.dev with vectors := s.dev.vectors ++ [(fn, v)] } }

/-- A vector of the physical function (R391). -/
def State.vector0 (s : State) (v : Nat) : State := s.vector 0 v

/-! ### Records (R362, R363) -/

/-- A record for an access of a crew (R362). -/
def State.faqRec (s : State) (uid gi addr kind acc : Nat) (wait : Bool) (tok : BitVec 32) : FaqRec :=
  let c := (s.crew? uid).getD default
  ⟨BitVec.ofNat 64 (addr / 256 * 256), BitVec.ofNat 8 kind, BitVec.ofNat 3 acc, wait, false, 0, BitVec.ofNat 5 c.part, BitVec.ofNat 8 c.core,
    BitVec.ofNat 4 c.slot, BitVec.ofNat 4 gi, c.taskId, tok⟩

/-- A record that waits to be posted, without a verdict to follow. -/
def State.report (s : State) (uid gi addr kind acc : Nat) : State :=
  { s with faq := s.faq ++ [(s.faqRec uid gi addr kind acc false 0, none)] }

/-- The location code of a key's space (R352). -/
def spaceLoc (k : Nat) : BitVec 2 := BitVec.ofNat 2 (k % 8)

/-- A record of an uncorrectable error, with the physical line (R363). -/
def State.reportPhys (s : State) (uid gi key acc : Nat) : State :=
  let r := s.faqRec uid gi (key / 8) 0x13 acc false 0
  { s with faq := s.faq ++ [({ r with phys := true, loc := spaceLoc key }, none)] }

/-! ### The error log (R401 to R403) -/

/-- What an error names: unit, severity, place and location (R402). -/
structure ErrAt where
  unit  : BitVec 4
  unc   : Bool
  place : BitVec 8
  loc   : BitVec 28
  deriving DecidableEq, Repr, Inhabited

/-- Do two errors name one line of memory: of a stack, as a line or as a row, or of the second tier? -/
def sameLine (a b : BitVec 4) : Bool := (decide (a.toNat ≤ 1) && decide (b.toNat ≤ 1)) || (a == 2 && b == 2)

/-- Does an error name a line that is under test already, as itself or with its row (R403)? -/
def State.underTest (s : State) (e : ErrAt) : Bool :=
  s.dev.tests.any (fun t => sameLine t.err.unit e.unit && t.err.place == e.place &&
    (if t.err.unit = 1 then Config.rowOf t.err.loc.toNat == Config.rowOf e.loc.toNat else t.err.loc == e.loc))

/-- A new entry of the log and the self-test that is due; overwriting an entry whose verdict is pending counts as lost (R402, R409). -/
def State.addEntry (s : State) (e : ErrAt) : State :=
  let i := s.dev.elHead.toNat
  let old := (s.dev.elog[i]?).getD default
  let x : ErrE := ⟨true, s.clock, e.unit, e.unc, 0, e.place, e.loc⟩
  let s1 : State := { s with dev := { s.dev with
    elog := s.dev.elog.set i x
    elHead := s.dev.elHead + 1
    elLost := if old.used && old.verdict == 0 then s.dev.elLost + 1 else s.dev.elLost
    tests := s.dev.tests.map (fun t => if t.slot = some i then { t with slot := none } else t) ++ (if e.unit.toNat ≤ 4 then [⟨some i, x⟩] else []) } }
  if e.unc then s1.vector0 4 else s1

/-- The monitor units count a corrected error (R407). -/
def State.countCorrected (s : State) : State := { s with dev := { s.dev with mons := s.dev.mons.map (fun u => { u with errs := u.errs + 1 }) } }

/-- An error is logged: a line that is under test adds no entry (R403); a corrected error of a stack counts in CORR. -/
def State.logError (s : State) (e : ErrAt) : State :=
  let s0 := if e.unc then s else s.countCorrected
  let s1 := if !e.unc ∧ e.unit.toNat ≤ 1 then s0.modStack e.place.toNat (fun x => { x with corr := if x.corr = BitVec.allOnes 32 then x.corr else x.corr + 1 }) else s0
  if s1.underTest e then s1 else s1.addEntry e

/-- The name of the line of a key: the stack and stack line of a first-tier line; for the second tier the number of the line (R402). -/
def State.lineErr (s : State) (k : Nat) : Option ErrAt :=
  let pa := k / 8
  if k % 8 = 0 then
    let t := s.mapFor (granule pa)
    some ⟨0, true, BitVec.ofNat 8 ((s.stackOf pa).getD 0), BitVec.ofNat 28 (stackLine t.length (granule pa) (pa / 256 % 4096))⟩
  else if k % 8 = 1 then some ⟨2, true, BitVec.ofNat 8 (pa / 256 / 2 ^ 28), BitVec.ofNat 28 (pa / 256)⟩
  else none

/-- The lines of a place that hold an uncorrectable error. -/
def State.badPlace (s : State) (p : Option Place) (n : Nat) : Option Nat :=
  match p with
  | some q => (q.keys n).find? s.poisoned
  | none => none

/-- An uncorrectable line that has been read is logged. -/
def State.logLine (s : State) (k : Nat) : State :=
  match s.lineErr k with
  | some e => s.logError e
  | none => s

/-- An uncorrectable line that an access of a group has read: it is logged and posted (R401). -/
def State.noteMark (s : State) (uid gi key acc : Nat) : State := (s.logLine key).reportPhys uid gi key acc

/-- The marked lines among bytes that an access of a group has read, each logged and posted once (R401). -/
def State.noteMarks (s : State) (uid gi acc : Nat) (keys : List Nat) : State :=
  ((keys.filter s.poisoned).map (fun k => k / 2048 * 2048 + k % 8)).eraseDups.foldl (fun s k => s.noteMark uid gi k acc) s

/-- The record of an uncorrectable line that no crew's access reads (R363). -/
def lineRec (k : Nat) : FaqRec := ⟨BitVec.ofNat 64 (k / 2048 * 256), 0x13, 0, false, true, spaceLoc k, 0, 0, 0, 0, 0, 0⟩

/-- The marked lines among bytes that the device or the host has read, each logged and posted once (R401). -/
def State.noteDev (s : State) (keys : List Nat) : State :=
  ((keys.filter s.poisoned).map (fun k => k / 2048 * 2048 + k % 8)).eraseDups.foldl (fun s k =>
    let s1 := s.logLine k
    { s1 with faq := s1.faq ++ [(lineRec k, none)] }) s

/-- The marked line that an access would read, if any, is logged. -/
def State.logBad (s : State) (p : Option Place) (n : Nat) : State :=
  match s.badPlace p n with
  | some k => s.logLine k
  | none => s

end Sys2Proof.Machine
end

