-- ==== Sys2Proof/Machine/Walk.lean ====
section
/-!
DEFINITION. Address translation (R351 to R360): page tables, the walk, the three caches, accessed and dirty bits.

The caches are lists, oldest entry first; a full cache evicts its oldest entry, since the set hash is not fixed (R355).
-/

namespace Sys2Proof.Machine

/-! ### Entries (R352) -/

/-- The physical page field of an entry. -/
def ptePA (e : BitVec 64) : Nat := (e.extractLsb' 12 40).toNat * 4096

/-- The location field of an entry. -/
def pteLoc (e : BitVec 64) : Nat := (e.extractLsb' 52 2).toNat

/-- The location that an entry names. -/
def ptePLoc (e : BitVec 64) : PLoc :=
  match pteLoc e with
  | 0 => .tier1
  | 1 => .tier2
  | 2 => .host
  | _ => .remote (e.extractLsb' 54 8)

/-- Does an address of a location lie at or above CAP_LIVE (R87)? -/
def State.aboveCap (s : State) (l : PLoc) (pa : Nat) : Bool := l == .tier1 && decide (s.dev.capLive.toNat ≤ granule pa)

/-! ### Entries again (R351, R353) -/

/-- Bytes that one entry of a level covers. -/
def levelSize (level : Nat) : Nat := 2 ^ (12 + 9 * level)

/-- Malformed entries (R353); a table entry that breaks what R352 says it must hold counts among them (DEDUCED, assumption 6).
A page of the second tier that lies beyond its 1 TiB (R374) is not among them, and is accessed like any other (DEDUCED, assumption 6). -/
def State.malformed (s : State) (level : Nat) (e : BitVec 64) : Bool :=
  let leaf := e.getLsbD 1
  e.extractLsb' 7 5 != 0 || e.extractLsb' 62 2 != 0 || (level == 3 && leaf) || (level == 0 && !leaf) ||
  (leaf && level == 1 && e.extractLsb' 12 9 != 0) || (leaf && level == 2 && e.extractLsb' 12 18 != 0) ||
  (e.extractLsb' 54 8 != 0 && pteLoc e != 3) || s.aboveCap (ptePLoc e) (ptePA e) ||
  (!leaf && (e.extractLsb' 2 5 != 0 || pteLoc e == 3))

/-- A canonical virtual address: bits 63:48 equal bit 47 (R351). -/
def canonical (va : Nat) : Bool := va < 2 ^ 47 || (2 ^ 64 - 2 ^ 47 ≤ va && va < 2 ^ 64)

/-- The entry at a key, read as a load of system scope (R353). -/
def State.readPte (s : State) (k : Nat) : BitVec 64 := BitVec.ofNat 64 (s.readNum .device (.mem k) 8)

/-! ### Monitors (R121, R122) -/

/-- The place that a virtual address has in the tables now, level by level, whatever the caches hold. -/
def State.placeFrom (s : State) (va level : Nat) (tbl : PLoc) (base : Nat) : Option Nat :=
  let e := s.readPte (plocKey tbl (base + 8 * (va / levelSize level % 512)))
  if !e.getLsbD 0 || s.malformed level e then none
  else match level with
    | 0 => some (plocKey (ptePLoc e) (ptePA e + va % 4096))
    | n + 1 => if e.getLsbD 1 then some (plocKey (ptePLoc e) (ptePA e + va % levelSize (n + 1))) else s.placeFrom va n (ptePLoc e) (ptePA e)

/-- The key of a virtual address of a partition as the tables give it now. -/
def State.tableKey (s : State) (part va : Nat) : Option Nat :=
  let root := ((s.dev.parts[part]?).getD Part.init).ptroot
  if !canonical va || pteLoc root == 3 || s.aboveCap (ptePLoc root) (ptePA root) then none else s.placeFrom va 3 (ptePLoc root) (ptePA root)

/-- Set the latch of a group whose armed line the written keys touch (R122, R123): the line lies where it was armed or last moved by a shootdown, and where the tables put it now
(R121). Of several lines touched before MWAIT returns it keeps the lowest slot number
(DESIGN CHOICE, assumption 80). -/
def Group.wake (g : Group) (place : Nat → Option Nat) (keys : List Nat) : Group :=
  g.monitors.foldl (fun g mo =>
    ((mo.key.toList ++ (place mo.line).toList).eraseDups).foldl (fun g k =>
      let inLine := keys.filter (fun x => x % 8 == k % 8 && decide (k ≤ x) && decide (x < k + 8 * 256))
      if inLine = [] then g
      else
        let w0 := k + 8 * (mo.word * 8)
        let hit := inLine.any (fun x => decide (w0 ≤ x) && decide (x < w0 + 64))
        let old := g.latch.getD ⟨none, none, false⟩
        let better := fun (o : Option Nat) => match o with
          | none => some mo.slot
          | some n => some (min n mo.slot)
        { g with latch := some (if hit then { old with write := better old.write } else { old with line := better old.line }) }) g) g

/-- A write of these keys has become visible at the device instance: it sets the latches of the groups that armed their lines (R122). -/
def State.wake (s : State) (keys : List Nat) : State :=
  if s.crews.all (fun c => c.groups.all (fun g => g.monitors.isEmpty)) then s
  else { s with crews := s.crews.map (fun c => { c with groups := c.groups.map (fun g => g.wake (fun line => s.tableKey c.part (256 * line)) keys) }) }

/-- A store by the device itself that every agent sees at once; like any other it sets the latches of armed lines (R122). -/
def State.storeAll (s : State) (k : Nat) (bytes : List Byte) : State := (s.storeAt .device 0 5 (.mem k) bytes []).wake (keysFrom k bytes.length)

/-! ### The walk -/

/-- What a walk finds: a translation with the table entries it used, a fault of a kind of R363, or a table line that waits at the map point (R84, R387). -/
inductive Walked where
  | ok (e : TlbE) (path : List WalkE)
  | fault (kind : Nat)
  | wait
  deriving DecidableEq, Repr, Inhabited

/-- A CONTIG run is in order as far as its fields go: the sixteen entries carry CONTIG and the same V, W and X, and their pages follow one another from a
64 KiB boundary (R353). -/
def runGood (l : List (BitVec 64)) : Bool :=
  let e0 := l.headD 0
  ptePA e0 % 65536 == 0 &&
    (List.range 16).all (fun i =>
      let e := l[i]?.getD 0
      e.getLsbD 6 && e.extractLsb' 0 4 == e0.extractLsb' 0 4 && ptePA e == ptePA e0 + 4096 * i && e.extractLsb' 52 10 == e0.extractLsb' 52 10)

/-- May a run be used as one page: it is in order, and none of its entries is malformed (R353; DEDUCED, assumption 6)? -/
def State.runOk (s : State) (run : List (BitVec 64)) : Bool := runGood run && run.all (fun e => !s.malformed 0 e)

/-- The keys of the run of level-0 entries in which a page's entry lies. -/
def runKeys (tbl : PLoc) (base va : Nat) : List Nat := (List.range 16).map (fun i => plocKey tbl (base + 8 * (va / 4096 % 512 / 16 * 16 + i)))

/-- The leaf of a level-0 index: one entry of a 64 KiB run in order, or of a run that is not, the page's own entry or the run's first, which of them is not fixed (R353). -/
def State.walkRun (s : State) (tbl : PLoc) (base va : Nat) (contigFirst : Bool) (mk : Nat → Nat → BitVec 64 → Nat → Nat → TlbE) : Except Nat TlbE :=
  let idx := va / 4096 % 512
  let i0 := idx / 16 * 16
  let keys := runKeys tbl base va
  let run := keys.map s.readPte
  let good := s.runOk run
  let useFirst := run.any (fun e => e.getLsbD 6) && !good && contigFirst
  let e := if useFirst then run.headD 0 else run[idx - i0]?.getD 0
  if !e.getLsbD 0 then .error 1
  else if s.malformed 0 e then .error 4
  else if useFirst then .ok (mk (va / 4096 * 4096) 4096 e (ptePA e + 4096 * (idx - i0)) (keys.headD 0))
  else if e.getLsbD 6 && good then .ok (mk (va / 65536 * 65536) 65536 (run.headD 0) (ptePA (run.headD 0)) (keys.headD 0))
  else .ok (mk (va / 4096 * 4096) 4096 e (ptePA e) (keys[idx - i0]?.getD 0))

/-- The walk from a table of a level downward (R351 to R354). -/
def State.walkFrom (s : State) (part die va : Nat) (useCache contigFirst : Bool) (mk : Nat → Nat → BitVec 64 → Nat → Nat → TlbE)
    (level : Nat) (tbl : PLoc) (base : Nat) (path : List WalkE) : Walked :=
  let vb := va / levelSize level * levelSize level
  let pa := base + 8 * (va / levelSize level % 512)
  let hit := if useCache then s.walks.find? (fun w => w.die == die && w.part == part && w.vbase == vb && w.level == level) else none
  if hit.isNone && (if level = 0 then s.lineStops tbl (pa / 128 * 128) 128 else s.lineStops tbl pa 8) then .wait
  else
    match level with
    | 0 => (match s.walkRun tbl base va contigFirst mk with
      | .ok t => .ok t path
      | .error f => .fault f)
    | n + 1 =>
      let k := plocKey tbl pa
      let e := (hit.map (·.pte)).getD (s.readPte k)
      if !e.getLsbD 0 then .fault 1
      else if s.malformed level e then .fault 4
      else if e.getLsbD 1 then .ok (mk vb (levelSize level) e (ptePA e) k) path
      else s.walkFrom part die va useCache contigFirst mk n (ptePLoc e) (ptePA e) (⟨die, part, vb, n + 1, e⟩ :: path)

/-- The first byte of each table entry that a walk reads from memory (R354, R401). -/
def State.readsFrom (s : State) (part die va : Nat) (useCache : Bool) (level : Nat) (tbl : PLoc) (base : Nat) : List Nat :=
  let vb := va / levelSize level * levelSize level
  let k := plocKey tbl (base + 8 * (va / levelSize level % 512))
  let hit := if useCache then s.walks.find? (fun w => w.die == die && w.part == part && w.vbase == vb && w.level == level) else none
  match level with
  | 0 => runKeys tbl base va
  | n + 1 =>
    let e := (hit.map (·.pte)).getD (s.readPte k)
    (if hit.isNone then [k] else []) ++
      (if e.getLsbD 0 && !s.malformed level e && !e.getLsbD 1 then s.readsFrom part die va useCache n (ptePLoc e) (ptePA e) else [])

/-- The walk of a virtual address in a partition, for a unit and a crew (R351). -/
def State.walk (s : State) (part die unit crew va : Nat) (useCache contigFirst : Bool) : Walked :=
  let root := ((s.dev.parts[part]?).getD Part.init).ptroot
  let tbl := ptePLoc root
  if !canonical va then .fault 4
  else if pteLoc root = 3 ∨ s.aboveCap tbl (ptePA root) then .fault 4
  else s.walkFrom part die va useCache contigFirst
    (fun vb sz e pb lk => ⟨unit, crew, part, vb, sz, e, pb, lk, e.getLsbD 4, e.getLsbD 5⟩) 3 tbl (ptePA root) []

/-- The table entries that the walk of an address reads. -/
def State.walkReads (s : State) (part die va : Nat) (useCache : Bool) : List Nat :=
  let root := ((s.dev.parts[part]?).getD Part.init).ptroot
  if !canonical va ∨ pteLoc root = 3 ∨ s.aboveCap (ptePLoc root) (ptePA root) then []
  else s.readsFrom part die va useCache 3 (ptePLoc root) (ptePA root)

/-! ### Accessed and dirty (R356, R357) -/

/-- Is the partition in walker mode? -/
def State.walkerMode (s : State) (part : Nat) : Bool := ((s.dev.parts[part]?).getD Part.init).ptroot.getLsbD 0

/-- OR A and D into a leaf, in one step that every agent sees. -/
def State.orLeaf (s : State) (k : Nat) (a d : Bool) : State :=
  let old := s.latestKey k
  let new := old ||| (if a then 0x10 else 0) ||| (if d then 0x20 else 0)
  if new = old then s else s.storeAll k [new]

/-- The entry leaves its cache or is harvested: in harvest mode A and D reach the leaf (R356), as soon as the line of the leaf passes the map point (R84). -/
def State.flushEntry (s : State) (e : TlbE) : State :=
  if s.walkerMode e.part || !(e.a || e.d) then s
  else if s.keyHeld e.leaf then { s with owed := s.owed ++ [e] }
  else s.orLeaf e.leaf e.a e.d

/-- What the entries that have left owe reaches those leaves whose lines pass the map point again. -/
def State.settleOwed (s : State) : State :=
  if s.owed = [] then s
  else s.owed.foldl (fun s e => s.flushEntry e) { s with owed := [] }

/-- Flush entries, oldest first. -/
def State.flushAll (s : State) (l : List TlbE) : State := l.foldl (fun s e => s.flushEntry e) s

/-- The entry covers a virtual address. -/
def TlbE.covers (e : TlbE) (part va : Nat) : Bool := e.part == part && decide (e.vbase ≤ va) && decide (va < e.vbase + e.size)

/-! ### Sets (R355) -/

/-- The weight of a crew. -/
def Crew.weight (c : Crew) : Nat :=
  let w := (c.groups.foldl (fun n g => n + g.nblk) 0) * c.width / 8
  if w = 0 then 1 else w

/-- The weight of R355 with the register blocks that the image gives: GROUPS × REGS × WIDTH / 8, or 1 if that is 0. -/
def weightOf (groups regs width : Nat) : Nat :=
  let w := groups * regs * width / 8
  if w = 0 then 1 else w

/-- The sets of each of the crews, given with their weights in the order they were placed (R355). -/
def setShares (ws : List (Nat × Nat)) : List (Nat × Nat) :=
  let n := ws.length
  let total := ws.foldl (fun t w => t + w.2) 0
  let base := ws.map (fun w => (w.1, 1 + (16 - n) * w.2 / total))
  let left := 16 - base.foldl (fun t w => t + w.2) 0
  let order := (sortBy (fun a b => decide (b.2 ≤ a.2)) ws).map (·.1)
  base.map (fun w => if (order.take left).contains w.1 then (w.1, w.2 + 1) else w)

/-- The declared register blocks of a crew's groups. -/
def State.crewRegs (s : State) (c : Crew) : Nat :=
  match s.images.find? (fun i => i.id == c.img) with
  | some im => ((im.units[c.unit]?).map (·.regs)).getD 0
  | none => 0

/-- The resident crews of a core, in the order they were placed. -/
def State.residents (s : State) (core : Nat) : List Crew :=
  sortBy (fun a b => decide (a.order ≤ b.order)) (s.crews.filter (fun c => c.core == core && c.phase == .resident))

/-- The sets of a crew on a core. -/
def State.setsOf (s : State) (core crew : Nat) : Nat :=
  let ws := (s.residents core).map (fun c => (c.uid, weightOf c.groups.length (s.crewRegs c) c.width))
  (((setShares ws).find? (fun w => w.1 == crew)).map (·.2)).getD 1

/-- Drop the oldest entries beyond a number. -/
def overflow {α : Type} (l : List α) (n : Nat) : List α × List α := (l.take (l.length - n), l.drop (l.length - n))

/-- A crew's part of a first-level TLB. -/
def State.tlb1Of (s : State) (core crew : Nat) : List TlbE := s.tlb1.filter (fun e => e.unit == core && e.crew == crew)

/-- Keep a crew's first-level entries within its sets: the oldest are flushed and leave. -/
def State.trimTlb1 (s : State) (core crew n : Nat) : State :=
  let o := overflow (s.tlb1Of core crew) n
  let s1 := s.flushAll o.1
  { s1 with tlb1 := s1.tlb1.filter (fun e => !(e.unit == core && e.crew == crew) || o.2.contains e) }

/-- The sets of a core are shared out again (R355): a crew's entries in sets that it loses are flushed and invalidated. -/
def State.repartition (s : State) (core : Nat) : State :=
  (s.residents core).foldl (fun s c => s.trimTlb1 core c.uid (16 * s.setsOf core c.uid)) s

/-- Entries that a crew filled are flushed and leave when it retires or is saved (R357). -/
def State.dropCrewTlb (s : State) (crew : Nat) : State :=
  let s1 := s.flushAll ((s.tlb1.filter (fun e => e.crew == crew)) ++ (s.tlb2.filter (fun e => e.crew == crew)))
  { s1 with tlb1 := s1.tlb1.filter (fun e => e.crew != crew), tlb2 := s1.tlb2.filter (fun e => e.crew != crew) }

/-! ### Translating an access (R354) -/

/-- What translating a line gives. -/
inductive Xl where
  | ok (l : PLoc) (pa : Nat)
  | fault (kind : Nat)
  | lost (m : Nat)
  | wait
  deriving DecidableEq, Repr, Inhabited

/-- Who asks for a translation: the core, crew and partition, whether it writes, whether it fetches, and its group. -/
structure XReq where
  core  : Nat
  crew  : Nat
  part  : Nat
  write : Bool
  fetch : Bool
  grp   : Nat
  deriving DecidableEq, Repr, Inhabited

/-- Fill the second-level TLB of a cluster: 4,096 entries (R354). -/
def State.fill2 (s : State) (e : TlbE) : State :=
  let l := s.tlb2.filter (fun x => x.unit == e.unit) ++ [e]
  let o := overflow l 4096
  let s1 := s.flushAll o.1
  { s1 with tlb2 := (s1.tlb2 ++ [e]).filter (fun x => !(o.1.contains x)) }

/-- Fill the first-level TLB of a core within the crew's sets (R354, R355). -/
def State.fill1 (s : State) (e : TlbE) : State :=
  ({ s with tlb1 := s.tlb1 ++ [e] } : State).trimTlb1 e.unit e.crew (16 * s.setsOf e.unit e.crew)

/-- Fill the walk cache of a die: 1,024 entries (R354). -/
def State.fillWalks (s : State) (die : Nat) (path : List WalkE) : State :=
  let new := path.filter (fun w => !(s.walks.contains w))
  let others := s.walks.filter (fun w => w.die != die)
  let mine := s.walks.filter (fun w => w.die == die && !(new.any (fun x => x.part == w.part && x.vbase == w.vbase && x.level == w.level))) ++ new
  { s with walks := others ++ (overflow mine 1024).2 }

/-- Note the use of an entry in the caches that hold it: A, and D for a write (R356). -/
def State.noteUse (s : State) (q : XReq) (va : Nat) : State :=
  let f := fun (u : Nat) (e : TlbE) => if e.covers q.part va && e.unit == u then { e with a := true, d := e.d || q.write } else e
  { s with tlb1 := s.tlb1.map (fun e => if e.crew = q.crew ∧ !q.fetch then f q.core e else e), tlb2 := s.tlb2.map (f (clusterOf q.core)) }

/-- Is a module out of reach: marked lost, or with no port of its route mask up (R394, R395)? -/
def State.outOfReach (s : State) (m : Nat) : Bool :=
  s.dev.lost.getLsbD m || (List.range 18).all (fun p => !((s.dev.route[m]?).getD 0).getLsbD p || !(((s.dev.ports[p]?).map (·.up)).getD false))

/-- The entries of a table that memory lists, by the bytes that some store has written. -/
def State.tableEntries (s : State) (tbl : PLoc) (base : Nat) : List (BitVec 64) :=
  let keys := (s.mem.map (·.1)) ++ s.drained.flatMap (fun d => d.cells.map (·.1))
  let mine := keys.filter (fun k => k % 8 == plocKey tbl base % 8 && decide (plocKey tbl base ≤ k) && decide (k < plocKey tbl (base + 4096)))
  ((mine.map (fun k => (k - plocKey tbl base) / 64)).eraseDups).map (fun i => s.readPte (plocKey tbl (base + 8 * i)))

/-- Does a leaf below a table of a level name a module? -/
def State.leafNames (s : State) (m level : Nat) (tbl : PLoc) (base : Nat) : Bool :=
  let names := fun (e : BitVec 64) => e.getLsbD 1 && ptePLoc e == .remote (BitVec.ofNat 8 m)
  match level with
  | 0 => (s.tableEntries tbl base).any (fun e => e.getLsbD 0 && names e)
  | n + 1 => (s.tableEntries tbl base).any (fun e => e.getLsbD 0 && (names e || (!e.getLsbD 1 && pteLoc e != 3 && s.leafNames m n (ptePLoc e) (ptePA e))))

/-- Does a leaf of some partition name a module? -/
def State.moduleNamed (s : State) (m : Nat) : Bool :=
  s.dev.parts.any (fun p => pteLoc p.ptroot != 3 && s.leafNames m 3 (ptePLoc p.ptroot) (ptePA p.ptroot))

/-- Does an access that translates to a module find it lost: out of reach, or its mark was cleared while a leaf still named it (R395, R400)? -/
def State.findsLost (s : State) (m : Nat) : Bool := s.outOfReach m || s.dev.stale.getLsbD m

/-- The driver clears the lost marks of some modules (R394, R395). -/
def State.clearLost (s : State) (ms : List Nat) : State :=
  let bit := fun (m : Nat) => BitVec.ofNat 256 (2 ^ m)
  let still := ms.filter (fun m => (s.dev.lost.getLsbD m || s.dev.stale.getLsbD m) && s.moduleNamed m)
  { s with dev := { s.dev with
      lost := ms.foldl (fun x m => x &&& ~~~ bit m) s.dev.lost
      stale := still.foldl (fun x m => x ||| bit m) (ms.foldl (fun x m => x &&& ~~~ bit m) s.dev.stale) } }

/-- A module is marked lost, which vector 3 tells (R391, R394). -/
def State.markLost (s : State) (m : Nat) : State :=
  if s.dev.lost.getLsbD m then s
  else { s with dev := { s.dev with lost := s.dev.lost ||| BitVec.ofNat 256 (2 ^ m), vectors := s.dev.vectors ++ [(0, 3)] } }

/-- The translations that name a module leave the TLBs; tables never lie there (R353, R372). -/
def State.dropModule (s : State) (m : Nat) : State :=
  let names := fun (e : TlbE) => match ptePLoc e.pte with
    | .remote x => x.toNat == m
    | _ => false
  let s1 := s.flushAll (s.tlb1.filter names ++ s.tlb2.filter names)
  { s1 with tlb1 := s1.tlb1.filter (fun e => !names e), tlb2 := s1.tlb2.filter (fun e => !names e) }

/-- The translation that an entry gives, with its permissions (R352) and the lost modules (R372, R400). -/
def State.useEntry (s : State) (q : XReq) (va : Nat) (e : TlbE) : State × Xl :=
  if q.write && !e.pte.getLsbD 2 then (s, .fault 2)
  else if q.fetch && !e.pte.getLsbD 3 then (s, .fault 3)
  else
    let s1 := s.noteUse q va
    match ptePLoc e.pte with
    | .remote m => if s.findsLost m.toNat then ((s.markLost m.toNat).dropModule m.toNat, .lost m.toNat) else (s1, .ok (.remote m) (e.pbase + (va - e.vbase)))
    | l => (s1, .ok l (e.pbase + (va - e.vbase)))

/-- A page larger than 4 KiB from which a translation comes is noted, for the shootdowns that cover it (R358). -/
def State.noteSpan (s : State) (e : TlbE) : State :=
  if e.size ≤ 4096 ∨ s.spans.contains (e.part, e.vbase, e.size) then s else { s with spans := s.spans ++ [(e.part, e.vbase, e.size)] }

/-- A walk, the fills that follow it, and in walker mode the accessed and dirty bits in the leaf (R354, R356); marked lines of tables that it reads are reported (R362, R401). -/
def State.walkFill (s0 : State) (q : XReq) (va : Nat) (useCache contigFirst : Bool) : State × Xl :=
  let die := dieOf q.core
  let s := s0.noteMarks q.crew q.grp 6 (s0.walkReads q.part die va useCache)
  match s0.walk q.part die (clusterOf q.core) q.crew va useCache contigFirst with
  | .fault k => (s, .fault k)
  | .wait => (s0, .wait)
  | .ok e path =>
    if q.write && !e.pte.getLsbD 2 then (s, .fault 2)
    else if q.fetch && !e.pte.getLsbD 3 then (s, .fault 3)
    else
      let wm := s.walkerMode q.part
      let s1 := if wm then s.orLeaf e.leaf true q.write else s
      let e' := if wm then { e with pte := e.pte ||| 0x10 ||| (if q.write then 0x20 else 0), a := true, d := e.d || q.write } else e
      let s2 := ((s1.noteSpan e).fillWalks die path).fill2 e'
      let s3 := if q.fetch then s2 else s2.fill1 { e' with unit := q.core }
      s3.useEntry q va e'

/-- In walker mode the first write through an entry sets D by compare-and-swap, which waits with its line at the map point (R84); a leaf that has changed makes the
walk start again (R356). -/
def State.writeThrough (s : State) (q : XReq) (va : Nat) (e : TlbE) (contigFirst : Bool) : State × Xl :=
  if s.walkerMode q.part && q.write && !e.d && e.pte.getLsbD 2 then
    if s.keyHeld e.leaf || s.returnedAt (.mem e.leaf) 8 then (s, .wait)
    else if s.readPte e.leaf = e.pte then
      let s1 := s.orLeaf e.leaf true true
      let up := fun (x : TlbE) => if x.leaf = e.leaf ∧ x.pte = e.pte ∧ x.covers q.part va then { x with pte := x.pte ||| 0x30, a := true, d := true } else x
      ({ s1 with tlb1 := s1.tlb1.map up, tlb2 := s1.tlb2.map up } : State).useEntry q va e
    else
      let s1 : State := { s with
        tlb1 := s.tlb1.filter (fun x => !(x.covers q.part va)), tlb2 := s.tlb2.filter (fun x => !(x.covers q.part va)) }
      s1.walkFill q va false contigFirst
  else s.useEntry q va e

/-- The translation of a line: the first-level TLB for lanes, copies and engines, then the second level, then the walk (R354). -/
def State.translate (s : State) (q : XReq) (va : Nat) (useCache contigFirst : Bool) : State × Xl :=
  if !canonical va then (s, .fault 4)
  else
    match if q.fetch then none else s.tlb1.find? (fun e => e.unit == q.core && e.crew == q.crew && e.covers q.part va) with
    | some e => s.writeThrough q va e contigFirst
    | none =>
      match s.tlb2.find? (fun e => e.unit == clusterOf q.core && e.covers q.part va) with
      | some e =>
        let s1 := if q.fetch then s else s.fill1 { e with unit := q.core, crew := q.crew }
        s1.writeThrough q va e contigFirst
      | none => s.walkFill q va useCache contigFirst

/-- The lines that a translation names without any change: what the masks of R239 and the record of R362 need. -/
def State.peek (s : State) (q : XReq) (va : Nat) : Xl := (s.translate q va true false).2

/-! ### Shootdown (R358 to R360) -/

/-- Does an entry of a size at vbase cover a page of the range? No length means every page of the partition. -/
def inRange (addr pages vbase size : Nat) : Bool := pages == 0 || (decide (vbase < addr + 4096 * pages) && decide (addr < vbase + size))

/-- A and D that were collected for pages of the range reach the tables (R357). -/
def State.harvest (s : State) (part addr pages : Nat) : State :=
  let f := fun (e : TlbE) => e.part == part && inRange addr pages e.vbase e.size
  s.flushAll (s.tlb1.filter f ++ s.tlb2.filter f)

/-- The translations of a range leave every cache (R359). -/
def State.shoot (s : State) (part addr pages : Nat) : State :=
  let s1 := s.harvest part addr pages
  let keep := fun (e : TlbE) => !(e.part == part && inRange addr pages e.vbase e.size)
  { s1 with
    tlb1 := s1.tlb1.filter keep
    tlb2 := s1.tlb2.filter keep
    walks := s1.walks.filter (fun w => !(w.part == part && inRange addr pages w.vbase (levelSize w.level))) }

/-- The translations that cover an address leave every cache, so that the next walk reads the tables afresh (R364). -/
def State.forget (s : State) (part va : Nat) : State := s.shoot part (va / 4096 * 4096) 1

/-- The large pages of a shootdown's range from which translations have come, cached still or not: all of such a page is covered (R358). -/
def State.shootSpans (s : State) (part addr pages : Nat) : List (Nat × Nat) :=
  (s.spans.filter (fun e => e.1 == part && inRange addr pages e.2.1 e.2.2)).map (·.2)

/-- The large pages of a range are forgotten with the shootdown that covers them. -/
def State.dropSpans (s : State) (part addr pages : Nat) : State :=
  { s with spans := s.spans.filter (fun e => !(e.1 == part && inRange addr pages e.2.1 e.2.2)) }

/-- Do n bytes at a virtual address lie in part in a range or in the large pages that it covers? -/
def inSpans (addr pages : Nat) (spans : List (Nat × Nat)) (va n : Nat) : Bool :=
  inRange addr pages va n || spans.any (fun r => decide (va < r.1 + r.2) && decide (r.1 < va + n))

end Sys2Proof.Machine
end

