-- ==== Sys2Proof/Machine/Ops.lean ====
section
/-!
DEFINITION. The named operations over groups, entities and registers: access, landing of results, entry to a state, taking a trap and returning from one.
-/

namespace Sys2Proof.Machine

/-! ### Groups and entities -/

/-- The memory agent of a group (R64). -/
def Crew.agent (c : Crew) (g : Nat) : Agent := .group c.uid g c.core

/-- A crew's engines as a memory agent (R77). -/
def Crew.engine (c : Crew) : Agent := .engine c.uid c.core

/-- The index by which a handler's entity is named. -/
def handlerIdx : Nat := 4

/-- An issue entity of a group: a split by its index, or the handler's lanes. -/
def Group.ent? (g : Group) (i : Nat) : Option Ent :=
  if i = handlerIdx then g.handler.map (·.ent) else g.ents.find? (fun e => e.idx == i)

/-- Change an issue entity. -/
def Group.modEnt (g : Group) (i : Nat) (f : Ent → Ent) : Group :=
  if i = handlerIdx then { g with handler := g.handler.map (fun h => { h with ent := f h.ent }) }
  else { g with ents := g.ents.map (fun e => if e.idx = i then f e else e) }

/-- An issue entity of the machine. -/
def State.ent? (s : State) (m : Member) : Option Ent := (s.group? m.crew m.grp).bind (fun g => g.ent? m.ent)

/-- Change an issue entity of the machine. -/
def State.modEnt (s : State) (m : Member) (f : Ent → Ent) : State := s.modGroup m.crew m.grp (fun g => g.modEnt m.ent f)

/-- A group is split while it has more than one active split, or any deferred or parked lanes (R37). -/
def Group.isSplit (g : Group) : Bool := decide (1 < g.ents.length) || !g.deferred.isEmpty || !g.parked.isEmpty

/-- The lanes of a deferred or parked set. -/
def lanesIn (l : List (Nat × Word)) : Word := l.foldl (fun m e => m ||| e.2) 0

/-- The deferred lanes (R25). -/
def Group.defMask (g : Group) : Word := lanesIn g.deferred

/-- The live lanes of a group outside its handler. -/
def Group.liveMask (g : Group) : Word :=
  g.ents.foldl (fun m e => m ||| e.lanes) 0 ||| g.defMask ||| lanesIn g.parked

/-- A lane of a group; lanes beyond the width do not exist. -/
def Group.lane (g : Group) (l : Nat) : Lane := g.lanes[l]?.getD default

/-- Change one lane. -/
def Group.modLane (g : Group) (l : Nat) (f : Lane → Lane) : Group := { g with lanes := g.lanes.modify l f }

/-- Change the lanes of a mask. -/
def Group.modLanes (g : Group) (m : Word) (f : Nat → Lane → Lane) : Group :=
  { g with lanes := g.lanes.mapIdx (fun i l => if m.getLsbD i then f i l else l) }

/-- The image of a crew. -/
def State.image? (s : State) (id : Nat) : Option Image := s.images.find? (fun i => i.id == id)

/-! ### Registers (R16) -/

/-- P0 reads 0xFF. -/
def Group.getP (g : Group) (r l : Nat) : Byte := if r = 0 then 0xFF else smGet 0 g.p (r * 64 + l)

/-- P0 ignores writes. -/
def Group.setP (g : Group) (r l : Nat) (x : Byte) : Group := if r = 0 then g else { g with p := smSet 0 g.p (r * 64 + l) x }

/-- S0 reads 0. -/
def Group.getS (g : Group) (r : Nat) : Word := if r = 0 then 0 else smGet 0 g.s r

/-- S0 ignores writes. -/
def Group.setS (g : Group) (r : Nat) (x : Word) : Group := if r = 0 then g else { g with s := smSet 0 g.s r x }

/-- A buffer record register. -/
def Group.getB (g : Group) (r : Nat) : BufRec := smGet 0 g.b r

/-- An arrival counter. -/
def Group.getA (g : Group) (r : Nat) : BitVec 10 := smGet 0 g.a r

/-- Write an arrival counter. -/
def Group.setA (g : Group) (r : Nat) (x : BitVec 10) : Group := { g with a := smSet 0 g.a r x }

/-- Set flags of a lane; they are sticky (R97). -/
def Group.setFlags (g : Group) (l : Nat) (f : BitVec 16) : Group := g.modLane l (fun x => { x with flags := x.flags ||| f })

/-- A register's key among results on their way: the operand code of R165. -/
def vKey (r : Nat) : Nat := r

/-- The operand code of an S register. -/
def sKey (r : Nat) : Nat := 0x100 + r

/-- The operand code of a P register. -/
def pKey (r : Nat) : Nat := 0x140 + r

/-- The register that a write of part of a register names. -/
def RegW.key (w : RegW) : Nat :=
  match w with
  | .v r _ _ _ => vKey r
  | .p r _ _ _ => pKey r
  | .s r _ => sKey r

/-- Apply a write of part of a register. -/
def Group.apply (g : Group) (w : RegW) : Group :=
  match w with
  | .v r l m x => g.maskV r l m x
  | .p r l m x => g.setP r l ((g.getP r l &&& ~~~m) ||| (x &&& m))
  | .s r x => g.setS r x

/-- Apply several writes in order. -/
def Group.applyAll (g : Group) (l : List RegW) : Group := l.foldl Group.apply g

/-! ### Landing (R318 to R322) -/

/-- Land the results that are due at a cycle, in issue order. -/
def Group.land (g : Group) (cyc : Nat) : Group :=
  let due := g.pend.filter (fun p => decide (p.due ≤ cyc))
  let g1 := due.foldl (fun g p => g.applyAll p.ws) g
  { g1 with pend := g.pend.filter (fun p => !decide (p.due ≤ cyc)) }

/-- Land every result (R322). -/
def Group.landAll (g : Group) : Group :=
  let g1 := g.pend.foldl (fun g p => g.applyAll p.ws) g
  { g1 with pend := [] }

/-- Land the results that concern a lane of a mask (R322). -/
def Group.landOf (g : Group) (m : Word) : Group :=
  let g1 := (g.pend.filter (fun p => (p.lanes &&& m) != 0)).foldl (fun g p => g.applyAll p.ws) g
  { g1 with pend := g.pend.filter (fun p => (p.lanes &&& m) == 0) }

/-- Does a write touch the destination of a loading word? -/
def MDst.touched (d : MDst) (w : RegW) : Bool :=
  match d with
  | .v r pair => w.key == vKey r || (pair && w.key == vKey (r + 1))
  | _ => false

/-- Writes to the destination of an LDS that has not finished, by a word other than itself: each sub-element of such a write ends with either value (R120). -/
def Group.clobber (g : Group) (ws : List RegW) (wd self : Nat) : Group :=
  { g with
    mws := g.mws.map (fun m =>
      if m.lds ∧ m.seq ≠ self then { m with clob := m.clob ++ (ws.filter m.dst.touched).map (fun w => (w, wd)) } else m) }

/-- Do two writes name one register of one lane, or one S register? -/
def RegW.meets (w x : RegW) : Bool :=
  match w, x with
  | .v r l _ _, .v r' l' _ _ | .p r l _ _, .p r' l' _ _ => r == r' && l == l'
  | .s r _, .s r' _ => r == r'
  | _, _ => false

/-- The cycle before which a write may not land: that of the last earlier result of its register that has not landed (R321). -/
def Group.behind (g : Group) (w : RegW) : Option Nat :=
  g.pend.foldl (fun n p => if p.ws.any w.meets then some (max (n.getD 0) p.due) else n) none

/-- The lanes that a write concerns: its own lane, or those of the word for an S register. -/
def RegW.laneMask (w : RegW) (all : Word) : Word :=
  match w with
  | .v _ l _ _ | .p _ l _ _ => maskOf [l]
  | .s _ _ => all

/-- Results on their way one by one, each with the cycle in which it lands. -/
def pendOf (seq st pos : Nat) (lanes : Word) (lock : Bool) (l : List (Nat × RegW)) : List Pend :=
  l.map (fun e => ⟨e.1, seq, st, pos, e.2.laneMask lanes, [e.2.key], [e.2], lock⟩)

/-- Write registers for a word without a fixed latency: at once, but for those that wait behind an earlier result of the same register; these stay locked until they
land, but for an LDS, which locks no register (R320, R321). -/
def Group.writeFor (g : Group) (self : Nat) (lds : Bool) (l : List RegW) : Group :=
  if l = [] then g
  else
    let late := l.filterMap (fun w => (g.behind w).map (fun d => (d, w)))
    let g1 := g.applyAll (l.filter (fun w => (g.behind w).isNone))
    ({ g1 with pend := g1.pend ++ (pendOf 0 0 0 0 true late).map (fun p => if lds then { p with regs := [] } else p) } : Group).clobber l 64 self

/-- Write registers for an interlocked word that no LDS stands for. -/
def Group.writeNow (g : Group) (l : List RegW) : Group := g.writeFor 0 false l

/-- The cycle in which the last of some results lands. -/
def lastDue (l : List Pend) : Nat := l.foldl (fun n p => max n p.due) 0

/-- A fixed-latency result is on its way: each register of each lane lands L cycles after the word issued, and never before an earlier result of the same register
(R318, R321). An LDS that has not written the same destination leaves each sub-element, of the given width, either value (R120). -/
def Group.push (g : Group) (cyc lat seq st pos wd : Nat) (lanes : Word) (ws : List RegW) : Group :=
  if ws = [] then g
  else
    let new := if ws.all (fun w => (g.behind w).isNone) then [⟨cyc + lat, seq, st, pos, lanes, (ws.map (·.key)).eraseDups, ws, false⟩]
      else pendOf seq st pos lanes false (ws.map (fun w => (max (cyc + lat) ((g.behind w).getD 0), w)))
    ({ g with pend := g.pend ++ new } : Group).clobber ws wd 0

/-! ### Register blocks (R21, R23) -/

/-- Does a write go to a register that the group holds: any but a V register of a block at or above a count? -/
def RegW.inBlocks (w : RegW) (n : Nat) : Bool :=
  match w with
  | .v r _ _ _ => decide (r < 16 * n)
  | _ => true

/-- A late result reaches its registers, as far as the group still holds them (R23). -/
def Group.deliverTo (g : Group) (self : Nat) (lds : Bool) (l : List RegW) : Group := g.writeFor self lds (l.filter (fun w => w.inBlocks g.nblk))

/-- A destination without the registers at and above a block count. -/
def MDst.cut (d : MDst) (n : Nat) : MDst :=
  match d with
  | .v r pair => if 16 * n ≤ r then .none else .v r (pair && decide (r + 1 < 16 * n))
  | d => d

/-- Does the word rest in the operand log: a verdict or a delivery of its fault is awaited, or its replay (R240)? -/
def MemWord.atRest (m : MemWord) : Bool :=
  match m.stat with
  | .asked _ | .faulted _ _ | .delivered => true
  | _ => false

/-- Is the word held in the operand log: from its first fault until it completes (R240)? -/
def MemWord.held (m : MemWord) : Bool := m.logged || m.atRest

/-- Discard the blocks at and above a count, with every result on its way to them (R23); the loads that the operand log holds across a save keep their
destinations (R54, R240, R370). -/
def Group.dropBlocks (g : Group) (n : Nat) (keepHeld : Bool) : Group :=
  { g with
    v := smFilter (fun k => decide (k / 64 < 16 * n)) g.v
    nblk := min g.nblk n
    pend := g.pend.map (fun p => { p with ws := p.ws.filter (fun w => w.inBlocks n), regs := p.regs.filter (fun r => decide (255 < r) || decide (r < 16 * n)) })
    mws := g.mws.map (fun m => if keepHeld && m.held then m else { m with dst := m.dst.cut n }) }

/-- The number of no register: the destination of a QRD whose block has been released. -/
def noReg : Nat := 1024

/-- A Beryl word without a destination at or above a block count; what else it does stays. -/
def BOp.cut (o : BOp) (n : Nat) : BOp :=
  match o with
  | .rd dst wide q idx lanes => .rd (if 16 * n ≤ dst then noReg else dst) wide q idx lanes
  | o => o

/-- A group releases its blocks at and above a count (R23). -/
def State.dropBlocks (s : State) (c : Crew) (gi n : Nat) (keepHeld : Bool) : State :=
  (s.modGroup c.uid gi (fun g => g.dropBlocks n keepHeld)).modCore c.core
    (fun k => { k with beryl := k.beryl.map (fun b => if b.crew = c.uid ∧ b.grp = gi then { b with op := b.op.cut n } else b) })

/-- Accepted matrix operations that have still to read a group's registers keep the values that these hold when the group loses them at PMDONE or by retiring
(R134, R142; DESIGN CHOICE, assumption 77). -/
def State.keepRegs (s : State) (uid gi : Nat) : State :=
  match s.crew? uid, s.group? uid gi with
  | some c, some g =>
    s.modCore c.core (fun k => { k with matrix := k.matrix.map (fun x =>
      if x.crew = uid ∧ x.members.any (fun m => m.1 == gi) ∧ x.kept.all (fun e => e.1 != gi) then { x with kept := x.kept ++ [(gi, g.landAll.v)] } else x) })
  | _, _ => s

/-! ### Kills (R347) -/

/-- A fatal fault: the crew stops issuing and its fault domain is to be killed. -/
def State.fatal (s : State) (uid : Nat) (cause : BitVec 8) : State :=
  match s.crew? uid with
  | none => s
  | some c =>
    let s1 := s.modCrew uid (fun c => { c with stopped := true })
    { s1 with kills := s1.kills ++ [⟨c.region, c.part, cause, c.taskId⟩] }

/-! ### Block descriptors (R310, R315) -/

/-- The block id that names no block (R28). -/
def exitBlk : Nat := 0xFFFF

/-- An unresolved stub (R47). -/
def descStub (d : BitVec 64) : Bool := d.getLsbD 45

/-- A resolved stub (R310). -/
def descFwd (d : BitVec 64) : Bool := d.getLsbD 46

/-- A descriptor as the fetch unit takes it: of a stub, STUB, FWD and FWDBLK from memory, which a binding handler may write; every other field as the loader read it
(R315, R316; DESIGN CHOICE, assumption 86). -/
def descMix (loaded now : BitVec 64) : BitVec 64 :=
  if descStub loaded || descFwd loaded then (loaded &&& 0x00009FFFFFFFFFFF) ||| (now &&& 0xFFFF600000000000) else loaded

/-- The read of a block descriptor from the image's table in memory, translated as R356 says; the loader's copy stands where the table cannot be read. -/
def State.readDesc (s : State) (c : Crew) (im : Image) (blk : Nat) : State × BitVec 64 :=
  let loaded := im.blocks[blk]?.getD (BitVec.allOnes 64)
  match s.translate ⟨c.core, c.uid, c.part, false, false, 0⟩ (im.base + im.blockOff + 8 * blk) true false with
  | (s1, .ok l pa) =>
    let k := plocKey l pa
    (s1.noteMarks c.uid 0 3 (keysFrom k 8), descMix loaded (BitVec.ofNat 64 (s1.readNum .device (.mem k) 8)))
  | _ => (s, loaded)

/-- A block descriptor through the cluster fetch unit, which keeps it (R315). -/
def State.desc (s : State) (c : Crew) (blk : Nat) : State × BitVec 64 :=
  match s.descs.find? (fun d => d.1 == clusterOf c.core && d.2.1 == c.img && d.2.2.1 == blk) with
  | some d => (s, d.2.2.2)
  | none =>
    match s.image? c.img with
    | none => (s, BitVec.allOnes 64)
    | some im =>
      let r := s.readDesc c im blk
      ({ r.1 with descs := r.1.descs ++ [(clusterOf c.core, c.img, blk, r.2)] }, r.2)

/-- Does the read of a block descriptor wait at the map point, in the table's line or in a page table (R84)? -/
def State.descWaits (s : State) (c : Crew) (blk : Nat) : Bool :=
  !s.descs.any (fun d => d.1 == clusterOf c.core && d.2.1 == c.img && d.2.2.1 == blk) &&
  (match s.image? c.img with
   | none => false
   | some im => match s.peek ⟨c.core, c.uid, c.part, false, false, 0⟩ (im.base + im.blockOff + 8 * blk) with
     | .wait => true
     | .ok l pa => s.lineStops l pa 8
     | _ => false)

/-- The fall-through of a block. -/
def descFall (d : BitVec 64) : Nat := (d.extractLsb' 0 16).toNat

/-- The home state of a block. -/
def descHome (d : BitVec 64) : Nat := (d.extractLsb' 16 16).toNat

/-- The unit of a block, or the unit that a stub binds. -/
def descUnit (d : BitVec 64) : Nat := (d.extractLsb' 32 12).toNat

/-- A merge block (R39). -/
def descMerge (d : BitVec 64) : Bool := d.getLsbD 44

/-- The block that a resolved stub forwards to. -/
def descFwdBlk (d : BitVec 64) : Nat := (d.extractLsb' 48 16).toNat

/-- A vacant descriptor (R410). -/
def descVacant (d : BitVec 64) : Bool := d == BitVec.allOnes 64

/-! ### The transition table (R312) -/

/-- The hash of a key. -/
def keyHash (key : List Nat) : Nat := key.foldl (fun x id => ((x * 32 % 65536 + x / 2048) ^^^ id) % 65536) 0x5A5A

/-- The blocks of a table entry. -/
def transKey (e : BitVec 128) : List Nat :=
  ((List.range 7).map (fun i => (e.extractLsb' (16 * i) 16).toNat)).filter (fun b => b != exitBlk)

/-- Probing from a slot onward until the key or an empty entry is found. -/
def probe (im : Image) (key : List Nat) (slot fuel : Nat) : Option Nat :=
  match fuel with
  | 0 => none
  | n + 1 =>
    let e := im.trans[slot % 2 ^ im.tlog2]?.getD (BitVec.allOnes 128)
    if (e.extractLsb' 0 16).toNat = exitBlk then none
    else if transKey e = key then some (e.extractLsb' 112 16).toNat
    else probe im key (slot + 1) n

/-- The successor state of a set of blocks given in ascending order, if it is a key (R33, R312). -/
def Image.succ? (im : Image) (key : List Nat) : Option Nat := probe im key (keyHash key % 2 ^ im.tlog2) (2 ^ im.tlog2)

/-! ### Entering a state (R10, R31, R360) -/

/-- Bytes that a segment takes in a code window: whole pages. -/
def segBytes (sg : Seg) : Nat := roundUp (12 * sg.code.length) 4096

/-- The segment of a state that is resident in a core's code window and not marked stale. -/
def Core.seg? (k : Core) (img st : Nat) : Option Seg := k.segs.find? (fun g => g.img == img && g.st == st && !g.stale)

/-- An entity enters a state with its lanes: it latches their blocks and takes the segment, or waits for the cluster fetch unit (R31, R10); lanes that have met without a
common state so far have one now, and its accesses wait for their earlier loads (R75). -/
def State.enter (s : State) (m : Member) (st : Nat) : State :=
  match s.crew? m.crew with
  | none => s
  | some c =>
    let seg := (s.core c.core).seg? c.img st
    let w : Option Wait := match seg with
      | some _ => none
      | none => some .fetch
    let code := (seg.map (·.code)).getD []
    let s1 := s.modGroup m.crew m.grp (fun g =>
      let lanes := ((g.ent? m.ent).map (·.lanes)).getD 0
      (g.modLanes lanes (fun _ l => { l with occ := l.blk, marked := false, called := false })).modEnt m.ent
        (fun e => { e with st := st, code := code, pos := 0, entries := e.entries + 1, wait := w, join := if e.met then s.nextSeq else 0, met := false, since := s.nextSeq }))
    ({ s1 with nextSeq := s1.nextSeq + 1 } : State).modCore c.core
      (fun k => { k with segs := k.segs.map (fun g => if g.img = c.img ∧ g.st = st ∧ !g.stale then { g with last := s.nextSeq } else g) })

/-! ### Traps (R48 to R53) -/

/-- Cause codes of R48. -/
def causePreempt : BitVec 8 := 0x01
def causeBinding : BitVec 8 := 0x02
def causeTrap : BitVec 8 := 0x03
def causeBkpt : BitVec 8 := 0x04
def causeStallchk : BitVec 8 := 0x05
def causeIllegal : BitVec 8 := 0x10
def causeRegblock : BitVec 8 := 0x11
def causeBadrec : BitVec 8 := 0x12
def causeCallstack : BitVec 8 := 0x13
def causeCapacity : BitVec 8 := 0x14
def causeGang : BitVec 8 := 0x15
def causeSpmeta : BitVec 8 := 0x16
def causeRemotelost : BitVec 8 := 0x17
def causeBounds : BitVec 8 := 0x18
def causePage : BitVec 8 := 0x19
def causeAlign : BitVec 8 := 0x1A

/-- The handler kind of a cause as an index of the image header's handler fields: preempt, binding, trap, stallchk, fault (R48, R308). -/
def handlerKind (cause : BitVec 8) : Nat :=
  match cause.toNat with
  | 1 => 0
  | 2 => 1
  | 3 | 4 => 2
  | 5 => 3
  | _ => 4

/-- A wait inside a word that has begun: the split stands at no word boundary until it ends. -/
def Wait.inWord (w : Wait) : Bool :=
  match w with
  | .held | .fetch | .fetchAsked _ => false
  | _ => true

/-- Waits that PREEMPT abandons: the word has no effect and executes again after TRET (R53). Of a word that is held before it issues, what holds it decides. -/
def Wait.abandoned (w : Wait) : Bool :=
  match w with
  | .held | .fetch | .fetchAsked _ => false
  | _ => true

/-- The entry block of a handler kind and its home state, if the image declares it. -/
def State.handlerEntry (s : State) (c : Crew) (kind : Nat) : Option (Nat × Nat) :=
  match s.image? c.img with
  | none => none
  | some im =>
    match im.hands[kind]? with
    | none => none
    | some u => if u = 0xFFFF then none else (im.units[u]?).map (fun x => (x.entry, descHome (im.blocks[x.entry]?.getD 0)))

/-- The depth of a lane's return stack. -/
def Lane.depth (l : Lane) : Nat := l.stack.length + l.spilled

/-- The entering lanes take the handler's entry block, and the Cam holds their own place (R49). -/
def Lane.enterHandler (l : Lane) (entry : Nat) : Lane :=
  { l with
    tbr := (if l.valid then (1 : BitVec 1) else 0) ++ l.blk
    blk := BitVec.ofNat 16 entry
    hOcc := l.occ
    hMarked := l.marked
    hCalled := l.called
    hDepth := l.depth
    hStack := l.stack
    hSpilled := l.spilled }

/-- The order of R48's table, in which held traps are delivered. -/
def Trap.rank (t : Trap) : Nat := t.cause.toNat * 8 + t.ent.getD 0

/-- The first of several traps in the order of R48's table. -/
def firstTrap (l : List Trap) : Option Trap :=
  l.foldl (fun b t => match b with
    | none => some t
    | some u => if t.rank < u.rank then some t else some u) none

/-- The lanes that enter a handler: all live lanes, or in a binding handler those of the trapped split (R48). -/
def Group.entering (g : Group) (t : Trap) : Word :=
  if t.cause = causeBinding then ((t.ent.bind g.ent?).map (·.lanes)).getD g.liveMask else g.liveMask

/-- PREEMPT abandons the fences that have not completed: they are in force again after TRET (R53). -/
def Group.holdFences (g : Group) (cause : BitVec 8) : Group :=
  if cause = causePreempt then { g with fences := [], heldFences := g.heldFences ++ g.fences } else g

/-- An entity that is created, but for its state: its lanes and the first cycle in which it may issue. -/
def newEnt (idx : Nat) (lanes : Word) (at_ : Nat) : Ent := ⟨idx, lanes, 0, [], 0, at_, 0, 0, false, false, none, 0, false, 0, 0, 0, false, false⟩

/-- Is PREEMPT raised in a crew and not yet taken by a group of it? One that is raised while a handler runs is held until that handler's TRET; the other splits of a binding
handler still stop for one that was raised before it (R53, R55). -/
def State.preempting (s : State) (uid i : Nat) : Bool :=
  match s.crew? uid, s.group? uid i with
  | some c, some g => c.preempt.isSome && !g.preTaken && ((g.handler.map (·.pre)).getD true)
  | _, _ => false

/-- Do the lanes that enter a handler occupy different blocks, or are they lanes that met without a common state: then they join in the handler (R75)? -/
def Group.handlerMet (g : Group) (t : Trap) : Bool :=
  if t.cause = causeBinding then ((t.ent.bind g.ent?).map (·.met)).getD false
  else decide (1 < g.ents.length + g.deferred.length + g.parked.length) || g.ents.any (·.met)

/-- The trapped entity's lanes have met in the handler. -/
def Group.unmeet (g : Group) (t : Trap) : Group :=
  match t.ent with
  | some i => if t.cause = causeBinding then g.modEnt i (fun e => { e with met := false }) else g
  | none => g

/-- Enter the handler of a trap: TBR, entry block, the held Cam state, TRAPCAUSE and TRAPINFO (R49). Every fixed-latency result of the lanes that enter has landed (R322). -/
def State.takeTrap (s : State) (uid i : Nat) (t : Trap) : State :=
  match s.crew? uid with
  | none => s
  | some c =>
    match s.handlerEntry c (handlerKind t.cause) with
    | none => s.fatal uid 1
    | some (entry, home) =>
      let s1 := s.modGroup uid i (fun g =>
        let lanes := g.entering t
        let at0 := max (s.cyc c.core) (lastDue (if t.cause = causeBinding then g.pend.filter (fun p => (p.lanes &&& lanes) != 0) else g.pend))
        let e : Ent := { newEnt handlerIdx lanes at0 with met := g.handlerMet t, st := home }
        let trapped := if t.cause = causeBinding ∧ g.isSplit then t.ent else none
        let h : Handler := ⟨t.cause, trapped, e, false, t.cause == causeBinding && s.preempting uid i⟩
        let g1 := (if t.cause = causeBinding then (g.unmeet t).landOf lanes else g.landAll).modLanes lanes (fun _ l => l.enterHandler entry)
        { (g1.holdFences t.cause) with handler := some h, cause := t.cause, info := t.info })
      s1.enter ⟨uid, i, handlerIdx⟩ home

/-- Does a waiting trap still wait for a split that has not come to a word boundary (R48)? -/
def Group.atBoundary (g : Group) (t : Trap) : Bool :=
  t.cause == causeBinding || g.ents.all (fun e => t.ent == some e.idx || !((e.wait.map Wait.inWord).getD false))

/-- Deliver the first held trap of a group once no handler runs and every split stands at a word boundary (R48, R50). -/
def State.deliver (s : State) (uid i : Nat) : State :=
  match s.group? uid i with
  | none => s
  | some g =>
    match g.handler, firstTrap g.traps with
    | none, some t =>
      if g.atBoundary t then
        (s.modGroup uid i (fun g => { g with traps := g.traps.erase t })).takeTrap uid i t
      else s
    | _, _ => s

/-- A trap of an issue entity (R48): delivered as soon as R48 allows; a trap raised by a handler's lanes is fatal (R50). -/
def State.raise (s : State) (m : Member) (cause : BitVec 8) (info : Word) : State :=
  if m.ent = handlerIdx then s.fatal m.crew 1
  else
    (s.modGroup m.crew m.grp (fun g => { g with traps := g.traps ++ [⟨some m.ent, cause, info⟩] })).deliver m.crew m.grp

/-- Is a word of the group to be replayed before issue continues (R240)? -/
def Group.replays (g : Group) : Bool := g.mws.any (fun m => m.stat == .delivered)

/-- When every active split has stopped, the live lanes enter the preempt handler (R53); words that TRET is to replay are replayed first (R240).
The spec gives PREEMPT no TRAPINFO: it is a free value. -/
def State.tryPreempt (s : State) (uid i : Nat) : State :=
  match s.group? uid i with
  | none => s
  | some g =>
    if s.preempting uid i && g.handler.isNone && g.traps.isEmpty && !g.retired && g.ents.all (·.stopped) && !g.replays then
      ((s.nextFree).modGroup uid i (fun g => { g with preTaken := true })).takeTrap uid i ⟨none, causePreempt, s.freeWord 0⟩
    else s

/-- An arrival at the rendezvous latch is withdrawn (R53, R142). -/
def State.withdraw (s : State) (m : Member) : State :=
  s.modCrew m.crew (fun c => { c with rdv := c.rdv.filter (fun a => !(a.grp == m.grp && a.ent == m.ent)) })

/-- A split abandons its wait and stops; the group is pre-empted once every split has stopped (R53). -/
def State.abandon (s : State) (m : Member) : State :=
  (((s.withdraw m).modEnt m (fun e => { e with wait := none, stopped := true })).deliver m.crew m.grp).tryPreempt m.crew m.grp

/-- A wait of a word: under PREEMPT it is abandoned at once (R53). -/
def State.setWait (s : State) (m : Member) (w : Wait) : State :=
  if s.preempting m.crew m.grp && m.ent != handlerIdx && w.abandoned then s.abandon m
  else (s.modEnt m (fun e => { e with wait := some w })).deliver m.crew m.grp

/-- The word of an entity is over: the next word stands at the next offset (R160). -/
def State.advance (s : State) (m : Member) : State :=
  (s.modEnt m (fun e => { e with pos := e.pos + 1, wait := none })).deliver m.crew m.grp

/-- A wait ends without its word's effect: the word executes again. -/
def State.endHeld (s : State) (m : Member) : State := (s.modEnt m (fun e => { e with wait := none })).deliver m.crew m.grp

/-- The return from a handler (R51, R187): block, occupancy, marks and return stack come back from what the Cam holds, and lanes that have exited stay exited. -/
def Lane.tret (l : Lane) : Lane :=
  if !l.valid ∨ (l.marked ∧ l.blk.toNat = exitBlk) then { l with valid := false, blk := 0xFFFF, marked := false, called := false, stack := [], spilled := 0 }
  else { l with blk := l.tbr.setWidth 16, occ := l.hOcc, marked := l.hMarked, called := l.hCalled, stack := l.hStack, spilled := l.hSpilled }

/-- Take the lanes that are no longer live out of every set; a set without lanes disappears. -/
def Group.prune (g : Group) : Group :=
  let live := maskOf ((List.range g.lanes.length).filter (fun l => (g.lane l).valid))
  let cut := fun (l : List (Nat × Word)) => (l.map (fun d => (d.1, d.2 &&& live))).filter (fun d => d.2 != 0)
  { g with
    ents := (g.ents.map (fun e => { e with lanes := e.lanes &&& live })).filter (fun e => e.lanes != 0)
    deferred := cut g.deferred
    parked := cut g.parked }

/-- Does a held word wait only for its group to take or to leave a trap? -/
def MStat.stuck (x : MStat) : Bool :=
  match x with
  | .faulted _ _ | .delivered => true
  | _ => false

/-- Has a word of a retired group nothing left to do: its fault has been delivered and it is not replayed any more, or it is a load that no line has answered (assumption 30)? -/
def MemWord.idle (m : MemWord) : Bool :=
  m.stat.stuck || (m.stat == .walking && (match m.op with
    | .load _ => true
    | _ => false))

/-- The accumulators of a group that holds none (R144). -/
def noAccs : List QAcc := List.replicate 4 ⟨[], 0, 0, false, 0⟩

/-- Block and state of a group without lanes: it retires, and its blocks return to the pool (R32). -/
def Group.retire (g : Group) : Group :=
  { g with
    mws := g.mws.filter (fun m => !m.idle)
    retired := true, ents := [], deferred := [], parked := [], handler := none, traps := [], atVote := [], v := [], nblk := 0, monitors := [], latch := none }

/-- Has a group Beryl words in the queue of its crew's core (R149)? -/
def State.berylLeft (s : State) (uid gi : Nat) : Bool := s.cores.any (fun k => k.beryl.any (fun b => b.crew == uid && b.grp == gi))

/-- A retired group loses its accumulators once no accepted Beryl word of it is left, since such words outlive it (R149, R155, R341). -/
def State.dropAccs (s : State) (uid gi : Nat) : State :=
  if s.berylLeft uid gi then s else s.modGroup uid gi (fun g => if g.retired then { g with q := noAccs } else g)

/-- Has the grace budget of a crew that is to be pre-empted run out (R346)? -/
def State.graceOver (s : State) (c : Crew) : Bool :=
  match c.preempt with
  | some d => decide (d ≤ s.clock.toNat)
  | none => false

/-- A crew that is to be pre-empted has a group retire after its grace budget ran out: its fault domain is killed all the same (R346; DEDUCED, assumption 72). -/
def State.lateRetire (s : State) (uid : Nat) : State :=
  match s.crew? uid with
  | some c => if s.graceOver c then s.fatal uid 2 else s
  | none => s

/-- A group of a crew retires. -/
def State.retireNow (s : State) (uid gi : Nat) : State := (((s.keepRegs uid gi).modGroup uid gi Group.retire).dropAccs uid gi).lateRetire uid

/-- The waiting splits of a group abandon their waits, and the group is pre-empted once every split has stopped (R53). -/
def State.abandonGroup (s : State) (uid i : Nat) : State :=
  let g0 := (s.group? uid i).getD default
  if !s.preempting uid i then s
  else
    let hit := fun (e : Ent) => (e.wait.map Wait.abandoned).getD false
    let s0 := (g0.ents.filter hit).foldl (fun s e => s.withdraw ⟨uid, i, e.idx⟩) s
    let s2 := s0.modGroup uid i (fun g => { g with ents := g.ents.map (fun e => if hit e then { e with wait := none, stopped := true } else e) })
    (s2.deliver uid i).tryPreempt uid i

/-- The handler ends: TRAPCAUSE becomes 0, abandoned fences are in force again, after what the handler did, and a PREEMPT whose handler returns before PMDONE stays
raised and is delivered again (R51, R187). Splits that stopped for PREEMPT go on after the preempt handler, and stand still after any other (R53). -/
def Group.endHandler (g : Group) (seq : Nat) : Group :=
  let mine := (g.handler.map (fun h => h.cause == causePreempt)).getD false
  let again := mine && !(g.handler.map (·.pmdone)).getD false
  { g with
    handler := none, cause := 0, preDone := false
    preTaken := g.preTaken && !again
    fences := g.fences ++ g.heldFences.map (fun f => { f with seq := seq })
    heldFences := []
    ents := if mine then g.ents.map (fun e => { e with stopped := false }) else g.ents }

/-- A split whose lanes are the whole group has no mark (R38, R42). -/
def Group.whole (g : Group) : Group := if g.isSplit then g else { g with ents := g.ents.map (fun e => { e with mark := false, entries := 0 }) }

/-- TRET (R51): the held state comes back, and held traps are then delivered (R50); a PREEMPT raised meanwhile is delivered after them
(DESIGN CHOICE, assumption 76). -/
def State.tret (s : State) (m : Member) : State :=
  let s1 := ({ s with nextSeq := s.nextSeq + 1 } : State).modGroup m.crew m.grp (fun g =>
    let lanes := ((g.ent? handlerIdx).map (·.lanes)).getD 0
    let g1 := (if g.cause = causeBinding then g.landOf lanes else g.landAll).modLanes lanes (fun _ l => l.tret)
    ((g1.endHandler s.nextSeq).prune).whole)
  if ((s1.group? m.crew m.grp).getD default).liveMask = 0 then s1.retireNow m.crew m.grp
  else (s1.deliver m.crew m.grp).abandonGroup m.crew m.grp

/-- PREEMPT is raised in a crew: waiting splits abandon their waits at once, and the others go on to their next state boundary (R53). -/
def State.raisePreempt (s : State) (uid deadline : Nat) : State :=
  let s1 := s.modCrew uid (fun c => { c with preempt := some deadline, groups := c.groups.map (fun g => { g with preTaken := false }) })
  let n := ((s1.crew? uid).map (fun c => c.groups.length)).getD 0
  (List.range n).foldl (fun s i => s.abandonGroup uid i) s1

/-! ### The pool (R22) -/

/-- Granules in use on a core. -/
def State.granules (s : State) (core : Nat) : Nat :=
  (s.crews.filter (fun c => c.core == core && c.phase == .resident)).foldl
    (fun n c => n + c.groups.foldl (fun n g => n + g.nblk) 0 * (c.width / 8)) 0

/-- Free granules of a core: its pool has 1,024. -/
def State.freeGranules (s : State) (core : Nat) : Nat := 1024 - s.granules core

/-- The task of a crew. -/
def State.task? (s : State) (uid : Nat) : Option Task := s.tasks.find? (fun t => t.uid == uid)

/-- The effective priority of a crew's task (R342). -/
def State.taskPrio (s : State) (c : Crew) : Nat := ((s.task? c.task).map (·.eff)).getD 0

/-- PRIO of a group: its task's effective priority, or the lesser of it and the value last written (R26). -/
def State.prio (s : State) (c : Crew) (g : Group) : Nat :=
  match g.prioW with
  | none => s.taskPrio c
  | some w => min w.toNat (s.taskPrio c)

end Sys2Proof.Machine
end

