-- ==== Sys2Proof/Machine/Mem.lean ====
section
/-!
DEFINITION. The ordering machine's steps on the words of groups (R64 to R76, R84 to R89, R237 to R240, R243 to R249): which steps the rules allow, and what each does.
-/

namespace Sys2Proof.Machine

/-! ### Kinds of words -/

/-- Does the word read memory at PERFORM? -/
def MemOp.reads (o : MemOp) : Bool :=
  match o with
  | .store => false
  | _ => true

/-- Does it read data: not an arm, which only takes effect (R121)? -/
def MemOp.readsData (o : MemOp) : Bool :=
  match o with
  | .store | .arm _ _ _ => false
  | _ => true

/-- Is the word one atomic step that may write (R246, R247)? -/
def MemOp.atomic (o : MemOp) : Bool :=
  match o with
  | .atom _ _ | .incb | .cellAdd => true
  | _ => false

/-- Does the word write memory: what WR of TRAPINFO says and what the page's W allows? -/
def MemOp.writes (o : MemOp) : Bool := o == .store || o.atomic

/-- Does a word arm or disarm a line (R249)? -/
def MemOp.arms (o : MemOp) : Bool :=
  match o with
  | .arm _ _ _ => true
  | _ => false

/-- Has every access of the word performed or drained? -/
def MemWord.allDone (m : MemWord) : Bool := m.accs.all (·.done)

/-- Is the word a SPAWN or an XRED in the operand log: it acts as a whole, once its record can be read (R364)? -/
def MemOp.posts (o : MemOp) : Bool :=
  match o with
  | .spawn _ | .xred => true
  | _ => false

/-- Do the held words of a group fill its operand log (R240)? -/
def Group.logFull (g : Group) : Bool := decide (16 ≤ (g.mws.filter (·.held)).length)

/-- An acquire (R72). -/
def MemWord.acquires (m : MemWord) : Bool := m.order.getLsbD 0

/-- A release (R71). -/
def MemWord.releases (m : MemWord) : Bool := m.order.getLsbD 1

/-- The line of an access (R58). -/
def Acc.line (a : Acc) : Nat := a.va / 256

/-- Do two accesses share a byte? Places are compared once both are known, virtual addresses before that. -/
def Acc.overlaps (a b : Acc) : Bool :=
  match a.place, b.place with
  | some p, some q => p.overlap a.size q b.size
  | _, _ => a.virt && b.virt && decide (a.va < b.va + b.size) && decide (b.va < a.va + a.size)

/-- The offset of byte i of access a within access b, if it lies there. -/
def Acc.offsetIn (a : Acc) (i : Nat) (b : Acc) : Option Nat :=
  (List.range b.size).find? (fun j =>
    match a.place, b.place with
    | some p, some q => decide (p.add i = q.add j)
    | _, _ => a.virt && b.virt && a.va + i == b.va + j)

/-- Change a word of a group. -/
def Group.modWord (g : Group) (seq : Nat) (f : MemWord → MemWord) : Group :=
  { g with mws := g.mws.map (fun m => if m.seq = seq then f m else m) }

/-- A word of a group. -/
def Group.word? (g : Group) (seq : Nat) : Option MemWord := g.mws.find? (fun m => m.seq == seq)

/-- Change the first access of a lane that is not done. -/
def modAcc (l : List Acc) (lane : Nat) (f : Acc → Acc) : List Acc :=
  match l with
  | [] => []
  | a :: t => if a.lane = lane ∧ !a.done then f a :: t else a :: modAcc t lane f

/-- The first access of a lane that is not done. -/
def MemWord.acc? (m : MemWord) (lane : Nat) : Option Acc := m.accs.find? (fun a => a.lane == lane && !a.done)

/-! ### What the machine may not do (R69 to R76, R86, R240) -/

/-- The earlier words of a group. -/
def Group.before (g : Group) (seq : Nat) : List MemWord := g.mws.filter (fun m => decide (m.seq < seq))

/-- Has every access of the group before a place in program order performed or drained? -/
def Group.doneBefore (g : Group) (seq : Nat) : Bool := (g.before seq).all (·.allDone)

/-- Have all its earlier loads performed? -/
def Group.loadsDone (g : Group) (seq : Nat) : Bool := (g.before seq).all (fun m => !m.op.reads || m.allDone)

/-- Has an arm or disarm of the group not taken effect? Those of a group take effect in program order, and MWAIT and the clear see them (R249; DEDUCED, assumption 32). -/
def Group.armsLeft (g : Group) : Bool := g.mws.any (fun m => m.op.arms && !m.allDone)

/-- Does an earlier acquire or fence keep this word from performing or draining (R72, R74)? An arm keeps later loads (R121). -/
def Group.orderedAfter (g : Group) (m : MemWord) : Bool :=
  (g.before m.seq).any (fun e => ((e.acquires || (e.op.arms && m.op.arms)) && !e.allDone) ||
    (m.op.reads && (match e.op with | .arm _ _ d => !d && !e.allDone | _ => false))) ||
  g.fences.any (fun f => decide (f.seq < m.seq) && (f.kind == .acq || f.kind == .full || (f.kind == .rel && m.op.writes)))

/-- Does the access touch a line of an earlier held word (R240)? -/
def Group.heldLine (g : Group) (m : MemWord) (a : Acc) : Bool :=
  (g.before m.seq).any (fun e => e.held && a.virt && e.accs.any (fun b => b.virt && b.line == a.line))

/-- Does a line wait to be translated: an earlier word of the group holds it, or has not translated it yet (R240; DEDUCED, assumption 31)? -/
def Group.lineWaits (g : Group) (m : MemWord) (line : Nat) : Bool :=
  (g.before m.seq).any (fun e => e.accs.any (fun b => b.virt && b.line == line && (e.held || (e.stat == .walking && b.place.isNone))))

/-- The returned line of another access that passed first and has not performed (R86). -/
def State.returnedBefore (s : State) (a : Acc) : Bool :=
  s.crews.any (fun c => c.groups.any (fun g => g.mws.any (fun m => m.accs.any (fun b =>
    b.back && !b.done && (decide (a.first = 0) || decide (b.first < a.first)) && b.first != a.first && a.overlaps b))))

/-- Has an earlier acquire of the group not performed: no later access may act before it (R72)? -/
def Group.acquireLeft (g : Group) : Bool := g.mws.any (fun m => m.acquires && !m.allDone)

/-- Earlier accesses of the group to the same location: stores for a store, loads for a store, the same lane's loads for a load (R69, R76). -/
def Group.sameLoc (g : Group) (m : MemWord) (a : Acc) : Bool :=
  (g.before m.seq).any (fun e => e.accs.any (fun b => !b.done && a.overlaps b &&
    ((m.op.writes) || (e.op.reads && b.lane == a.lane)))) ||
  (m.op == .store && m.accs.any (fun b => !b.done && decide (b.lane < a.lane) && a.overlaps b))

/-- The scope that makes a store visible at an instance that contains both its writer and an agent's instance of scope X (R71). -/
def needLevel (d : Drained) (r : Agent) (x : Nat) : Nat := ((List.range 6).find? (fun n => decide (x ≤ n) && sameInst n d.writer r)).getD 5

/-- Are the stores that precede a release visible as a release of scope X by a group asks (R71, R73)? -/
def State.seenReady (s : State) (c : Crew) (gi x : Nat) (r : Seen) : Bool :=
  !s.toDrain r && s.drained.all (fun d => !r.has d || decide (needLevel d (c.agent gi) x ≤ d.level))

/-- What a group has acquired before a place in its program order (R73). -/
def Group.acqBefore (g : Group) (seq : Nat) : List Seen := (g.acq.filter (fun e => decide (e.1 < seq))).map (·.2)

/-- R71 for a release of scope X at a place in program order: loads performed, own stores and acquired stores visible. -/
def State.releaseReady (s : State) (c : Crew) (gi : Nat) (g : Group) (seq x : Nat) : Bool :=
  g.doneBefore seq && (Seen.group c.uid gi seq :: g.acqBefore seq).all (s.seenReady c gi x)

/-- The stores that precede a release at a place in a group's program order: its own, and those that it has acquired (R73). -/
def Group.snapshot (g : Group) (uid gi seq : Nat) : List Seen := .group uid gi seq :: g.acqBefore seq

/-- A group acquires stores by an access at a place of its program order; those that every agent sees are forgotten (R73). -/
def State.take (s : State) (uid gi seq : Nat) (l : List Seen) : State :=
  s.modGroup uid gi (fun g => { g with acq := (g.acq ++ l.map (fun x => (seq, x))).eraseDups.filter (fun e => s.unsettled s.drained e.2) })

/-- Does an earlier QSAVE to the same bytes still wait for its data (R80)? -/
def Group.blankBefore (g : Group) (m : MemWord) (a : Acc) : Bool := (g.before m.seq).any (fun e => e.blank && e.accs.any (fun b => a.overlaps b))

/-- A group with the locations of its untranslated accesses as their addresses translate now: locations are compared and forwarded by place (R68, R69, R76). -/
def State.placed (s : State) (c : Crew) (g : Group) : Group :=
  if g.mws.all (fun m => m.accs.all (fun a => a.place.isSome)) then g
  else { g with mws := g.mws.map (fun m => { m with accs := m.accs.map (fun a =>
    if a.virt ∧ a.place.isNone then
      match s.peek ⟨c.core, c.uid, c.part, false, false, 0⟩ (a.va / 256 * 256) with
      | .ok l pa => { a with place := some (.mem (plocKey l (pa + a.va % 256))) }
      | _ => a
    else a) }) }

/-- Is an access's line one of the second tier that is under test (R403)? Those of the first tier wait at the map point. -/
def State.testedAt (s : State) (a : Acc) : Bool :=
  match a.place with
  | some (.mem k) => k % 8 == 1 && s.tested .tier2 (k / 8)
  | _ => false

/-- The byte that a load of a group takes from the group's own buffered stores: the newest earlier one in program order (R68). -/
def Group.forwarded (g : Group) (m : MemWord) (a : Acc) (i : Nat) : Option Byte :=
  (g.before m.seq).foldl (fun (acc : Option Byte) e =>
    if e.op == .store then
      e.accs.foldl (fun acc b => if b.done then acc else
        match a.offsetIn i b with
        | some j => some (BitVec.ofNat 8 (b.data / 256 ^ j))
        | none => acc) acc
    else acc) none

/-- Would a load read a byte older than the one that its lane has read there before (R76)? An atomic reads the newest. -/
def State.belowFloor (s : State) (r : Agent) (g : Group) (m : MemWord) (a : Acc) : Bool :=
  m.op.readsData && !m.op.atomic && g.floors.any (fun f => f.1 == a.lane && s.drained.any (fun d => d.id == f.2.2) &&
    s.drained.all (fun d => decide (d.id < f.2.2) || !d.visible r || (cellAt d.cells f.2.1).isNone) &&
    (List.range a.size).any (fun i => (a.place.map (fun p => p.add i)) == some (.mem f.2.1) && (g.forwarded m a i).isNone))

/-- The bytes at a place whose newest store an agent does not see, each with that store (R76). -/
def State.unseen (s : State) (r : Agent) (p : Place) (n : Nat) : List (Nat × Nat) :=
  (p.keys n).filterMap (fun k => ((s.drained.filter (fun d => (cellAt d.cells k).isSome)).getLast?).bind (fun d => if d.visible r then none else some (k, d.id)))

/-- May this access perform or drain now? -/
def State.mayAct (s : State) (c : Crew) (gi : Nat) (g : Group) (m : MemWord) (a : Acc) : Bool :=
  m.stat == .ready && !m.op.posts && a.passed && !a.done && !m.blank && !g.blankBefore m a && !g.orderedAfter m && !g.heldLine m a && !g.sameLoc m a && !s.returnedBefore a && !s.testedAt a && !s.belowFloor (c.agent gi) g m a &&
  (!m.releases || s.releaseReady c gi g m.seq m.scope.toNat)

/-! ### Synchronising (R73) -/

/-- A release of crew scope with respect to a crew (R77), as a scope number. -/
def crewScope (uid : Nat) : Nat := 6 + uid

/-- Does a release by a writer reach an agent that acquires: its scope holds both, or it is a release with respect to the agent's crew (R73, R77)? -/
def relReaches (scope : Nat) (w r : Agent) : Bool := if scope < 6 then decide (joinScope w r ≤ scope) else r.crew? == some (scope - 6)

/-- The stores that count as earlier accesses after an acquire by an agent that reads the given keys. -/
def State.acquired (s : State) (r : Agent) (keys : List Nat) : List Seen :=
  let upTo := fun (k : Nat) => s.drained.foldl (fun (acc : Nat × Nat) d =>
    (acc.1 + 1, if d.visible r && (cellAt d.cells k).isSome then acc.1 + 1 else acc.2)) (0, 0) |>.2
  keys.foldl (fun l k =>
    ((s.drained.take (upTo k)).filter (fun d => (cellAt d.cells k).isSome)).foldl (fun l d =>
      d.rels.foldl (fun l rel => if relReaches rel.1 d.writer r then l ++ rel.2 else l) l) l) []

/-- A group acquires what its read of these keys, at a place of its program order, synchronises with. -/
def State.acquire (s : State) (uid gi seq : Nat) (keys : List Nat) : State :=
  match s.crew? uid with
  | none => s
  | some c => s.take uid gi seq (s.acquired (c.agent gi) keys)

/-! ### Storing (R67, R122) -/

/-- Store bytes at a place and set the latches that the store's visibility calls for. -/
def State.put (s : State) (w : Agent) (po level : Nat) (p : Place) (bytes : List Byte) (rels : List (Nat × List Seen)) : State :=
  let s1 := s.storeAt w po level p bytes rels
  if 4 ≤ level then s1.wake (p.keys bytes.length) else s1

/-! ### Faults and the fault-address queue (R361 to R365) -/

/-- The next token, never 0 (R362). -/
def State.newToken (s : State) : State × BitVec 32 :=
  ({ s with nextTok := if s.nextTok = BitVec.allOnes 32 then 1 else s.nextTok + 1 }, s.nextTok)

/-- An access waits for a verdict: its record is to be posted under a new token (R364). -/
def State.ask (s : State) (who : Asker) (uid gi addr kind acc : Nat) : State × Nat :=
  let r := s.newToken
  let tok := r.2
  ({ r.1 with
      faq := r.1.faq ++ [(r.1.faqRec uid gi addr kind acc true tok, some who)]
      asked := r.1.asked ++ [(tok.toNat, who, addr)] }, tok.toNat)

/-- The access class of a word in a record (R362). -/
def MemOp.accCode (o : MemOp) : Nat :=
  match o with
  | .recld | .spawn _ | .xred => 7
  | o => if o.atomic then 2 else if o == .store then 1 else 0

/-- TRAPINFO of a fault at an address: lane, write bit and the address above bit 7 (R239). -/
def faultInfo (lane : Nat) (wr : Bool) (addr : Nat) : Word :=
  BitVec.ofNat 64 (lane % 64 + (if wr then 64 else 0) + (addr / 256) % 2 ^ 56 * 256)

/-- The entity that holds a lane now, or the one given when none does. -/
def Group.entOf (g : Group) (m : MemWord) (lane : Nat) : Nat :=
  match g.handler with
  | some h => if m.ent = handlerIdx ∧ h.ent.idx = handlerIdx then handlerIdx else
      ((g.ents.find? (fun e => e.lanes.getLsbD lane)).map (·.idx)).getD m.ent
  | none => ((g.ents.find? (fun e => e.lanes.getLsbD lane)).map (·.idx)).getD m.ent

/-- The lane whose entity takes a word's fault: the failing lane, or of an entity-level word or a lost module's gather the lowest that the word had (R239). -/
def MemWord.faultLane (m : MemWord) (cause : BitVec 8) (info : Word) : Nat :=
  let l := info.toNat % 64
  if cause != causeRemotelost && m.lanes.getLsbD l then l else (lanesOf m.lanes).headD 0

/-- A fault of a held word is delivered: the trap at once, and for an LDS its counter falls (R240, R243). A saved crew takes it after its restore (R370). -/
def State.deliverWord (s : State) (uid gi seq : Nat) (cause : BitVec 8) (info : Word) : State :=
  match s.crew? uid, (s.group? uid gi).bind (fun g => (g.word? seq).map (fun m => (g, m))) with
  | some c, some (g, m) =>
    if g.retired then s.modGroup uid gi (fun g => { g with mws := g.mws.filter (fun x => x.seq != seq) })
    else if c.phase = .saved then s.modGroup uid gi (fun g => g.modWord seq (fun m => { m with stat := .faulted cause info }))
    else
      let s1 := s.modGroup uid gi (fun g =>
        let g1 := g.modWord seq (fun m => { m with stat := .delivered })
        match m.cnt with
        | some a => g1.setA a (g1.getA a - 1)
        | none => g1)
      s1.raise ⟨uid, gi, g.entOf m (m.faultLane cause info)⟩ cause info
  | _, _ => s

/-! ### Completing a word -/

/-- A loaded value extended to 64 bits (R238). -/
def extend (sign : Bool) (size v : Nat) : Nat := if sign ∧ size < 8 then sext64 (8 * size) v else v

/-- Does a key name a byte of a remote module? -/
def remoteMod (k : Nat) : Option Nat := if k % 8 = 3 then some (k / 8 / 2 ^ 52) else none

/-- The remote module that an access addresses. -/
def Acc.module? (a : Acc) : Option Nat :=
  match a.place with
  | some (.mem k) => remoteMod k
  | _ => none

/-- Does the word write each lane of V registers as its line performs: every word that loads lanes, but for one that a lost module could still cut short (R120, R240, R243)? -/
def MemWord.byLane (m : MemWord) : Bool :=
  (match m.dst with
   | .v _ _ => true
   | _ => false) && m.accs.all (fun a => a.module?.isNone)

/-- The writes of a loaded value of one lane: bytes 7:0 to the register, bytes 15:8 to the next (R238). -/
def loadWrites (dst : MDst) (lane : Nat) (v : Nat) : List RegW :=
  match dst with
  | .v r pair =>
    .v r lane (BitVec.allOnes 64) (BitVec.ofNat 64 v) ::
      (if pair then [.v (r + 1) lane (BitVec.allOnes 64) (BitVec.ofNat 64 (v / 2 ^ 64))] else [])
  | .s r => [.s r (BitVec.ofNat 64 v)]
  | .p r => [.p r lane 0xFF (BitVec.ofNat 8 v)]
  | .none => []

/-- The value that a lane's access gives its destination. -/
def MemWord.result (m : MemWord) (a : Acc) : Nat :=
  match m.op with
  | .load sign => extend sign a.size a.val
  | _ => a.val

/-- The register writes of a completed word: its lanes' values, and zero in the lanes that were dropped (R243). -/
def MemWord.writes (m : MemWord) : List RegW :=
  (m.accs.map (fun a => loadWrites m.dst a.lane (m.result a))).flatten ++
    (m.zero.map (fun l => loadWrites m.dst l 0)).flatten

/-- What a late LDS still writes: of each sub-element that a later word wrote meanwhile, by a free choice, its own data or nothing (R120). -/
def chooseWrites (free : Nat → Word) (clob : List (RegW × Nat)) (l : List RegW) : List RegW :=
  l.mapIdx (fun i w => match w with
    | .v r lane m x =>
      let lost := (clob.mapIdx (fun j e => (j, e))).foldl (fun (k : Word) e => match e.2.1 with
        | .v _ _ cm _ =>
          if e.2.1.meets w then
            let f := free (i + 4096 * e.1)
            k ||| (cm &&& maskOf ((List.range 64).filter (fun b => f.getLsbD (b / e.2.2))))
          else k
        | _ => k) 0
      .v r lane (m &&& ~~~lost) x
    | w => w)

/-- A line armed by the group (R121, R249). -/
def Group.armLine (g : Group) (slot line word : Nat) (key : Option Nat) : Group :=
  { g with monitors := g.monitors.filter (fun m => m.slot != slot) ++ [⟨slot, line, word, key⟩] }

/-- A line disarmed; the latch clears with the last one (R249). -/
def Group.disarm (g : Group) (line : Nat) : Group :=
  let ms := g.monitors.filter (fun m => m.line != line)
  { g with monitors := ms, latch := if ms = [] then none else g.latch }

/-- The free slot of lowest number (R249). -/
def Group.freeSlot (g : Group) : Option Nat := (List.range 4).find? (fun i => g.monitors.all (fun m => m.slot != i))

/-- Armed lines of a core: at most 256 (R121). -/
def State.armedOn (s : State) (core : Nat) : Nat :=
  (s.crews.filter (fun c => c.core == core && c.phase == .resident)).foldl (fun n c => n + c.groups.foldl (fun n g => n + g.monitors.length) 0) 0

/-- MONITOR takes effect: the line of the lowest active lane is armed or disarmed, and the predicate says how it went (R121, R249). -/
def State.armWord (s : State) (uid gi : Nat) (c : Crew) (m : MemWord) (line word : Nat) (disarm : Bool) (key : Option Nat) : State :=
  let g := (s.group? uid gi).getD default
  let old := g.monitors.find? (fun x => x.line == line)
  let slot : Option Nat := match old with
    | some x => some x.slot
    | none => if 256 ≤ s.armedOn c.core then none else g.freeSlot
  let ok := disarm || slot.isSome
  let g1 := if disarm then g.disarm line
    else match slot with
      | some sl => g.armLine sl line word key
      | none => g
  let ws := match m.dst with
    | .p r => (lanesOf m.lanes).map (fun l => RegW.p r l 0xFF (if ok then 0xFF else 0))
    | _ => []
  s.modGroup uid gi (fun _ => g1.writeNow ws)

/-- The byte a load of a group reads: its own newest buffered store, else the newest visible one (R68). -/
def State.loadByte (s : State) (r : Agent) (g : Group) (m : MemWord) (a : Acc) (i : Nat) : Byte :=
  match g.forwarded m a i with
  | some b => b
  | none => (a.place.map (fun p => s.readPlace r (p.add i))).getD 0

/-- The record at a place as a group would load it now: its own buffered stores first (R68). -/
def State.recordAs (s : State) (c : Crew) (gi : Nat) (g : Group) (keys : List Nat) : List Byte :=
  let gp := s.placed c g
  let word : MemWord := { (default : MemWord) with seq := s.nextSeq }
  keys.map (fun k => s.loadByte (c.agent gi) gp word { (default : Acc) with size := 1, place := some (.mem k) } 0)

/-- The groups of a core that would read these bytes at these keys now (R81, R245). -/
def State.readers (s : State) (core : Nat) (keys : List Nat) (bytes : List Byte) : List (Nat × Nat) :=
  (s.crews.filter (fun c => c.core == core && c.phase == .resident)).flatMap (fun c =>
    (((c.groups.mapIdx (fun i g => (i, g))).filter (fun e => s.recordAs c e.1 e.2 keys == bytes))).map (fun e => (c.uid, e.1)))

/-- A record of the record cache: least recently used leaves when 64 are held (R119). -/
def Core.putRec (k : Core) (r : RecE) : Core :=
  let rest := k.recs.filter (fun e => !(e.part == r.part && e.va == r.va))
  let oldest := rest.foldl (fun n e => min n e.used) r.used
  { k with recs := (if 64 ≤ rest.length then rest.filter (fun e => e.used != oldest) else rest) ++ [r] }

/-- A word whose accesses are all done leaves: its destinations are written, except those that an LDS wrote lane by lane, and its counter falls (R120, R243). -/
def State.finishWord (s : State) (uid gi seq : Nat) : State :=
  match s.crew? uid, (s.group? uid gi).bind (fun g => g.word? seq) with
  | some c, some m =>
    if !m.allDone then s
    else
      let s1 := s.modGroup uid gi (fun g =>
        let g1 := { g with mws := g.mws.filter (fun x => x.seq != seq) }
        let z := (m.zero.map (fun l => loadWrites m.dst l 0)).flatten
        let ws0 := if m.byLane then z else m.writes
        let ws := if m.lds && m.clob != [] then chooseWrites s.freeWord m.clob ws0 else ws0
        let g2 := match m.op with
          | .arm _ _ _ => g1
          | _ => g1.deliverTo 0 m.lds ws
        match m.cnt with
        | some a => g2.setA a (g2.getA a - 1)
        | none => g2)
      match m.op with
      | .arm line word disarm =>
        s1.armWord uid gi c m line word disarm ((m.accs.head?.bind (·.place)).bind (fun p => match p with
          | .mem k => some (k - 8 * ((m.accs.headD default).va % 256))
          | _ => none))
      | .recld =>
        let raw := (m.accs.mapIdx (fun i a => a.val * 2 ^ (512 * i))).foldl (· + ·) 0
        let va := (m.accs.headD default).va
        let keys := m.accs.flatMap (fun a => (a.place.map (fun p => p.keys 64)).getD [])
        let s2 := s1.modGroup uid gi (fun g => { g with recMarks := g.recMarks.filter (fun r => r.1 != va) ++ [(va, s.nextSeq)] })
        ({ s2 with nextSeq := s1.nextSeq + 1 } : State).modCore c.core
          (fun k => k.putRec ⟨c.part, va, BitVec.ofNat 1536 raw, s.nextSeq, s.nextSeq, (uid, gi) :: s1.readers c.core keys (bytesOf 192 raw)⟩)
      | _ => if m.lds && m.clob != [] then s1.nextFree else s1
  | _, _ => s

/-! ### Fences (R74, R82, R248) -/

/-- Is an access one to the storage that matrix operations read: the crew's scratch, its operand buffer or the weight buffer (R79, R137)? -/
def Acc.feeds (a : Acc) : Bool :=
  match a.place with
  | some (.mem k) => [4, 5, 7].contains (k % 8)
  | _ => false

/-- May a fence complete? -/
def State.fenceReady (s : State) (c : Crew) (gi : Nat) (g : Group) (f : Fence) : Bool :=
  match f.kind with
  | .acq => g.loadsDone f.seq
  | .rel | .full => s.releaseReady c gi g f.seq f.scope.toNat
  | .code => s.releaseReady c gi g f.seq 4
  | .record => true
  | .oper => (g.before f.seq).all (fun m => !m.storesLeft || m.accs.all (fun a => a.done || !a.feeds))

/-- What the completion of a fence does: a release fence makes later stores releases (R74), CODEFENCE discards the cluster's code (R82), RFENCE moves the record view (R81),
OPFENCE makes the stores before it operands (R79). -/
def State.endFence (s : State) (c : Crew) (gi : Nat) (f : Fence) : State :=
  let s1 := s.modGroup c.uid gi (fun g =>
    let g1 := { g with fences := g.fences.filter (fun x => x.seq != f.seq) }
    match f.kind with
    | .rel | .full => { g1 with relf := some (max (g1.relf.getD 0) f.scope.toNat) }
    | .oper => { g1 with opf := max g1.opf f.seq }
    | .record => { g1 with recMark := s.nextSeq, recMarks := [] }
    | _ => g1)
  match f.kind with
  | .code =>
    let cl := clusterOf c.core
    { s1 with
      descs := s1.descs.filter (fun d => d.1 != cl)
      cores := s1.cores.mapIdx (fun i k => if clusterOf i = cl then { k with segs := k.segs.map (fun g => { g with stale := true }) } else k) }
  | .record => { s1 with nextSeq := s1.nextSeq + 1 }
  | _ => s1

/-- Complete the fences of a group that may complete, in order. -/
def State.settleGroup (s : State) (uid gi : Nat) : State :=
  match s.crew? uid, s.group? uid gi with
  | some _, some g =>
    g.fences.foldl (fun s f =>
      match s.crew? uid, s.group? uid gi with
      | some c, some g => if s.fenceReady c gi g f then s.endFence c gi f else s
      | _, _ => s) s
  | _, _ => s

/-- Complete every fence that may complete. -/
def State.settleFences (s : State) : State :=
  s.crews.foldl (fun s c => (List.range c.groups.length).foldl (fun s gi =>
    if ((c.groups[gi]?).map (fun g => g.fences.isEmpty)).getD true then s else s.settleGroup c.uid gi) s) s

/-! ### Perform and drain (R67) -/

/-- The value a load reads. -/
def State.loadVal (s : State) (r : Agent) (g : Group) (m : MemWord) (a : Acc) : Nat :=
  ofBytes ((List.range a.size).map (s.loadByte r g m a))

/-- The newest value at a place in coherence order: what an atomic step reads. -/
def State.latestVal (s : State) (r : Agent) (p : Place) (n : Nat) : Nat :=
  ofBytes ((List.range n).map (fun i => match p.add i with
    | .mem k => s.latestKey k
    | q => s.readPlace r q))

/-- The new value of ATOM, none where cas does not write (R246). -/
def atomNew (op : BitVec 3) (uns : Bool) (size old b cmp : Nat) : Option Nat :=
  let w := 8 * size
  let so := toSigned w old
  let sb := toSigned w b
  match op.toNat with
  | 0 => some ((old + b) % 2 ^ w)
  | 1 => some (if uns then min old b else if sb < so then b else old)
  | 2 => some (if uns then max old b else if so < sb then b else old)
  | 3 => some (old &&& b)
  | 4 => some (old ||| b)
  | 5 => some (old ^^^ b)
  | 6 => some b
  | _ => if old = cmp % 2 ^ w then some b else none

/-- The value of a number that a cell's addend or result stands for, as a fixed-point integer with 64 fraction bits, nearest, ties to even. -/
def cellAddend (kind : Nat) (data : Nat) : Option (Nat × Bool) :=
  match kind with
  | 2 => some (wrap 128 (toSigned 64 data * 2 ^ 64), false)
  | 3 => some (data % 2 ^ 128, false)
  | k =>
    match numOf (if k = 0 then Fmt.f32 else Fmt.f64) (if k = 0 then data % 2 ^ 32 else data % 2 ^ 64) with
    | .fin neg m e =>
      let e' := e + 64
      let q := if 0 ≤ e' then m * 2 ^ e'.toNat else
        let d := 2 ^ (-e').toNat
        let fl := m / d
        let r := m % d
        if 2 * r > d ∨ (2 * r = d ∧ fl % 2 = 1) then fl + 1 else fl
      let exact := decide (0 ≤ e') || m % 2 ^ (-e').toNat == 0
      some (wrap 128 (if neg then -(q : Int) else q), !exact)
    | _ => none

/-- The result of CELLRD: the rounded value or the raw cell, and whether it rounded (R247). -/
def cellRead (kind : Nat) (c : Nat) : Nat × Bool :=
  match kind with
  | 2 => (c, false)
  | k =>
    let v := toSigned 128 c
    let r := roundTo (if k = 0 then Fmt.f32 else Fmt.f64) .rne false (.fin (decide (v < 0)) v.natAbs (-64))
    (r.1, r.2.getLsbD 4)

/-- What PERFORM writes back, with the value read, flags, and the bytes to write if any. -/
def performOp (m : MemWord) (a : Acc) (old : Nat) : Nat × BitVec 16 × Option Nat :=
  match m.op with
  | .atom op uns => (old, 0, atomNew op uns a.size old a.data a.cmp)
  | .incb => (old, 0, if old < a.data then some (old + 1) else none)
  | .cellAdd =>
    match cellAddend a.cmp a.data with
    | none => (0, fNV, none)
    | some (t, nx) => (0, if nx then fNX else 0, some ((old + t) % 2 ^ 128))
  | .cellRd kind => let r := cellRead kind.toNat old; (r.1, if r.2 then fNX else 0, none)
  | _ => (old, 0, none)

/-- The releases that a store of the group is: its own order, and one of the widest scope of the release fences before it, each with the stores that precede the
store (R71, R73, R74). -/
def Group.relsOf (g : Group) (uid gi : Nat) (m : MemWord) : List (Nat × List Seen) :=
  ((if m.releases then [m.scope.toNat] else []) ++ g.relf.toList).map (fun x => (x, g.snapshot uid gi m.seq))

/-- The level at which a store of the group becomes visible when it drains (R67, R71). -/
def MemWord.drainLevel (m : MemWord) : Nat := if m.releases then max 1 m.scope.toNat else 1

/-- The copies of a group that come after an access which now performs or drains may read their sources from this moment on (R77). -/
def State.markCopies (s : State) (uid gi seq : Nat) : State :=
  if s.cores.all (fun k => k.copies.all (fun x => !(x.crew == uid && x.grp == gi))) then s
  else { s with cores := s.cores.map (fun k => { k with copies := k.copies.map (fun x =>
    if x.crew = uid ∧ x.grp = gi ∧ seq < x.seq then { x with mark := s.nextSeq } else x) }) }

/-- PERFORM of a lane's access (R67, R68, R246, R247), with the value that a load reads: an atomic acts in the same step, and the word is over when all its accesses are.
An atomic that writes nothing may have read a store that its group does not see yet; its lane reads nothing older there from then on (R76). -/
def State.performAcc (s : State) (uid gi : Nat) (c : Crew) (g : Group) (m : MemWord) (a : Acc) (loaded : Nat) : State :=
  let me := c.agent gi
  match if m.op.readsData then s.badPlace a.place a.size else none with
  | some k => (s.reportPhys uid gi k m.op.accCode).fatal uid 5
  | none =>
    let old := if m.op.atomic then (a.place.map (fun p => s.latestVal me p a.size)).getD 0 else loaded
    let r := performOp m a old
    let s1 := match r.2.2, a.place with
      | some new, some p => s.put me m.seq m.drainLevel p (bytesOf a.size new) (g.relsOf uid gi m)
      | _, _ => s
    let floors := match m.op, r.2.2, a.place with
      | .atom _ _, none, some p | .incb, none, some p => (s.unseen me p a.size).map (fun e => (a.lane, e))
      | _, _, _ => []
    let s2 := (s1.markCopies uid gi m.seq).modGroup uid gi (fun g =>
      let g1 := g.modWord m.seq (fun w => { w with accs := modAcc w.accs a.lane (fun x => { x with done := true, val := r.1 }) })
      let g1 := { g1 with floors := floors ++ g1.floors.filter (fun f => s1.drained.any (fun d => d.id == f.2.2)) }
      let g2 := if r.2.1 = 0 then g1 else g1.setFlags a.lane r.2.1
      if m.byLane then
        let ws := loadWrites m.dst a.lane (m.result { a with val := r.1 })
        g2.deliverTo m.seq m.lds (if m.lds && m.clob != [] then chooseWrites s.freeWord m.clob ws else ws)
      else g2)
    let s3 := if m.byLane && m.lds && m.clob != [] then s2.nextFree else s2
    let s4 := if m.acquires then s3.acquire uid gi m.seq ((a.place.map (fun p => p.keys a.size)).getD []) else s3
    (s4.finishWord uid gi m.seq).settleFences

/-- DRAIN of a lane's store: it takes its place at the end of the coherence order (R67, R71). -/
def State.drainAcc (s : State) (uid gi : Nat) (c : Crew) (g : Group) (m : MemWord) (a : Acc) : State :=
  let s1 := match a.place with
    | some p => s.put (c.agent gi) m.seq m.drainLevel p (bytesOf a.size a.data) (g.relsOf uid gi m)
    | none => s
  let s2 := (s1.markCopies uid gi m.seq).modGroup uid gi (fun g =>
    g.modWord m.seq (fun w => { w with accs := modAcc w.accs a.lane (fun x => { x with done := true }) }))
  (s2.finishWord uid gi m.seq).settleFences

/-! ### Transaction barriers (R110, R111) -/

/-- A transaction barrier as numbers. -/
structure TBar where
  phase  : Nat
  arrive : Nat
  reload : Nat
  bytes  : Int
  err    : Bool
  kind   : Nat
  rest   : Nat
  deriving DecidableEq, Repr, Inhabited

/-- The barrier of 128 bits. -/
def tbarOf (x : Nat) : TBar :=
  ⟨nbits x 0 4, nbits x 4 20, nbits x 24 20, toSigned 32 (nbits x 44 32), x.testBit 76, nbits x 77 3, nbits x 80 48⟩

/-- The 128 bits of a barrier. -/
def TBar.bits (b : TBar) : Nat :=
  b.phase + b.arrive * 2 ^ 4 + b.reload * 2 ^ 24 + wrap 32 b.bytes * 2 ^ 44 + (if b.err then 2 ^ 76 else 0) + b.kind * 2 ^ 77 + b.rest * 2 ^ 80

/-- The updates of a barrier (R111). -/
inductive TbUp where
  | init (n : Nat)
  | expect (b : Int)
  | arrive
  | count (b : Nat)
  | arriveB (b : Int)
  | error (k : Nat)
  deriving DecidableEq, Repr, Inhabited

/-- Record an error: the first kind stays (R111). -/
def TBar.fail (b : TBar) (k : Nat) : TBar := { b with kind := if b.err then b.kind else k, err := true }

/-- Check: an update that takes BYTES out of range is undone, and a completed phase advances (R111). -/
def TBar.check (b old : TBar) : TBar :=
  if b.bytes < -(2 ^ 31) ∨ 2 ^ 31 - 1 < b.bytes then old.fail 7
  else if b.arrive = 0 ∧ b.bytes = 0 then { b with phase := (b.phase + 1) % 16, arrive := b.reload, bytes := 0 }
  else b

/-- One update of a barrier (R111): nonzero reserved bits record kind 5 and change nothing else. -/
def TBar.step (b : TBar) (u : TbUp) : TBar :=
  match u with
  | .init n => ⟨0, n, n, 0, false, 0, 0⟩
  | .error k => b.fail k
  | .expect n => if b.rest ≠ 0 then b.fail 5 else ({ b with bytes := b.bytes + n } : TBar).check b
  | .count n => if b.rest ≠ 0 then b.fail 5 else ({ b with bytes := b.bytes - n } : TBar).check b
  | .arrive => if b.rest ≠ 0 then b.fail 5 else if b.arrive = 0 then b.fail 7 else ({ b with arrive := b.arrive - 1 } : TBar).check b
  | .arriveB n =>
    if b.rest ≠ 0 then b.fail 5 else if b.arrive = 0 then b.fail 7
    else ({ b with arrive := b.arrive - 1, bytes := b.bytes + n } : TBar).check b

/-- The place of a crew's barrier. -/
def tbKey (uid off : Nat) : Nat := scratchKey uid off

/-- The barrier at a key. -/
def State.tbar (s : State) (k : Nat) : TBar := tbarOf (s.latestVal .device (.mem k) 16)

/-- Is an access a plain store in flight to one of the 16 bytes at a key? -/
def MemWord.tears (m : MemWord) (k : Nat) (a : Acc) : Bool :=
  m.op == .store && !a.done && (match a.place with
    | some p => p.overlap a.size (.mem k) 16
    | none => false)

/-- The data of a store in flight after an update of the 16 bytes at a key: each byte that both write is the store's or, by a free choice, the update's (R113). -/
def Acc.torn (a : Acc) (k bits : Nat) (f : Word) : Nat :=
  ofBytes ((List.range a.size).map (fun i =>
    let own := BitVec.ofNat 8 (a.data / 256 ^ i)
    match (a.place.map (fun p => p.add i) : Option Place) with
    | some (.mem x) => if k ≤ x ∧ x < k + 128 ∧ x % 8 = k % 8 ∧ f.getLsbD i then BitVec.ofNat 8 (bits / 256 ^ ((x - k) / 8)) else own
    | _ => own))

/-- Plain stores in flight to a barrier while it is updated: each byte ends as the store's or as the update's (R113). -/
def State.tearStores (s : State) (k bits : Nat) : State :=
  if s.crews.all (fun c => c.groups.all (fun g => g.mws.all (fun m => m.accs.all (fun a => !m.tears k a)))) then s
  else
    ({ s with crews := s.crews.map (fun c => { c with groups := c.groups.map (fun g => { g with mws := g.mws.map (fun m =>
      { m with accs := m.accs.map (fun a => if m.tears k a then { a with data := a.torn k bits (s.freeWord (m.seq * 64 + a.lane)) } else a) }) }) }) } : State).nextFree

/-- One atomic update of a barrier by an agent; an update that completes a phase is a release of crew scope, with respect to the crew that owns the barrier,
that covers the engine writes counted on the barrier (R77, R111). A plain store in flight to the barrier's bytes may lose some of them to the update (R113). -/
def State.tbUpdate (s : State) (w : Agent) (po k : Nat) (u : TbUp) (rels : List (Nat × List Seen)) : State :=
  let b := s.tbar k
  let b' := b.step u
  let flip := b'.phase ≠ b.phase
  let ids := (s.counted.filter (fun e => e.1 == k)).map (fun e => e.2.1)
  let rels' := rels ++ (if flip ∧ ids ≠ [] then [(crewScope (k / 8 / 2 ^ 20), ids.map Seen.store)] else [])
  let s1 := (s.put w po 5 (.mem k) (bytesOf 16 b'.bits) rels').tearStores k b'.bits
  { s1 with counted := s1.counted.filter (fun e => s1.drained.any (fun d => d.id == e.2.1)) }

end Sys2Proof.Machine
end

