-- ==== Sys2Proof/Machine/Operands.lean ====
section
/-!
DEFINITION. Operand forms (R157, R162, R165, R166, R168): which lanes and sub-elements execute, what each operand reads, and which registers a word names.
-/

namespace Sys2Proof.Machine

/-! ### The issuing entity -/

/-- The word that issues: its entity, its group as the word reads it, and the lanes that satisfy conditions 1 and 2 of R30. -/
structure Ctx where
  m    : Member
  crew : Crew
  g    : Group
  ent  : Ent
  st   : Nat
  pos  : Nat
  cyc  : Nat
  lanes : Word
  deriving DecidableEq, Repr, Inhabited

/-- The block that a slot names in a state: 0xFFFF for a slot beyond the state's list (R29). -/
def State.slotBlk (s : State) (img st slot : Nat) : Nat :=
  (((s.image? img).bind (fun i => i.states[st]?)).bind (fun d => d.blks[slot]?)).getD exitBlk

/-- The lanes of an entity for which a word of a slot executes, before its guard (R30). -/
def State.slotLanes (s : State) (c : Crew) (g : Group) (e : Ent) (slot : BitVec 3) : Word :=
  if slot = 7 then e.lanes
  else
    let b := s.slotBlk c.img e.st slot.toNat
    maskOf ((lanesOf e.lanes).filter (fun l => (g.lane l).occ.toNat == b && b != exitBlk))

/-- What an entity's word sees, when the entity exists. -/
def State.ctxOf (s : State) (m : Member) (cyc : Nat) (slot : BitVec 3) : Option Ctx :=
  match s.crew? m.crew, s.group? m.crew m.grp with
  | some c, some g => (g.ent? m.ent).map (fun e => ⟨m, c, g, e, e.st, e.pos, cyc, s.slotLanes c g e slot⟩)
  | _, _ => none

/-- The guard bit of a lane at a bit position (R162). -/
def Ctx.guard (c : Ctx) (h : Hdr) (l bit : Nat) : Bool := (c.g.getP h.gpred.toNat l).getLsbD bit != h.gneg

/-- Exec(l, s) at a width; width 0 stands for the classes whose guard is read at bit 0 of the lane (R162). -/
def Ctx.exec (c : Ctx) (h : Hdr) (w l s : Nat) : Bool := c.lanes.getLsbD l && c.guard h l (w / 8 * s)

/-- Active: the lanes for which at least one sub-element executes (R157). -/
def Ctx.active (c : Ctx) (h : Hdr) (w : Nat) : Word :=
  maskOf ((lanesOf c.lanes).filter (fun l => if w = 0 then c.guard h l 0 else (subs w).any (fun s => c.guard h l (w / 8 * s))))

/-- The extent code of a tile side: 32, 64 or 128 (R267). -/
def sideOf (code : Nat) : Nat := 32 * 2 ^ code

end Sys2Proof.Machine

namespace Sys2Proof

open Machine

/-! ### Fields -/

/-- IMM32 of form I. -/
def Body.imm (w : Body) : BitVec 32 :=
  match w.fs with
  | .i f => f.imm32
  | _ => 0

/-- SUB of form R, or SUB2 of form I. -/
def Body.sub (w : Body) : Nat :=
  match w.fs with
  | .r f => f.sub.toNat
  | .i f => f.sub2.toNat
  | .m f => f.subm.toNat

/-- UNS. -/
def Body.uns (w : Body) : Bool :=
  match w.fs with
  | .r f => f.uns
  | .i f => f.uns
  | .m _ => false

/-- SAT. -/
def Body.sat (w : Body) : Bool :=
  match w.fs with
  | .r f => f.sat
  | .i f => f.sat
  | .m _ => false

/-- RND (R98). -/
def Body.rm (w : Body) : Rm :=
  match w.fs with
  | .r f => rmOf f.rnd
  | .i f => rmOf f.rnd
  | .m _ => .rne

/-- RND as written. -/
def Body.rnd2 (w : Body) : BitVec 2 :=
  match w.fs with
  | .r f => f.rnd
  | .i f => f.rnd
  | .m _ => 0

/-- SRCC of form R. -/
def Body.c (w : Body) : Opnd :=
  match w.fs with
  | .r f => f.srcc
  | _ => .v 0

/-- TYPE2 of form R; form I has none and reads 0. -/
def Body.ty2 (w : Body) : Nat :=
  match w.fs with
  | .r f => f.type2.toNat
  | _ => 0

/-- IMM8 of form R. -/
def Body.imm8 (w : Body) : Nat :=
  match w.fs with
  | .r f => f.imm8.toNat
  | _ => 0

/-- SSEL of form R. -/
def Body.ssel (w : Body) : Nat :=
  match w.fs with
  | .r f => f.ssel.toNat
  | _ => 0

/-- Form M. -/
def Body.fm (w : Body) : FormM :=
  match w.fs with
  | .m f => f
  | _ => default

/-- n of a matrix word. -/
def Body.tn (w : Body) : Nat := sideOf (w.ty.toNat % 4)

/-- m of a matrix word. -/
def Body.tm (w : Body) : Nat := sideOf (w.imm8 / 64)

/-- The first accumulator unit of a matrix word's tile. -/
def Body.tile (w : Body) : Nat := w.imm8 % 64

/-- k of MMA and MMAS. -/
def Body.tk (w : Body) : Nat := 32 * (w.sub * 2 + (if w.uns then 1 else 0) + 1)

end Sys2Proof

namespace Sys2Proof.Machine

/-- The width of TYPE in the integer classes (R167). -/
def intWidth (ty : BitVec 3) : Nat := 8 * 2 ^ (ty.toNat % 4)

/-- The format of a TYPE or TYPE2 code in the float classes (R167). -/
def fmtOf (code : Nat) : Fmt :=
  match code with
  | 0 => .f16
  | 1 => .bf16
  | 2 => .f32
  | 3 => .f64
  | 4 => .e4m3
  | _ => .e5m2

/-! ### Values -/

/-- A sub-element value repeated through 64 bits. -/
def splat (w x : Nat) : Nat := (subs w).foldl (fun acc s => acc + (x % 2 ^ w) * 2 ^ (w * s)) 0

/-- The immediate of form I as an integer source of width w (R166). -/
def immInt (w : Nat) (uns : Bool) (imm : BitVec 32) : Nat :=
  if w = 64 then (if uns then imm.toNat else sext64 32 imm.toNat) else splat w imm.toNat

/-- The immediate of form I as a float source (R166): binary32 widened exactly at binary64, where a NaN keeps its sign and mantissa and so stays signalling
(DEDUCED, assumption 15). -/
def immFloat (f : Fmt) (imm : BitVec 32) : Nat :=
  match f with
  | .f64 =>
      if nbits imm.toNat 23 8 = 255 ∧ nbits imm.toNat 0 23 ≠ 0 then
        nbits imm.toNat 31 1 * 2 ^ 63 + 2047 * 2 ^ 52 + nbits imm.toNat 0 23 * 2 ^ 29
      else (roundTo .f64 .rne false (numOf .f32 imm.toNat)).1
  | .f32 => splat 32 imm.toNat
  | .f16 | .bf16 => splat 16 imm.toNat
  | _ => splat 8 imm.toNat

/-- The 64 bits that an operand gives a lane; the immediate is given. -/
def Ctx.val (c : Ctx) (o : Opnd) (imm l : Nat) : Nat :=
  match o with
  | .v n => (c.g.getV n.toNat l).toNat
  | .s n => (c.g.getS n.toNat).toNat
  | .p n => (c.g.getP n.toNat l).toNat
  | .imm => imm
  | _ => 0

/-- The unsigned value of an S operand or of IMM32 (R191, R242). -/
def Ctx.uval (c : Ctx) (w : Body) (o : Opnd) : Nat := c.val o w.imm.toNat 0

/-! ### Registers named (R21, R199, R323) -/

/-- The operand code of a register that results can be on their way to. -/
def regKey (o : Opnd) : Option Nat :=
  match o with
  | .v n => some (vKey n.toNat)
  | .s n => some (sKey n.toNat)
  | .p n => some (pKey n.toNat)
  | _ => none

/-- What a word names: the registers it reads in the order of R325, those it writes, the V registers that must lie in held blocks, and the width of its reads. -/
structure Uses where
  reads  : List Nat
  writes : List Nat
  vregs  : List Nat
  width  : Nat
  deriving DecidableEq, Repr, Inhabited

/-- The width at which the guard of a class is read: 0 for bit 0 of the lane (R162). -/
def guardWidth (o : Op) (w : Body) : Nat :=
  let cls := (opSpec o).cls
  if cls = 2 ∨ (4 ≤ cls ∧ cls ≤ 12) then intWidth w.ty
  else if cls = 19 then
    match o with
    | .f2i => intWidth w.ty
    | _ => fmtBits (fmtOf w.ty.toNat)
  else if 16 ≤ cls ∧ cls ≤ 20 then fmtBits (fmtOf w.ty.toNat)
  else 0

/-- Registers of a block of 32 wide values (R230). -/
def wideRegs (ty : BitVec 3) : Nat := if ty = 2 then 16 else 8

/-- How many consecutive registers DST, SRCA, SRCB and SRCC name: pairs of 16 bytes (R238, R247, R265, R271), the ranges of the block
formats (R230) and of the sparse helpers (R275 to R277), and the A and bitmap registers of a matrix word (R133, R139). -/
def spans (o : Op) (w : Body) : Nat × Nat × Nat × Nat :=
  let q := if w.ty = 4 then 2 else 1
  let h := if w.ty = 1 then 2 else 1
  let ra := match w.a with
    | .v _ => w.tk * (if w.ty2 = 4 ∨ w.ty2 = 5 then 2 else 1) / 8
    | _ => 1
  match o with
  | .ld | .lds | .ldX | .obld | .amld => (q, 1, 1, 1)
  | .st | .stX | .amst => (1, 1, q, 1)
  | .obst => (1, 1, 1, q)
  | .cellrd => (if w.fm.subm = 2 then 2 else 1, 1, 1, 1)
  | .celladd => (1, 1, if w.fm.subm = 3 then 2 else 1, 1)
  | .mxq => (5, wideRegs w.ty, 1, 1)
  | .mxdq => (wideRegs w.ty, 5, 1, 1)
  | .q4pk => (3, wideRegs w.ty, 1, 1)
  | .q4upk => (wideRegs w.ty, 3, 1, 1)
  | .prune48 => (h, h, 1, 1)
  | .spexp => (h, h, 1, 1)
  | .bmap => (1, w.imm8, 1, 1)
  | .mma => (1, ra, 1, 1)
  | .mmas => (1, ra, 1, w.tk / 32)
  | _ => (1, 1, 1, 1)

/-- The V registers of an operand of n consecutive registers. -/
def vOf (o : Opnd) (n : Nat) : List Nat :=
  match o with
  | .v r => (List.range n).map (fun i => r.toNat + i)
  | _ => []

/-- Does the word read its DST (ACPY's barrier, the compare value of ATOM.cas, words that keep bits of their destination)? -/
def readsDst (o : Op) (w : Body) : Bool :=
  match o with
  | .acpy => true
  | .atom => w.fm.subm == 7
  | _ => false

/-- DST is read, not written. -/
def dstIsSource (o : Op) : Bool :=
  match o with
  | .acpy => true
  | _ => false

/-- The registers of an operand of n consecutive registers as result keys. -/
def keysOf (o : Opnd) (n : Nat) : List Nat :=
  match o with
  | .v r => ((List.range n).filter (fun i => decide (r.toNat + i < 256))).map (fun i => vKey (r.toNat + i))
  | .s r => ((List.range n).filter (fun i => decide (r.toNat + i < 64))).map (fun i => sKey (r.toNat + i))
  | o => (regKey o).toList

/-- The guard as a read; P0 is never written. -/
def guardKeys (h : Hdr) : List Nat := if h.gpred = 0 then [] else [pKey h.gpred.toNat]

/-- Which of the operand fields an operation uses as registers: those its encoding row lists. -/
def used (l : List Kind) (o : Opnd) (n : Nat) : List Nat := if l = [] then [] else keysOf o n

/-- The V registers among used operands. -/
def usedV (l : List Kind) (o : Opnd) (n : Nat) : List Nat := if l = [] then [] else vOf o n

/-- Does the form name its first source: MONITOR.clear does not (R249)? -/
def usesA (o : Op) (w : Body) : Bool := !(o == .monitor && w.fm.subm == 2)

/-- Does the form name its second source: SHFL with a constant distance does not (R210)? -/
def usesB (o : Op) (w : Body) : Bool := !(o == .shfl && w.sub != 0)

/-- The registers that a word that is no pair word names; an operand that its form does not use is not read (R164). RGATH may reach every register at or above its
base (R323), and PREF takes no fault at all (R243). -/
def bodyUses (o : Op) (w : Body) : Uses :=
  let sp := opSpec o
  let (nd, na, nb, nc) := spans o w
  let d := used sp.dst w.dst nd
  let la := if usesA o w then sp.a else []
  let lb := if usesB o w then sp.b else []
  { reads := guardKeys w.hdr ++ used la w.a (if o == .rgath then 256 else na) ++ used lb w.b nb ++ used sp.c w.c nc ++ (if readsDst o w then d else [])
    writes := if dstIsSource o then [] else d
    vregs := if o == .pref then [] else usedV sp.dst w.dst nd ++ usedV la w.a na ++ usedV lb w.b nb ++ usedV sp.c w.c nc
    width := guardWidth o w }

/-- Does a half use its second and third source (R169, R170)? -/
def half1Arity (h : HalfOp1) : Nat :=
  match h with
  | .empty => 0
  | .ineg | .iabs | .not => 1
  | _ => 2

/-- Sources of a half 2. -/
def half2Arity (h : HalfOp2) : Nat :=
  match h with
  | .empty => 0
  | .imad | .ffma => 3
  | _ => 2

/-- The registers that a pair word names: REGBLOCK names the first unheld one of both destinations, half 1's sources and half 2's, in that order
(R199 gives none; DESIGN CHOICE, assumption 14). -/
def pairUses (h : Hdr) (x : Half1) (y : Half2) : Uses :=
  let n := half1Arity x.hop
  let k := half2Arity y.hop
  let r1 := ([x.a.toNat, x.b.toNat, x.c.toNat]).take n
  let r2 := ([y.a.toNat, y.b.toNat, y.c.toNat]).take k
  let w := (if n = 0 then [] else [x.d.toNat]) ++ (if k = 0 then [] else [y.d.toNat])
  { reads := guardKeys h ++ r1 ++ r2, writes := w, vregs := w ++ r1 ++ r2, width := 0 }

/-- The width of half 1 and of an integer half 2. -/
def halfWidth (ty : BitVec 2) : Nat := 8 * 2 ^ ty.toNat

/-- The width of half 2. -/
def half2Width (y : Half2) : Nat :=
  match y.hop with
  | .fmul | .ffma => fmtBits (fmtOf y.ty.toNat)
  | _ => halfWidth y.ty

/-- The registers that an instruction word names. -/
def instrUses (i : Instr) : Uses :=
  match i with
  | .pair h x y => pairUses h x y
  | i => match i.word? with
    | some (o, w) => bodyUses o w
    | none => ⟨[], [], [], 0⟩

/-! ### Widths of reads (R324) -/

/-- The sub-element width of a class as its destination has it, or as the Beryl unit and the pruning words read their sources (R275 to R278);
64 for words that read and write whole lanes. -/
def subWidth (o : Op) (w : Body) : Nat :=
  match o with
  | .prune48 | .bmap | .spexp => intWidth w.ty
  | .qmul | .qmuls | .qdiv => if w.ty.toNat < 4 then intWidth w.ty else if w.ty = 6 then 32 else 16
  | _ => if guardWidth o w = 0 then 64 else guardWidth o w

/-- The widths at which SRCA, SRCB and SRCC are read: conversions read their source format (R208, R225 to R236), and a bit-field control is a whole register (R206). -/
def srcWidths (o : Op) (w : Body) : Nat × Nat × Nat :=
  let d := subWidth o w
  match o with
  | .i2f => (8 * 2 ^ w.ty2, d, d)
  | .fcvt | .f2i => (fmtBits (fmtOf w.ty2), d, d)
  | .inarrow | .pack => (2 * d, 2 * d, d)
  | .iext => (d / 2, d, d)
  | .bfe => (d, 64, d)
  | .bfi => (d, d, 64)
  | .mxdq | .q4upk => (8, d, d)
  | .fdot => (fmtBits (fmtOf w.ty2), fmtBits (fmtOf w.ty2), d)
  | _ => (d, d, d)

/-- The width at which a word reads the register of a key; a register that several operands name is read at the widest of their widths. -/
def readWidth (i : Instr) (key : Nat) : Nat :=
  let wide := fun (l : List (Nat × List Nat)) => l.foldl (fun n e => if e.2.contains key then max n e.1 else n) 0
  let n := match i with
    | .pair _ x y =>
      wide [(halfWidth x.ty, ([x.a.toNat, x.b.toNat, x.c.toNat]).take (half1Arity x.hop)), (half2Width y, ([y.a.toNat, y.b.toNat, y.c.toNat]).take (half2Arity y.hop))]
    | i => match i.word? with
      | some (o, w) =>
        let (_, na, nb, nc) := spans o w
        let (wa, wb, wc) := srcWidths o w
        wide [(wa, keysOf w.a (if o == .rgath then 256 else na)), (wb, keysOf w.b nb), (wc, keysOf w.c nc)]
      | none => 0
  if n = 0 then 64 else n

/-- The header of an instruction word. -/
def instrHdr (i : Instr) : Hdr :=
  match i with
  | .pair h _ _ => h
  | i => match i.word? with
    | some (_, w) => w.hdr
    | none => default

/-! ### Latencies (R319) -/

/-- The fixed latency of an operation in cycles. -/
def latency (o : Op) (w : Body) : Nat :=
  let d64 := w.ty == 3
  match o with
  | .srd | .brrd | .splitq => 2
  | .vote => 4
  | .pand | .por | .pxor | .pnot => 2
  | .iadd | .isub | .iadds | .isubs | .ineg | .iabs | .imin | .imax | .iclamp | .isad => 4
  | .imul | .imulh | .imad => 6
  | .idiv | .irem => if w.ty.toNat ≤ 1 then 12 else if w.ty = 2 then 20 else 32
  | .and | .or | .xor | .andn | .not | .tern => 2
  | .shl | .shr | .sar | .rol | .ror => 2
  | .fsh => 4
  | .popc | .clz | .ctz | .brev | .bfe | .bfi => 4
  | .icmp => 4
  | .sel | .mov | .movi => 2
  | .iext | .inarrow | .pack | .unpack => 4
  | .shfl | .bcast | .rgath => 6
  | .compact => 8
  | .lscan | .lred => if w.ty2 = 3 then 14 else 10
  | .fadd | .fsub | .fmul | .ffma => if d64 then 8 else 4
  | .fmin | .fmax => 2
  | .fcmp | .fround | .fscale => if d64 then 8 else 4
  | .fclass => 2
  | .fexp2 | .flog2 => 10
  | .frcp | .frsq | .fsqrt => if d64 then 24 else 12
  | .ftanh | .fsigm => 12
  | .fsin | .fcos => 14
  | .fdiv => if d64 then 32 else 16
  | .fcvt => if d64 ∨ w.ty2 = 3 then 8 else 4
  | .f2i => if w.ty2 = 3 then 8 else 4
  | .i2f => if d64 then 8 else 4
  | .mxdq | .q4upk | .fdot => 8
  | .mxq | .q4pk => 16
  | .prune48 => 6
  | .bmap | .spexp => 4
  | _ => 0

/-- The latency of a half (R327). -/
def half1Latency (h : HalfOp1) : Nat :=
  match h with
  | .and | .or | .xor | .andn | .not | .shl | .shr | .sar | .rol | .ror => 2
  | _ => 4

/-- The latency of half 2. -/
def half2Latency (h : HalfOp2) (ty : BitVec 2) : Nat :=
  match h with
  | .imul | .imad => 6
  | _ => if ty = 3 then 8 else 4

end Sys2Proof.Machine
end

