-- ==== Sys2Proof/Machine/Addr.lean ====
section
/-!
DEFINITION. How an address is formed and checked (R57 to R62, R116): buffer records, swizzle, scratch offsets and the on-chip map.
-/

namespace Sys2Proof.Machine

/-! ### Buffer records (R19) -/

def recBase (b : BufRec) : Nat := (b.extractLsb' 0 64).toNat
def recStride (b : BufRec) : Nat := (b.extractLsb' 64 32).toNat
def recExtent (b : BufRec) : Nat := (b.extractLsb' 96 40).toNat
def recEsize (b : BufRec) : Nat := (b.extractLsb' 136 3).toNat
def recChunk (b : BufRec) : Nat := (b.extractLsb' 139 2).toNat
def recSwen (b : BufRec) : Bool := b.getLsbD 141
def recSwsrc (b : BufRec) : Nat := (b.extractLsb' 142 6).toNat
def recOob (b : BufRec) : Bool := b.getLsbD 148
def recCell (b : BufRec) : Bool := b.getLsbD 149
def recSpace (b : BufRec) : Bool := b.getLsbD 150

/-- The swizzle (R116). -/
def swizzle (off chunk src : Nat) : Nat := off ^^^ (((off >>> src) % 8) <<< (4 + chunk))

/-- Swizzle fields in range: SWSRC lies from c + 3 to 40 where the swizzle is enabled (R116). -/
def swizzleOk (en : Bool) (chunk src : Nat) : Bool := !en || (decide (7 + chunk ≤ src) && decide (src ≤ 40))

/-- What a word does with cells decides which records it may use (R243, R246, R247). -/
inductive CellUse where
  | plain | wide | cell
  deriving DecidableEq, Repr, Inhabited

/-- Does an access through the record raise BADREC (R19, R116, R243, R246, R247)? -/
def badRec (b : BufRec) (u : CellUse) : Bool :=
  decide (4 < recEsize b) || !swizzleOk (recSwen b) (recChunk b) (recSwsrc b) ||
  (match u with
   | .plain => recCell b
   | .wide => recCell b && recEsize b != 4
   | .cell => !recCell b || recEsize b != 4)

/-! ### The on-chip map (R61, R62) -/

/-- May a crew reach another crew's windows (R62)? -/
def Crew.mayReach (a o : Crew) : Bool := a.uid == o.uid || (a.part == o.part && o.grant != 0 && a.access == o.grant)

/-- The place of n bytes at an offset of a core in the windows of one of its crews, none where the crew holds no such bytes (R61). -/
def Crew.window (c : Crew) (off n : Nat) : Option Place :=
  if off < 0x2000000 then
    if off / 0x200000 ≠ c.slot then none
    else
      let gi := off % 0x200000 / 0x20000
      let blk := off % 0x20000 / 0x2000
      let at_ := off % 0x2000
      match c.groups[gi]? with
      | none => none
      | some g =>
        if blk < g.nblk ∧ at_ + n ≤ 128 * c.width ∧ !g.retired then
          some (.vreg c.uid gi (16 * blk + at_ / 8 / c.width) (at_ / 8 % c.width) (at_ % 8))
        else none
  else if off < 0x3000000 then
    if (off - 0x2000000) / 0x100000 = c.slot ∧ off % 0x100000 + n ≤ 1024 * c.scrKiB then some (.mem (scratchKey c.uid (off % 0x100000))) else none
  else if off < 0x3040000 then
    let o := off - 0x3000000
    if c.obBase ≤ o ∧ o + n ≤ c.obBase + 1024 * c.obKiB then some (.mem (opbufKey c.uid (o - c.obBase))) else none
  else if 0x3800000 ≤ off ∧ off < 0x3840000 then
    let o := off - 0x3800000
    if c.accBase ≤ o ∧ o + n ≤ c.accBase + 4096 * c.accN then some (.mem (accKey c.uid (o - c.accBase))) else none
  else none

/-- The core that an on-chip address names, if it is enabled (R61). -/
def State.chipCore (s : State) (addr : Nat) : Option Nat :=
  let core := addr / 0x4000000
  if 160 ≤ core || !s.dev.coreen.getLsbD core then none else some core

/-- The place of n bytes at an on-chip address with the crew that owns it, none where the address is invalid (R61). -/
def State.onchip (s : State) (addr n : Nat) : Option (Crew × Place) :=
  match s.chipCore addr with
  | none => none
  | some core =>
    (s.crews.filter (fun c => c.core == core && c.phase == .resident)).findSome? (fun c => (c.window (addr % 0x4000000) n).map (fun p => (c, p)))

/-- The place of n bytes at an on-chip address as a crew may reach it (R61, R62). -/
def State.onchipFor (s : State) (a : Crew) (addr n : Nat) : Option Place :=
  match s.onchip addr n with
  | some (o, p) => if a.mayReach o then some p else none
  | none => none

/-! ### Lane addresses -/

/-- What forming a lane's address gives. -/
inductive LaneAddr where
  | drop
  | virt (va : Nat)
  | chip (p : Place)
  | bad (cause : BitVec 8) (info : Word)
  deriving DecidableEq, Repr, Inhabited

/-- The address of an access through a record with an exact offset (R57, R58, R61). -/
def State.recAddr (s : State) (c : Crew) (b : BufRec) (lane : Nat) (wr : Bool) (off : Int) (size : Nat) : LaneAddr :=
  if off < 0 ∨ recExtent b < off + size then
    if recOob b then .drop else .bad causeBounds (faultInfo lane wr (wrap 64 off))
  else
    let o := if recSwen b then swizzle off.toNat (recChunk b) (recSwsrc b) else off.toNat
    let a := (recBase b + o) % 2 ^ 64
    if a % size ≠ 0 then .bad causeAlign (faultInfo lane wr a)
    else if recSpace b then
      match s.onchipFor c a size with
      | some p => .chip p
      | none => .bad causeBounds (faultInfo lane wr (wrap 64 off))
    else .virt a

/-- The offset of a lane through a record: index times stride plus the immediate, exact (R57). -/
def recOffset (b : BufRec) (idx : Nat) (imm24 : BitVec 24) : Int := (idx : Int) * recStride b + toSigned 24 imm24.toNat

/-- A scratch access at an offset (R60, R244). -/
def scratchAddr (c : Crew) (lane : Nat) (wr : Bool) (off : Int) (size : Nat) : LaneAddr :=
  if off % size ≠ 0 then .bad causeAlign (faultInfo lane wr (wrap 64 off))
  else if off < 0 ∨ (1024 * c.scrKiB : Int) < off + size then .bad causeBounds (faultInfo lane wr (wrap 64 off))
  else .chip (.mem (scratchKey c.uid off.toNat))

/-- The rank of a fault found at issue (R239). -/
def causeRank (cause : BitVec 8) : Nat :=
  if cause = causeBadrec then 0 else if cause = causeAlign then 1 else 2

/-- The fault reported among the lanes': the first kind in the order of R239, and within it the lowest lane. -/
def firstFault (l : List (Nat × LaneAddr)) : Option (BitVec 8 × Word) :=
  l.foldl (fun b e => match e.2 with
    | .bad cause info =>
      match b with
      | some (c0, _) => if causeRank cause < causeRank c0 then some (cause, info) else b
      | none => some (cause, info)
    | _ => b) none

/-! ### Ranges (R78, R115) -/

/-- Does a range cover part of an access at a place? -/
def Range.hitsPlace (r : Range) (p : Place) (n : Nat) : Bool :=
  match r, p with
  | .scratch c lo hi, .mem k => (Place.mem (scratchKey c lo)).overlap (hi - lo) (.mem k) n
  | .opbuf c lo hi, .mem k => (Place.mem (opbufKey c lo)).overlap (hi - lo) (.mem k) n
  | .acc c lo hi, .mem k => (Place.mem (accKey c lo)).overlap (hi - lo) (.mem k) n
  | .regs c g lo hi, .vreg c' g' reg _ _ => c == c' && g == g' && decide (lo ≤ reg / 16) && decide (reg / 16 ≤ hi)
  | _, _ => false

/-- Does a range cover part of a virtual access? -/
def Range.hitsVirt (r : Range) (part va n : Nat) : Bool :=
  match r with
  | .virt p lo hi => p == part && decide (lo < va + n) && decide (va < hi)
  | _ => false

/-- The crews whose windows a copy of a crew may reach at an on-chip address: those that hold slots of its core now (R62, R371). -/
def State.ownersAt (s : State) (a : Crew) (addr : Nat) : List Nat :=
  match s.chipCore addr with
  | none => []
  | some core => (s.crews.filter (fun c => c.core == core && c.phase == .resident && a.mayReach c)).map (·.uid)

/-- The place of n bytes at offset i of a side that is not virtual, none where it is invalid (R60, R61). -/
def State.sidePlace (s : State) (x : Side) (i n : Nat) : Option Place :=
  match x with
  | .virt _ => none
  | .scratch u off =>
    (s.crew? u).bind (fun c => if off + i + n ≤ 1024 * c.scrKiB then some (.mem (scratchKey u (off + i))) else none)
  | .onchip owners addr =>
    if (addr + i) / 0x4000000 ≠ addr / 0x4000000 then none
    else owners.findSome? (fun u => (s.crew? u).bind (fun c => c.window ((addr + i) % 0x4000000) n))

/-- The part of an interval of a core's offsets that lies in a window, as offsets in the window rounded out to sectors. -/
def cutTo (lo hi base size : Nat) : Option (Nat × Nat) :=
  let a := max lo base
  let b := min hi (base + size)
  if a < b then some ((a - base) / 64 * 64, roundUp (b - base) 64) else none

/-- The ranges of a crew's windows that an interval of its core's offsets meets (R115). -/
def Crew.rangesIn (c : Crew) (lo hi : Nat) : List Range :=
  ((cutTo lo hi (0x2000000 + c.slot * 0x100000) (1024 * c.scrKiB)).map (fun x => Range.scratch c.uid x.1 x.2)).toList ++
  ((cutTo lo hi (0x3000000 + c.obBase) (1024 * c.obKiB)).map (fun x => Range.opbuf c.uid x.1 x.2)).toList ++
  ((cutTo lo hi (0x3800000 + c.accBase) (4096 * c.accN)).map (fun x => Range.acc c.uid x.1 x.2)).toList ++
  (c.groups.mapIdx (fun gi g =>
    ((cutTo lo hi (c.slot * 0x200000 + gi * 0x20000) (0x2000 * g.nblk)).map (fun x => Range.regs c.uid gi (x.1 / 0x2000) ((x.2 - 1) / 0x2000))).toList)).flatten

/-- The scoreboard ranges of len bytes at a side, with the core that holds each (R115). -/
def State.sideRanges (s : State) (a : Crew) (x : Side) (len : Nat) : List (Nat × Range) :=
  match x with
  | .virt va => [(a.core, .virt a.part (va / 64 * 64) (roundUp (va + len) 64))]
  | .scratch u off => [(a.core, .scratch u (off / 64 * 64) (roundUp (off + len) 64))]
  | .onchip owners addr =>
    let core := addr / 0x4000000
    let off := addr % 0x4000000
    (owners.flatMap (fun u => ((s.crew? u).map (fun c => c.rangesIn off (off + len))).getD [])).map (fun r => (core, r))

/-- The smallest range that holds two of one space, none where their spaces differ. -/
def Range.join (a b : Range) : Option Range :=
  match a, b with
  | .scratch c l h, .scratch c' l' h' => if c = c' then some (.scratch c (min l l') (max h h')) else none
  | .opbuf c l h, .opbuf c' l' h' => if c = c' then some (.opbuf c (min l l') (max h h')) else none
  | .acc c l h, .acc c' l' h' => if c = c' then some (.acc c (min l l') (max h h')) else none
  | .regs c g l h, .regs c' g' l' h' => if c = c' ∧ g = g' then some (.regs c g (min l l') (max h h')) else none
  | .virt p l h, .virt p' l' h' => if p = p' then some (.virt p (min l l') (max h h')) else none
  | _, _ => none

/-- Do two ranges share a byte? -/
def Range.meets (a b : Range) : Bool :=
  match a, b with
  | .scratch c l h, .scratch c' l' h' => c == c' && decide (l < h') && decide (l' < h)
  | .opbuf c l h, .opbuf c' l' h' => c == c' && decide (l < h') && decide (l' < h)
  | .acc c l h, .acc c' l' h' => c == c' && decide (l < h') && decide (l' < h)
  | .regs c g l h, .regs c' g' l' h' => c == c' && g == g' && decide (l ≤ h') && decide (l' ≤ h)
  | .virt p l h, .virt p' l' h' => p == p' && decide (l < h') && decide (l' < h)
  | _, _ => false

/-- A range joins a list of ranges. -/
def addRange (l : List (Nat × Range)) (r : Nat × Range) : List (Nat × Range) :=
  match l with
  | [] => [r]
  | x :: t =>
    if x.1 = r.1 then (match x.2.join r.2 with
      | some y => (x.1, y) :: t
      | none => x :: addRange t r)
    else x :: addRange t r

/-- The range of n bytes at a place and the core that holds it. -/
def State.placeRange (s : State) (p : Place) (n : Nat) : Nat × Range :=
  let coreOf := fun u => ((s.crew? u).map (·.core)).getD 0
  match p with
  | .vreg c g r _ _ => (coreOf c, .regs c g (r / 16) (r / 16))
  | .mem k =>
    let u := k / 8 / 2 ^ 20
    let o := k / 8 % 2 ^ 20
    let lo := o / 64 * 64
    let hi := roundUp (o + n) 64
    (coreOf u, if k % 8 = 4 then .scratch u lo hi else if k % 8 = 5 then .opbuf u lo hi else .acc u lo hi)

/-- How many entries a core's range scoreboard holds: one per copy (R78, R115). -/
def State.sbCount (s : State) (core : Nat) : Nat :=
  s.cores.foldl (fun n k => n + (k.copies.filter (fun c => c.ranges.any (fun r => r.1 == core))).length) 0

/-- The range scoreboard of a core: the entries of the copies whose destinations lie there (R78, R115). -/
def State.scoreboard (s : State) (core : Nat) : List Range :=
  (s.cores.map (fun k => (k.copies.map (fun c => (c.ranges.filter (fun r => r.1 == core)).map (·.2))).flatten)).flatten

/-- Does a copy in flight cover this address (R78)? -/
def covered (sb : List Range) (part : Nat) (a : LaneAddr) (n : Nat) : Bool :=
  match a with
  | .virt va => sb.any (fun r => r.hitsVirt part va n)
  | .chip p => sb.any (fun r => r.hitsPlace p n)
  | _ => false

/-- Does a copy fill one of these V registers of the group (R115)? -/
def coveredRegs (sb : List Range) (crew grp : Nat) (vregs : List Nat) : Bool :=
  vregs.any (fun v => sb.any (fun r => r.hitsPlace (.vreg crew grp v 0 0) 8))

/-- Scratch records of kicks that the engine has not finished reading (R252). -/
def kickCovers (c : Crew) (gi : Nat) (a : LaneAddr) (n : Nat) : Bool :=
  match a with
  | .chip (.mem k) => c.kicks.any (fun x => x.grp == gi && (Place.mem (scratchKey c.uid x.off)).overlap (64 * x.count) (.mem k) n)
  | _ => false

/-! ### The accesses of a memory word -/

/-- The bytes that a TYPE code of classes 0x18 to 0x1B names (R167, R238). -/
def memSize (ty : BitVec 3) : Nat :=
  match ty.toNat with
  | 0 => 1
  | 1 => 2
  | 2 | 5 => 4
  | 3 | 6 => 8
  | _ => 16

/-- How a word uses cells. -/
def cellUse (o : Op) (w : Body) : CellUse :=
  match o with
  | .ld | .st => if w.ty = 4 then .wide else .plain
  | .celladd | .cellrd | .cellclr => .cell
  | _ => .plain

/-- Does the word write memory (WR of R239)? -/
def opWrites (o : Op) : Bool :=
  match o with
  | .st | .stX | .sst | .atom | .incb | .celladd | .cellclr => true
  | _ => false

/-- The lanes whose addresses a word forms: all active lanes, or the lowest for an entity-level word. -/
def addrLanes (o : Op) (act : Word) : List Nat :=
  match o with
  | .monitor => (lanesOf act).take 1
  | .sld | .sst | .recld => if act = 0 then [] else [0]
  | _ => lanesOf act

/-- The bytes of one access of a word. -/
def opSize (o : Op) (w : Body) : Nat :=
  match o with
  | .monitor => 8
  | .recld => 192
  | _ => memSize w.ty

/-- The address that one lane of a memory word forms (R57, R59, R60); MONITOR is entity-level and names lane 0 in its faults (R239). -/
def State.laneAddr (s : State) (c : Ctx) (o : Op) (w : Body) (l : Nat) : LaneAddr :=
  let f := w.fm
  let wr := opWrites o
  let n := opSize o w
  match o with
  | .ldX | .stX => scratchAddr c.crew l wr ((c.val w.a 0 l : Int) + toSigned 24 f.imm24.toNat) n
  | .sld | .sst =>
    let a := wrap 64 ((c.val w.a 0 l : Int) + toSigned 24 f.imm24.toNat)
    if a % n ≠ 0 then .bad causeAlign (faultInfo 0 wr a) else .virt a
  | .recld =>
    let a := wrap 64 ((c.val w.a 0 l : Int) + toSigned 24 f.imm24.toNat)
    if a % 64 ≠ 0 then .bad causeAlign (faultInfo 0 false a) else .virt a
  | _ =>
    let b := c.g.getB f.bidx.toNat
    let lane := if o = .monitor then 0 else l
    if badRec b (cellUse o w) then .bad causeBadrec (faultInfo lane wr 0)
    else s.recAddr c.crew b lane wr (recOffset b (c.val w.a 0 l) f.imm24) n

/-- The addresses of a memory word's lanes. -/
def State.laneAddrs (s : State) (c : Ctx) (o : Op) (w : Body) (act : Word) : List (Nat × LaneAddr) :=
  (addrLanes o act).map (fun l => (l, s.laneAddr c o w l))

/-- The addresses of one lane of an ACPY: its source and its destination (R251). -/
def State.acpyLane (s : State) (c : Ctx) (w : Body) (l : Nat) : LaneAddr × LaneAddr :=
  let n := memSize w.ty
  let i := w.fm.bidx.toNat
  let bs := c.g.getB i
  let bd := c.g.getB (i + 1)
  (if badRec bs .plain then .bad causeBadrec (faultInfo l false 0) else s.recAddr c.crew bs l false (recOffset bs (c.val w.a 0 l) w.fm.imm24) n,
   if badRec bd .plain then .bad causeBadrec (faultInfo l true 0) else s.recAddr c.crew bd l true (recOffset bd (c.val w.b 0 l) 0) n)

/-- The scoreboard ranges of an ACPY: its destinations (R109, R115). -/
def State.acpyRanges (s : State) (c : Ctx) (w : Body) (act : Word) : List (Nat × Range) :=
  (lanesOf act).foldl (fun l x =>
    match (s.acpyLane c w x).2 with
    | .virt va => addRange l (c.crew.core, .virt c.crew.part (va / 64 * 64) (roundUp (va + memSize w.ty) 64))
    | .chip p => addRange l (s.placeRange p (memSize w.ty))
    | _ => l) []

end Sys2Proof.Machine
end

