-- ==== Sys2Proof/Machine/Hold.lean ====
section
/-!
DEFINITION. What keeps a word from issuing (R320, R78, R115, R120, R134, R240, R248, R252 to R254, R264) and the prologue that every instruction word shares.

The same test decides which entities are ready at an issue opportunity (R345).
-/

namespace Sys2Proof.Machine

/-- A machine step's answer. -/
abbrev Out := Host.Outcome State Fault Refusal

/-! ### Operand-buffer reservations (R128, R129) -/

/-- The record of a handle that the crew holds. -/
def Crew.resv? (c : Crew) (h : Nat) : Option (BitVec 64) := (c.resv.find? (fun r => r.1 == h)).map (·.2)

def resvOff (r : BitVec 64) : Nat := (r.extractLsb' 0 8).toNat
def resvLen (r : BitVec 64) : Nat := (r.extractLsb' 8 8).toNat
def resvFmt (r : BitVec 64) : Nat := (r.extractLsb' 16 5).toNat
def resvMxb (r : BitVec 64) : Bool := r.getLsbD 21
def resvSoff (r : BitVec 64) : Nat := (r.extractLsb' 22 14).toNat
def resvBoff (r : BitVec 64) : Nat := (r.extractLsb' 36 14).toNat
def resvBen (r : BitVec 64) : Bool := r.getLsbD 50
def resvChunk (r : BitVec 64) : Nat := (r.extractLsb' 51 2).toNat
def resvSwen (r : BitVec 64) : Bool := r.getLsbD 53
def resvSwsrc (r : BitVec 64) : Nat := (r.extractLsb' 54 6).toNat

/-- Bytes of a reservation. -/
def resvBytes (r : BitVec 64) : Nat := 1024 * (resvLen r + 1)

/-- The offset in the crew's allocation of a logical offset of a reservation (R265). -/
def resvAddr (r : BitVec 64) (o : Nat) : Nat :=
  1024 * resvOff r + (if resvSwen r then swizzle o (resvChunk r) (resvSwsrc r) else o)

/-- Bytes of m × n elements in the accumulator. -/
def tileBytes (m n : Nat) : Nat := 4 * m * n

/-- The address of a lane of OBST, OBLD, AMLD or AMST (R265, R271). -/
def Ctx.matAddr (c : Ctx) (o : Op) (w : Body) (l : Nat) : LaneAddr :=
  let n := memSize w.ty
  match o with
  | .obst | .obld =>
    let wr := o == .obst
    let off := c.val w.b 0 l
    match c.crew.resv? (c.val w.a 0 l) with
    | none => .drop
    | some r =>
      if !swizzleOk (resvSwen r) (resvChunk r) (resvSwsrc r) then .bad causeBadrec (faultInfo l wr 0)
      else if off % n ≠ 0 then .bad causeAlign (faultInfo l wr off)
      else if resvBytes r < off + n then .bad causeBounds (faultInfo l wr off)
      else .chip (.mem (opbufKey c.crew.uid (resvAddr r off)))
  | _ =>
    let wr := o == .amst
    let off := c.val w.a 0 l
    if off % n ≠ 0 then .bad causeAlign (faultInfo l wr off)
    else if 4096 * c.crew.accN < off + n then .bad causeBounds (faultInfo l wr off)
    else .chip (.mem (accKey c.crew.uid off))

/-! ### Formats of MMA (R125, R129, R131) -/

def wdWoff (d : Word) : Nat := (d.extractLsb' 0 16).toNat
def wdBmo (d : Word) : Nat := (d.extractLsb' 16 16).toNat
def wdSo (d : Word) : Nat := (d.extractLsb' 32 16).toNat
def wdFmt (d : Word) : Nat := (d.extractLsb' 48 5).toNat
def wdCmp (d : Word) : Bool := d.getLsbD 53

/-- Is an EFMT code an A format (R125)? -/
def aFormat (f : Nat) : Bool := [0, 5, 6, 7, 8, 9, 10, 11].contains f

/-- Block formats: MXFP8 and KQ4. -/
def efmtBlock (f : Nat) : Bool := decide (9 ≤ f) && decide (f ≤ 11)

/-- Does MXB fit FMT, and is FMT an A format (R129)? -/
def resvFits (r : BitVec 64) : Bool := aFormat (resvFmt r) && resvMxb r == efmtBlock (resvFmt r)

/-- The operand pairs (R125). -/
def mmaPair (a b : Nat) : Bool :=
  ((a == 7 || a == 8) && (b == 7 || b == 8)) || ((a == 9 || a == 10) && (b == 9 || b == 10)) ||
  (a == b && (a == 0 || a == 5 || a == 6 || a == 11)) || (a == 9 && b == 11)

/-- The EFMT code that TYPE2 names for a register-sourced A (R267). -/
def regFmt (ty2 : Nat) : Nat :=
  match ty2 with
  | 1 => 7
  | 2 => 8
  | 3 => 0
  | 4 => 5
  | _ => 6

/-- The number of contributors of an MMA (R133). -/
def Ctx.gangSize (c : Ctx) : Nat := if c.g.gang = [] then 1 else c.g.gang.length

/-- The run-time misuses of MMA and MMAS (R262, R268), with FIELD. -/
def Ctx.mmaMisuse (c : Ctx) (w : Body) (sparse : Bool) : Option Nat :=
  let wd := BitVec.ofNat 64 (c.val w.b 0 0)
  let wg := c.crew.width * c.gangSize
  let sel := if sparse ∧ wg < 8 * w.ssel + w.tm / 2 then some 35 else none
  match w.a with
  | .v _ =>
    if !mmaPair (regFmt w.ty2) (wdFmt wd) then some 32
    else if 256 < w.tk then some 19
    else if wg < w.tm then some 30
    else sel
  | _ =>
    match c.crew.resv? (c.val w.a 0 0) with
    | none => some 63
    | some r => if resvFits r && !mmaPair (resvFmt r) (wdFmt wd) then some 63 else sel

/-! ### Interlocks -/

/-- The registers that an outstanding word writes. -/
def MemWord.dstKeys (m : MemWord) : List Nat :=
  match m.dst with
  | .v r pair => if pair then [vKey r, vKey (r + 1)] else [vKey r]
  | .s r => [sKey r]
  | .p r => [pKey r]
  | .none => []

/-- Registers whose interlocked result has not been written: loads other than LDS, QRDs, and results that wait behind an earlier one (R320, R321). -/
def State.pendingKeys (s : State) (c : Ctx) : List Nat :=
  ((c.g.mws.filter (fun m => !m.lds)).map (·.dstKeys)).flatten ++
  ((s.core c.crew.core).beryl.filter (fun b => b.crew == c.crew.uid && b.grp == c.m.grp)).flatMap (fun b => match b.op with
    | .rd dst _ _ _ _ => [vKey dst]
    | _ => []) ++
  (c.g.pend.filter (·.lock)).flatMap (·.regs)

/-- The destinations of words that the operand log holds (R240). -/
def Ctx.heldKeys (c : Ctx) : List Nat := (c.g.mws.filter (fun m => !m.lds && m.held)).flatMap (·.dstKeys)

/-- The destination of the word in which another split of the group waits. -/
def Ent.waitKeys (e : Ent) : List Nat :=
  if (e.wait.map Wait.inWord).getD false then
    match e.code[e.pos]? with
    | some code => match decode code with
      | .ok i => (instrUses i).writes
      | .error _ => []
    | none => []
  else []

/-- Does an accepted operation read the reservation of a handle: as the A operand of an MMA (R128)? -/
def MatOp.readsHandle (x : MatOp) (h : Nat) : Bool :=
  match x.op with
  | .mma _ => x.handles.contains h
  | _ => false

/-- The registers that a group's arrivals at the rendezvous latch will have read. -/
def Ctx.rdvReads (c : Ctx) : List Nat :=
  (c.crew.rdv.filter (fun a => a.grp == c.m.grp)).flatMap (fun a =>
    ({ (default : MatOp) with crew := c.m.crew, members := [(c.m.grp, 0)], op := .mma a.item } : MatOp).readsOf c.m.crew c.m.grp)

/-- The registers that operations read to which the group contributes, accepted or at the rendezvous latch: crew, group and register (R134, R139). -/
def State.contribReads (s : State) (c : Ctx) : List (Nat × Nat × Nat) :=
  let ops := ((s.core c.crew.core).matrix.filter (fun x => x.crew == c.m.crew && x.members.any (fun m => m.1 == c.m.grp))) ++
    (c.crew.rdv.filter (fun a => a.grp == c.m.grp)).map (fun a => { (default : MatOp) with crew := c.m.crew, members := a.gang.map (fun i => (i, 0)), op := .mma a.item })
  ops.flatMap (fun x => x.members.flatMap (fun m => (x.readsOf x.crew m.1).map (fun r => (x.crew, m.1, r))))

/-- Does a word store through the on-chip map to a register that such an operation has still to read (R134, R139)? -/
def State.storesOperand (s : State) (c : Ctx) (o : Op) (w : Body) (act : Word) : Bool :=
  let dests : List LaneAddr := match o with
    | .st | .stX | .sst | .atom | .incb | .celladd | .cellclr => (s.laneAddrs c o w act).map (·.2)
    | .acpy => (lanesOf act).map (fun l => (s.acpyLane c w l).2)
    | _ => []
  dests.any (fun a => match a with
    | .chip (.vreg u g r _ _) => (s.contribReads c).contains (u, g, r)
    | _ => false)

/-- Words of the classes that fences delay and that the operand log holds back (R240, R248): those of classes 0x18 to 0x1E but for fences and pure waits. -/
def memClass (o : Op) : Bool :=
  let cls := (opSpec o).cls
  decide (24 ≤ cls) && decide (cls ≤ 30) &&
    (match o with
     | .fence | .codefence | .rfence | .opfence | .mwait | .waita | .bar => false
     | _ => true)

/-- Engine operations that name a ticket (R263). -/
def engineOp (o : Op) : Bool :=
  match o with
  | .mma | .mmas | .wbld | .amzero | .amcvt => true
  | _ => false

/-- The ticket that DST or SRCA names. -/
def ticketOf (o : Opnd) : Nat :=
  match o with
  | .k n => n.toNat
  | _ => 0

/-- A ticket of a group. -/
def Group.ticket (g : Group) (k : Nat) : Ticket := g.k[k]?.getD .idle

/-- The source of a WBLD: a scratch offset or an on-chip address (R266). -/
def Ctx.wbldSide (s : State) (c : Ctx) (w : Body) : Side :=
  let src := c.val w.b 0 0
  if w.sub = 0 then .scratch c.m.crew src else .onchip (s.ownersAt c.crew src) src

/-- The ranges of a WBLD's source. -/
def Ctx.wbldRanges (s : State) (c : Ctx) (w : Body) : List (Nat × Range) := s.sideRanges c.crew (c.wbldSide s w) (c.val w.c 0 0)

/-- The accesses of a QSAVE or QLOAD: 33 units of 16 bytes of scratch (R144, R283). -/
def imageAccs (uid off : Nat) : List Acc :=
  (List.range 33).map (fun i => ⟨i, 0, false, 16, 0, 0, some (.mem (scratchKey uid (off + 16 * i))), true, 0, false, false, 0⟩)

/-- The loads of a QLOAD as a word of the group, at its place in program order (R80). -/
def qloadWord (c : Ctx) (seq off : Nat) : MemWord :=
  { seq := seq, ent := c.m.ent, st := c.st, pos := c.pos, op := .load false, dst := .none, order := 0, scope := 0, cnt := none, lds := false, clob := []
    lanes := 0, zero := [], accs := imageAccs c.m.crew off, stat := .ready, blank := false }

/-- A SPAWN or an XRED in the operand log: a record or a list that it reads waits for a verdict (R240, R364). -/
def logWord (c : Ctx) (seq : Nat) (op : MemOp) (dst : MDst) (addr size token : Nat) : MemWord :=
  { seq := seq, ent := c.m.ent, st := c.st, pos := c.pos, op := op, dst := dst, order := 0, scope := 0, cnt := none, lds := false, clob := []
    lanes := c.lanes, zero := [], accs := [⟨0, addr, true, size, 0, 0, none, false, 0, false, false, 0⟩], stat := .asked token, blank := false }

/-- May the loads of a QLOAD perform: it checks its image before it issues (R144). -/
def Ctx.qloadReady (c : Ctx) (seq off : Nat) : Bool :=
  let m := qloadWord c seq off
  !c.g.orderedAfter m && m.accs.all (fun a => !c.g.blankBefore m a && !c.g.sameLoc m a)

/-- Has an access of the group to a barrier's bytes, of words that satisfy a test, not performed or drained (R69)? -/
def Group.scratchMet (g : Group) (uid off : Nat) (p : MemOp → Bool) : Bool :=
  g.mws.any (fun m => p m.op && m.accs.any (fun a => !a.done && (match a.place with
    | some q => q.overlap a.size (.mem (scratchKey uid off)) 16
    | none => false)))

/-- Does an earlier acquire or arm of the group keep a later read (R72, R121)? -/
def Group.readBarred (g : Group) : Bool :=
  g.acquireLeft || g.mws.any (fun m => !m.allDone && (match m.op with
    | .arm _ _ disarm => !disarm
    | _ => false))

/-- Words whose lanes a join delays: all that access memory or the crew's on-chip windows (R75). -/
def joinClass (o : Op) : Bool :=
  memClass o || (match o with
    | .qsave | .qload | .obst | .obld | .amld | .amst => true
    | _ => false)

/-- Does an earlier load of a lane that has joined others still wait (R75)? -/
def Ctx.joinWaits (c : Ctx) : Bool :=
  c.g.mws.any (fun m => m.op.reads && !m.allDone && decide (m.seq < c.ent.join) && (m.lanes &&& c.ent.lanes) != 0)

/-- Has a lane an access to its crew's scratch that has not performed or drained (R183)? -/
def Ctx.scratchLeft (c : Ctx) (l : Nat) : Bool :=
  c.g.mws.any (fun m => m.accs.any (fun a => !a.done && a.lane == l && (match a.place with
    | some (.mem k) => k % 8 == 4
    | _ => false)))

/-- The place of a spilled entry of a lane: entry j lies in the area at the top of the crew's scratch (R45). -/
def spillKey (c : Crew) (grp lane j : Nat) : Nat :=
  let lanes := c.groups.length * c.width
  scratchKey c.uid (1024 * c.scrKiB - 4 * c.depth * lanes + 4 * (j * lanes + grp * c.width + lane))

/-- Does a word spill or refill an entry of a lane's return stack (R183)? -/
def Lane.moves (l : Lane) (o : Op) : Bool :=
  match o with
  | .call | .callx => decide (16 ≤ l.stack.length)
  | .ret => decide (l.spilled ≠ 0)
  | _ => false

/-- The entry of a lane's return stack that CALL spills or RET refills, as a place in the crew's scratch (R45, R183). -/
def Ctx.spillAt (c : Ctx) (o : Op) (l : Nat) : LaneAddr :=
  let n := (c.g.lane l).spilled
  .chip (.mem (spillKey c.crew c.m.grp l (if o == .ret then n - 1 else n)))

/-- Does a fence in force keep the spill or the refill of an entry (R74)? -/
def Group.fencesMove (g : Group) (o : Op) : Bool := g.fences.any (fun f => f.kind == .acq || f.kind == .full || (f.kind == .rel && o != .ret))

/-- Is a copy in flight to a place's bytes (R78)? -/
def copyTo (sb : List Range) (k n : Nat) : Bool := sb.any (fun r => r.hitsPlace (.mem k) n)

/-- The waits of engine operations that PREEMPT abandons: busy tickets, OPFENCE, and the scoreboard over what they read or write (R53, R78). -/
def State.longEngine (s : State) (c : Ctx) (o : Op) (w : Body) : Bool :=
  let sb := s.scoreboard c.crew.core
  let resv := fun (o : Opnd) => match o with
    | .s n => (c.crew.resv? (c.g.getS n.toNat).toNat).any (fun r => copyTo sb (opbufKey c.m.crew (1024 * resvOff r)) (resvBytes r))
    | _ => false
  let tile := copyTo sb (accKey c.m.crew (4096 * w.tile)) (tileBytes w.tm w.tn)
  c.g.ticket (ticketOf w.dst) == .busy ||
  (match o with
   | .mma | .mmas => c.g.fences.any (fun f => f.kind == .oper) || tile || resv w.a
   | .amzero => tile
   | .amcvt => tile || resv w.a
   | .wbld => sb.any (fun r => (c.wbldRanges s w).any (fun x => r.meets x.2))
   | _ => false)

/-- The waits of single words that PREEMPT abandons: those that R53 lists. -/
def State.longWord (s : State) (c : Ctx) (o : Op) (w : Body) (act : Word) : Bool :=
  let sb := s.scoreboard c.crew.core
  let mat := (s.core c.crew.core).matrix
  if act = 0 ∧ (opSpec o).cls ≠ 32 then false
  else
    (memClass o && (!c.g.fences.isEmpty || c.g.logFull)) ||
    (match o with
     | .ld | .st | .lds | .atom | .incb | .celladd | .cellrd | .cellclr | .ldX | .stX | .sld | .sst | .recld | .monitor =>
       (s.laneAddrs c o w act).any (fun a => covered sb c.crew.part a.2 (opSize o w) || kickCovers c.crew c.m.grp a.2 (opSize o w)) ||
       (match o, w.b with
        | .lds, .a n => c.g.getA n.toNat == 1023
        | _, _ => false)
     | .rrel =>
       let n := c.uval w w.a
       decide (n < c.g.nblk) && ((List.range (c.g.nblk - n)).any (fun b => sb.any (fun r => r.hitsPlace (.vreg c.m.crew c.m.grp (16 * (n + b)) 0 0) 8)))
     | .mwait => c.g.armsLeft
     | .tbinit | .tbexpect | .tbarrive | .tbtest => kickCovers c.crew c.m.grp (.chip (.mem (scratchKey c.m.crew (c.uval w w.a)))) 16
     | .tbwait => c.g.scratchMet c.m.crew (c.uval w w.a) MemOp.writes || c.g.readBarred || kickCovers c.crew c.m.grp (.chip (.mem (scratchKey c.m.crew (c.uval w w.a)))) 16
     | .call | .callx | .ret => (lanesOf act).any (fun l => (c.g.lane l).moves o && (c.g.fencesMove o || kickCovers c.crew c.m.grp (c.spillAt o l) 4))
     | .ckick => decide (16 ≤ c.crew.kicks.length)
     | .acpy => decide (128 ≤ (s.core c.crew.core).copies.length) || (s.acpyRanges c w act).any (fun r => decide (128 ≤ s.sbCount r.1))
     | .qsave | .qload =>
       let off := match o with
         | .qsave => c.uval w w.b
         | _ => c.uval w w.a
       copyTo sb (scratchKey c.m.crew off) 528 || kickCovers c.crew c.m.grp (.chip (.mem (scratchKey c.m.crew off))) 528
     | .xred => decide (64 ≤ s.xreds.length)
     | .obrel => mat.any (fun x => x.crew == c.m.crew && x.readsHandle (c.uval w w.a))
     | .obst | .obld | .amld | .amst =>
       (lanesOf c.ent.lanes).any (fun l => covered sb c.crew.part (c.matAddr o w l) (memSize w.ty))
     | .rgath =>
       (match w.a with
        | .v a => (List.range c.g.nblk).any (fun b => decide (a.toNat / 16 ≤ b) && sb.any (fun r => r.hitsPlace (.vreg c.m.crew c.m.grp (16 * b) 0 0) 8))
        | _ => false)
     | _ => false) ||
    (engineOp o && act != 0 && s.longEngine c o w)

/-- The other conditions of single words: joined lanes, acquires and releases, the group's own accesses before the word, operands of the array, and descriptors at the map
point (R72, R75, R84, R134, R144, R183, R191, R320). -/
def State.shortWord (s : State) (c : Ctx) (o : Op) (w : Body) (act : Word) : Bool :=
  let mat := (s.core c.crew.core).matrix
  if act = 0 ∧ (opSpec o).cls ≠ 32 then false
  else
    (joinClass o && c.joinWaits) ||
    (match o with
     | .monitor => w.fm.subm == 2 && c.g.armsLeft
     | .srd | .swr =>
       (w.a == .sys .flags || w.dst == .sys .flags) && c.g.mws.any (fun m => match m.op with
         | .cellAdd | .cellRd _ => (m.lanes &&& act) != 0
         | _ => false)
     | .rrel =>
       let lo := 16 * c.uval w w.a
       decide (c.uval w w.a < c.g.nblk) &&
       (c.g.mws.any (fun m => m.lds && m.dstKeys.any (fun r => decide (lo ≤ r) && decide (r < 256))) ||
        mat.any (fun x => (x.readsOf c.m.crew c.m.grp).any (fun r => decide (lo ≤ r))) || c.rdvReads.any (fun r => decide (lo ≤ r)))
     | .tbinit => c.g.scratchMet c.m.crew (c.uval w w.a) (fun _ => true) || c.g.acquireLeft
     | .tbtest => c.g.scratchMet c.m.crew (c.uval w w.a) MemOp.writes || c.g.readBarred
     | .tbexpect | .tbarrive => !(s.releaseReady c.crew c.m.grp c.g s.nextSeq 1)
     | .qload => !c.qloadReady s.nextSeq (c.uval w w.a)
     | .xred => !(s.releaseReady c.crew c.m.grp c.g s.nextSeq 4)
     | .brc | .call | .callx => (lanesOf act).any (fun l => s.descWaits c.crew (c.g.lane l).occ.toNat)
     | _ => false) ||
    (lanesOf act).any (fun l => (c.g.lane l).moves o && (c.scratchLeft l || (if o == .ret then c.g.readBarred else c.g.acquireLeft))) ||
    s.storesOperand c o w act ||
    (engineOp o && act != 0 && c.g.mws.any (fun m => m.op == .store && m.accs.any (fun a => !a.done && (match a.place with
      | some (.mem k) => k % 8 == 6
      | _ => false))))

/-- The lanes for which a word executes: those of its slot whose guard is 1, and all the entity's for the entity-level words of class 0x20 (R30, R136, R262). -/
def Ctx.execLanes (c : Ctx) (i : Instr) : Word :=
  if (i.word?.map (fun p => (opSpec p.1).cls)) = some 32 then c.ent.lanes else c.active (instrHdr i) (instrUses i).width

/-- The registers that a word would read or write; its guard is read in every lane of its slot (R318, R320). -/
def Ctx.regsOf (c : Ctx) (i : Instr) : List Nat :=
  if c.execLanes i ≠ 0 then (instrUses i).reads ++ (instrUses i).writes else if c.lanes ≠ 0 then guardKeys (instrHdr i) else []

/-- Does the word wait before it issues in a way that PREEMPT abandons: for a copy in flight, a full resource, a fence or the destination of a held word (R53)? -/
def State.longHeld (s : State) (c : Ctx) (i : Instr) : Bool :=
  let regs := c.regsOf i
  c.heldKeys.any (fun r => regs.contains r) ||
  coveredRegs (s.scoreboard c.crew.core) c.m.crew c.m.grp (regs.filter (fun r => decide (r < 256))) ||
  (match i.word? with
   | some (o, w) => s.longWord c o w (c.execLanes i) || ((w.a == .sys .flags || w.dst == .sys .flags) && c.g.mws.any (fun m => m.held && (match m.op with
       | .cellAdd | .cellRd _ => (m.lanes &&& c.execLanes i) != 0
       | _ => false)))
   | none => false)

/-- Does the word wait before it issues in a way that ends by itself: for the result of a load or a QRD, or for what the group or the array has still to do? -/
def State.shortHeld (s : State) (c : Ctx) (i : Instr) : Bool :=
  let regs := c.regsOf i
  let ws := if c.execLanes i ≠ 0 then (instrUses i).writes else []
  (s.pendingKeys c).any (fun r => regs.contains r) ||
  (c.g.ents.filter (fun e => e.idx != c.m.ent)).any (fun e => e.waitKeys.any (fun r => regs.contains r)) ||
  (s.core c.crew.core).matrix.any (fun x => (x.readsOf c.m.crew c.m.grp).any (fun r => ws.contains r)) ||
  c.rdvReads.any (fun r => ws.contains r) ||
  (match i.word? with
   | some (o, w) => s.shortWord c o w (c.execLanes i)
   | none => false)

/-- Does the word wait before it issues? -/
def State.heldBy (s : State) (c : Ctx) (i : Instr) : Bool := s.longHeld c i || s.shortHeld c i

/-! ### Early reads (R324) -/

/-- A write that has not landed, as an early reader may see it: each sub-element, and each bit of a predicate, old or new. -/
def mixWrite (free : Nat → Word) (wd : Nat → Nat) (n : Nat) (w : RegW) : RegW :=
  match w with
  | .v r l m x =>
    let f := free (r * 64 + l + n * 65536)
    .v r l (m &&& maskOf ((List.range 64).filter (fun b => f.getLsbD (b / wd (vKey r))))) x
  | .p r l m x => .p r l (m &&& (free (r * 64 + l + n * 65536 + 32768)).setWidth 8) x
  | .s r x => .s r x

/-- An S register that has not landed, old or new per sub-element. -/
def mixS (free : Nat → Word) (wd : Nat → Nat) (n : Nat) (g : Group) (w : RegW) : Group :=
  match w with
  | .s r x =>
    let f := free (r + n * 65536 + 49152)
    let keep := maskOf ((List.range 64).filter (fun b => f.getLsbD (b / wd (sKey r))))
    g.setS r ((g.getS r &&& ~~~keep) ||| (x &&& keep))
  | w => g.apply (mixWrite free wd n w)

/-- The group as a word reads it: every result on its way either seen or not, for each sub-element. -/
def Group.early (g : Group) (free : Nat → Word) (wd : Nat → Nat) : Group :=
  (g.pend.mapIdx (fun i p => (i, p))).foldl (fun g e => e.2.ws.foldl (fun g w => mixS free wd e.1 g w) g) g

/-- The group at the issue of a word: results that are due have landed, and the others may or may not be seen. -/
def State.view (s : State) (c : Ctx) (i : Instr) : Ctx :=
  let g := c.g.land c.cyc
  if g.pend = [] then { c with g := g } else { c with g := g.early s.freeWord (readWidth i) }

/-! ### The checking scoreboard (R325) -/

/-- The slot of the word at an offset of the entity's state. -/
def Ent.slotAt (e : Ent) (pos : Nat) : Option (BitVec 3) :=
  (e.code[pos]?).bind (fun x => match decode x with
    | .ok i => some (instrHdr i).slot
    | .error _ => none)

/-- Does a word that reads a register conflict with the producer of a result: for an S register, of the same entity with an equal slot or slot 7;
for others, in a lane of both, where the guard is read in every lane of the slot (R323, R325)? -/
def Pend.conflicts (p : Pend) (c : Ctx) (h : Hdr) (act : Word) (r : Nat) : Bool :=
  p.regs.contains r && !p.lock && decide (c.cyc < p.due) &&
  (if sKey 0 ≤ r ∧ r < pKey 0 then
    (p.lanes &&& c.ent.lanes) != 0 && (h.slot == 7 || ((c.ent.slotAt p.pos).map (fun x => x == 7 || x == h.slot)).getD true)
   else (p.lanes &&& (if (guardKeys h).contains r then c.lanes else act)) != 0)

/-- TRAPINFO of a STALLCHK, if the word executes for a lane and reads a result early (R325). -/
def stallInfo (c : Ctx) (pend : List Pend) (h : Hdr) (u : Uses) (act : Word) : Option Word :=
  (if act = 0 then guardKeys h else u.reads).findSome? (fun r =>
    (pend.reverse.find? (fun p => p.conflicts c h act r)).map (fun p =>
      BitVec.ofNat 64 (c.st + c.pos * 2 ^ 16 + r * 2 ^ 32 + ((p.due - c.cyc) % 32) * 2 ^ 41 + p.pos * 2 ^ 46)))

/-! ### The prologue of every word -/

/-- Lanes that have executed CALL, CALLX or RET in this state may write no next block any more (R182). -/
def Ctx.calledLane (c : Ctx) (act : Word) : Bool := (lanesOf act).any (fun l => (c.g.lane l).called)

/-- Run-time misuses that take precedence over REGBLOCK (R173, R239): those of words that name V registers and do not depend on their content. -/
def Ctx.preMisuse (c : Ctx) (i : Instr) (act : Word) : Option Nat :=
  if act = 0 then none
  else match i with
  | .brc _ | .brx _ | .callx _ => if c.calledLane act then some 63 else none
  | .mma w => c.mmaMisuse w false
  | .mmas w => c.mmaMisuse w true
  | .obst w | .obld w => if (c.crew.resv? (c.val w.a 0 0)).isNone then some 63 else none
  | _ => none

/-- TRAPINFO of REGBLOCK (R199). -/
def regblockInfo (st pos reg lane : Nat) : Word :=
  BitVec.ofNat 64 (st + pos * 2 ^ 16 + (if 255 < reg then 0x1FF else reg) * 2 ^ 32 + lane * 2 ^ 41)

/-- TRAPINFO of ILLEGAL (R173). -/
def illegalInfo (st pos why field : Nat) : Word := BitVec.ofNat 64 (st + pos * 2 ^ 16 + why * 2 ^ 32 + field * 2 ^ 36)

/-- The first V register of a list that lies in a block the group does not hold (R21). -/
def unheld (g : Group) (l : List Nat) : Option Nat := l.find? (fun v => decide (g.nblk ≤ v / 16))

/-- A word raises a trap and has no effect. -/
def State.trapWord (s : State) (c : Ctx) (cause : BitVec 8) (info : Word) : Out := .next (s.raise c.m cause info)

/-- A run-time misuse that an entry names: ILLEGAL with WHY 7 (R179, R237). -/
def State.misuse (s : State) (c : Ctx) (field : Nat) : Out := s.trapWord c causeIllegal (illegalInfo c.st c.pos 7 field)

/-- The word of an entity is issued in full: the next word follows after its STALL count (R160, R161). -/
def State.issued (s : State) (c : Ctx) (h : Hdr) : State :=
  (s.modGroup c.m.crew c.m.grp (fun g =>
    { g.modEnt c.m.ent (fun e => { e with pos := e.pos + 1, readyAt := c.cyc + 1 + h.stall.toNat, yh := h.yh, wait := none, issued := c.cyc + 1 }) with
      issued := c.cyc + 1 })).deliver c.m.crew c.m.grp

/-- The word of an entity begins to wait; its STALL count runs from its issue. -/
def State.waits (s : State) (c : Ctx) (h : Hdr) (w : Wait) : State :=
  (s.modEnt c.m (fun e => { e with readyAt := c.cyc + 1 + h.stall.toNat, yh := h.yh, issued := c.cyc + 1 })).setWait c.m w

/-- A word waits before it issues: under PREEMPT it abandons a wait of R53's list. -/
def State.holdWord (s : State) (c : Ctx) (i : Instr) : State :=
  if s.longHeld c i && s.preempting c.m.crew c.m.grp && c.m.ent != handlerIdx then s.abandon c.m else s.setWait c.m .held

/-- What every instruction word does first: it finds its entity, checks the blocks of its V registers, waits while it is held,
lands the results that are due, and on a checked crew traps an early read, before a misuse that rests on what it read (R12, R21, R318, R320, R325). -/
def State.begin (s : State) (i : Instr) (k : State → Ctx → Out) : Out :=
  match s.cur with
  | none => .refused .noIssuer
  | some cu =>
    let h := instrHdr i
    let u := instrUses i
    match s.ctxOf cu.m cu.cyc h.slot with
    | none => .refused .noIssuer
    | some c0 =>
      let c := s.view c0 i
      let act := c.execLanes i
      let s1 : State := { s with cur := none }
      let late := (c0.g.land cu.cyc).pend
      let stall := if c.crew.check then stallInfo c late h u act else none
      if (c.preMisuse i act).isSome ∧ stall.isNone then s1.misuse c ((c.preMisuse i act).getD 0)
      else if act ≠ 0 ∧ (unheld c.g u.vregs).isSome then
        s1.trapWord c causeRegblock (regblockInfo c.st c.pos ((unheld c.g u.vregs).getD 0) 0)
      else if s1.heldBy c i then .next (s1.holdWord c i)
      else
        let s2 := s1.modGroup c.m.crew c.m.grp (fun g => g.land cu.cyc)
        let s3 := if late = [] then s2 else s2.nextFree
        match stall with
        | some info => s3.trapWord c causeStallchk info
        | none => k s3 c

/-- The writes of a fixed-latency word are on their way, its flags are set, and the word is over (R318, R97). -/
def State.writeFixed (s : State) (c : Ctx) (h : Hdr) (lat wd : Nat) (lanes : Word) (ws : List RegW) (fl : List (Nat × BitVec 16)) : State :=
  ((s.modGroup c.m.crew c.m.grp (fun g =>
    let g1 := g.push c.cyc lat s.nextSeq c.st c.pos wd lanes ws
    fl.foldl (fun g f => if f.2 = 0 then g else g.setFlags f.1 f.2) g1)).issued c h)

/-- The writes of an interlocked word are made, and the word is over (R320). -/
def State.writeInterlocked (s : State) (c : Ctx) (h : Hdr) (ws : List RegW) : State :=
  (s.modGroup c.m.crew c.m.grp (fun g => g.writeNow ws)).issued c h

end Sys2Proof.Machine
end

