-- ==== Sys2Proof/Machine/Run.lean ====
section
/-!
DEFINITION. What surrounds an instruction: the word that an entity fetches, the passing of time, the agenda, and the group that a crew starts with (R16, R20, R30, R67).
-/

namespace Sys2Proof.Machine

/-- The word at an entity's place in its state's code (R30). -/
def State.fetched (s : State) (m : Member) : Option (Ent × Code) :=
  match s.ent? m with
  | some e => (e.code[e.pos]?).map (fun c => (e, c))
  | none => none

/-- The cycle count of the die on which an entity runs. -/
def State.cycOf (s : State) (m : Member) : Nat := s.cyc (((s.crew? m.crew).map (·.core)).getD 0)

/-- A word that is no instruction raises ILLEGAL (R173). -/
def State.illegalWord (s : State) (m : Member) (e : Ent) (d : Defect) : State :=
  s.raise m causeIllegal (illegalInfo e.st e.pos d.why d.field)

/-- Time passes: nanoseconds of CLOCK and cycles of the dies. -/
def State.tick (s : State) (e : Sched) : State :=
  { s with clock := s.clock + BitVec.ofNat 64 e.ns, cyc0 := s.cyc0 + e.c0, cyc1 := s.cyc1 + e.c1 }

/-- The step that comes next: the head of the agenda, or past its end an entry of the schedule (R67). -/
def State.nextSched (s : State) : Sched × State :=
  match s.agenda with
  | e :: t => (e, { s with agenda := t })
  | [] => (Config.schedule s.choices, { s with choices := s.choices + 1 })

/-- A lane at launch (R16, R20): live in the entry block, or never live. -/
def Lane.launch (live : Bool) (entry : Nat) : Lane :=
  ⟨if live then BitVec.ofNat 16 entry else 0xFFFF, live, if live then BitVec.ofNat 16 entry else 0xFFFF, false, false, 0, [], 0, 0, 0, false, false, 0, [], 0⟩

/-- A Beryl accumulator at launch (R16). -/
def QAcc.launch : QAcc := ⟨[], 0, 0, false, 0⟩

/-- A group at launch (R16, R20, R21): every register of a granted block zero, tickets idle, the live lanes in the home state of the entry block.
A group without a live lane has retired (R32). -/
def Group.launch (width rows nblk entry home idx readyAt : Nat) : Group :=
  let live := fun l => decide (idx * width + l < rows)
  let lanes := maskOf ((List.range width).filter live)
  { v := [], p := [], s := [], b := [], a := []
    q := List.replicate 4 QAcc.launch
    k := List.replicate 8 .idle
    gang := []
    prioW := none
    lanes := (List.range width).map (fun l => Lane.launch (live l) entry)
    nblk := if lanes = 0 then 0 else nblk
    ents := if lanes = 0 then [] else [⟨0, lanes, home, [], 0, readyAt, 0, 0, false, false, none, 0, false, 0, 0, 0, false, false⟩]
    deferred := [], parked := [], handler := none, traps := [], atVote := [], cause := 0, info := 0
    pend := [], mws := [], fences := [], heldFences := [], acq := [], relf := none, opf := 0, floors := [], monitors := [], latch := none
    recMark := 0, recMarks := [], turn := 0, issued := 0, preDone := false, preTaken := false
    retired := decide (lanes = 0) }

end Sys2Proof.Machine
end

