-- ==== Sys2Proof/Machine/Integer.lean ====
section
/-!
DEFINITION. Classes 0x04 to 0x0A: integer, logic, shift, bit-operation, compare, move and width words (R198 to R208).
-/

namespace Sys2Proof.Machine

/-! ### Executing per sub-element (R198) -/

/-- One lane's destination: the bits that are written, their value, and the lane's flags. -/
structure LaneRes where
  mask : Nat
  val  : Nat
  fl   : BitVec 16
  deriving DecidableEq, Repr, Inhabited

/-- The executing sub-elements of one lane. -/
def laneRes (wd : Nat) (ex : Nat → Bool) (f : Nat → Res) : LaneRes :=
  (subs wd).foldl (fun r s =>
    if ex s then
      let v := f s
      ⟨r.mask + (2 ^ wd - 1) * 2 ^ (wd * s), r.val + (v.1 % 2 ^ wd) * 2 ^ (wd * s), r.fl ||| v.2⟩
    else r) ⟨0, 0, 0⟩

/-- A word that computes one result per executing sub-element: lane-wise into a V register, or once for the group into an S register (R168, R198). -/
def elemWord (o : Op) (w : Body) (wd : Nat) (f : Ctx → Nat → Nat → Res) (s : State) : Out :=
  s.begin (o.mk w) (fun s c =>
    let act := c.active w.hdr (guardWidth o w)
    match w.dst with
    | .v d =>
      let r := (lanesOf act).map (fun l => (l, laneRes wd (c.exec w.hdr wd l) (f c l)))
      .next (s.writeFixed c w.hdr (latency o w) (guardWidth o w) act
        (r.map (fun e => RegW.v d.toNat e.1 (BitVec.ofNat 64 e.2.mask) (BitVec.ofNat 64 e.2.val))) (r.map (fun e => (e.1, e.2.fl))))
    | .s d =>
      if act = 0 then .next (s.issued c w.hdr)
      else
        let r := laneRes wd (fun _ => true) (f c 0)
        .next (s.writeFixed c w.hdr (latency o w) (guardWidth o w) act [RegW.s d.toNat (BitVec.ofNat 64 r.val)] ((lanesOf act).map (fun l => (l, r.fl))))
    | _ => .next (s.issued c w.hdr))

/-- The three sources of an integer word as 64-bit values, the immediate read at a width (R166). -/
def Ctx.iA (c : Ctx) (w : Body) (wd l : Nat) : Nat := c.val w.a (immInt wd w.uns w.imm) l
def Ctx.iB (c : Ctx) (w : Body) (wd l : Nat) : Nat := c.val w.b (immInt wd w.uns w.imm) l
def Ctx.iC (c : Ctx) (w : Body) (l : Nat) : Nat := c.val w.c 0 l

/-- An integer word whose result depends on the same sub-element of its sources. -/
def intWord (o : Op) (w : Body) (f : Nat → Nat → Nat → Nat → Res) (s : State) : Out :=
  let wd := intWidth w.ty
  elemWord o w wd (fun c l s => f wd (getSub wd s (c.iA w wd l)) (getSub wd s (c.iB w wd l)) (getSub wd s (c.iC w l))) s

/-! ### Add group (R200) -/

/-- IADD. -/
def execIadd (w : Body) (s : State) : Out := intWord .iadd w (fun wd a b _ => eAdd wd a b) s
/-- ISUB. -/
def execIsub (w : Body) (s : State) : Out := intWord .isub w (fun wd a b _ => eSub wd a b) s
/-- IADDS. -/
def execIadds (w : Body) (s : State) : Out := intWord .iadds w (fun wd a b _ => eAdds w.uns wd a b) s
/-- ISUBS. -/
def execIsubs (w : Body) (s : State) : Out := intWord .isubs w (fun wd a b _ => eSubs w.uns wd a b) s
/-- INEG. -/
def execIneg (w : Body) (s : State) : Out := intWord .ineg w (fun wd a _ _ => eNeg w.sat wd a) s
/-- IABS. -/
def execIabs (w : Body) (s : State) : Out := intWord .iabs w (fun wd a _ _ => eAbs w.sat wd a) s
/-- IMIN. -/
def execImin (w : Body) (s : State) : Out := intWord .imin w (fun wd a b _ => eMin w.uns wd a b) s
/-- IMAX. -/
def execImax (w : Body) (s : State) : Out := intWord .imax w (fun wd a b _ => eMax w.uns wd a b) s
/-- ICLAMP. -/
def execIclamp (w : Body) (s : State) : Out := intWord .iclamp w (fun wd a b c => eClamp w.uns wd a b c) s
/-- ISAD. -/
def execIsad (w : Body) (s : State) : Out := intWord .isad w (fun wd a b c => eSad w.uns wd a b c) s

/-! ### Multiply and divide (R201) -/

/-- IMUL. -/
def execImul (w : Body) (s : State) : Out := intWord .imul w (fun wd a b _ => eMul wd a b) s
/-- IMULH. -/
def execImulh (w : Body) (s : State) : Out := intWord .imulh w (fun wd a b _ => eMulh w.uns wd a b) s
/-- IMAD. -/
def execImad (w : Body) (s : State) : Out := intWord .imad w (fun wd a b c => eMad wd a b c) s
/-- IDIV. -/
def execIdiv (w : Body) (s : State) : Out := intWord .idiv w (fun wd a b _ => eDiv w.uns wd a b) s
/-- IREM. -/
def execIrem (w : Body) (s : State) : Out := intWord .irem w (fun wd a b _ => eRem w.uns wd a b) s

/-! ### Logic (R202) -/

/-- AND. -/
def execAnd (w : Body) (s : State) : Out := intWord .and w (fun _ a b _ => eAnd a b) s
/-- OR. -/
def execOr (w : Body) (s : State) : Out := intWord .or w (fun _ a b _ => eOr a b) s
/-- XOR. -/
def execXor (w : Body) (s : State) : Out := intWord .xor w (fun _ a b _ => eXor a b) s
/-- ANDN. -/
def execAndn (w : Body) (s : State) : Out := intWord .andn w (fun wd a b _ => eAndn wd a b) s
/-- NOT. -/
def execNot (w : Body) (s : State) : Out := intWord .not w (fun wd a _ _ => eNot wd a) s
/-- TERN. -/
def execTern (w : Body) (s : State) : Out := intWord .tern w (fun wd a b c => eTern w.imm8 wd a b c) s

/-! ### Shifts and rotates (R203) -/

/-- SHL. -/
def execShl (w : Body) (s : State) : Out := intWord .shl w (fun wd a b _ => eShl wd a b) s
/-- SHR. -/
def execShr (w : Body) (s : State) : Out := intWord .shr w (fun wd a b _ => eShr wd a b) s
/-- SAR. -/
def execSar (w : Body) (s : State) : Out := intWord .sar w (fun wd a b _ => eSar wd a b) s
/-- ROL. -/
def execRol (w : Body) (s : State) : Out := intWord .rol w (fun wd a b _ => eRol wd a b) s
/-- ROR. -/
def execRor (w : Body) (s : State) : Out := intWord .ror w (fun wd a b _ => eRor wd a b) s
/-- FSH. -/
def execFsh (w : Body) (s : State) : Out := intWord .fsh w (fun wd a b c => eFsh (w.sub == 1) wd a b c) s

/-! ### Bit operations (R204, R205) -/

/-- POPC. -/
def execPopc (w : Body) (s : State) : Out := intWord .popc w (fun wd a _ _ => ePopc wd a) s
/-- CLZ. -/
def execClz (w : Body) (s : State) : Out := intWord .clz w (fun wd a _ _ => eClz wd a) s
/-- CTZ. -/
def execCtz (w : Body) (s : State) : Out := intWord .ctz w (fun wd a _ _ => eCtz wd a) s
/-- BREV. -/
def execBrev (w : Body) (s : State) : Out := intWord .brev w (fun wd a _ _ => eBrev wd a) s

/-- BFE: the control is the whole register of the lane. -/
def execBfe (w : Body) (s : State) : Out :=
  let wd := intWidth w.ty
  elemWord .bfe w wd (fun c l s => eBfe w.uns wd (getSub wd s (c.iA w wd l)) (c.iB w wd l)) s

/-- BFI: the control is the whole register of the lane. -/
def execBfi (w : Body) (s : State) : Out :=
  let wd := intWidth w.ty
  elemWord .bfi w wd (fun c l s => eBfi wd (getSub wd s (c.iA w wd l)) (getSub wd s (c.iB w wd l)) (c.iC w l)) s

/-! ### Compare, select and move (R206, R207) -/

/-- A compare into a predicate: the truth goes to every bit of the sub-element (R18). -/
def cmpWord (o : Op) (w : Body) (wd : Nat) (f : Ctx → Nat → Nat → Bool × BitVec 16) (s : State) : Out :=
  s.begin (o.mk w) (fun s c =>
    let act := c.active w.hdr wd
    match w.dst with
    | .p d =>
      let r := (lanesOf act).map (fun l =>
        (subs wd).foldl (fun (r : Nat × Nat × Nat × BitVec 16) s =>
          if c.exec w.hdr wd l s then
            let v := f c l s
            let m := (2 ^ (wd / 8) - 1) * 2 ^ (wd / 8 * s)
            (r.1, r.2.1 + m, r.2.2.1 + (if v.1 then m else 0), r.2.2.2 ||| v.2)
          else r) (l, 0, 0, 0))
      .next (s.writeFixed c w.hdr (latency o w) (guardWidth o w) act
        (r.map (fun e => RegW.p d.toNat e.1 (BitVec.ofNat 8 e.2.1) (BitVec.ofNat 8 e.2.2.1))) (r.map (fun e => (e.1, e.2.2.2))))
    | _ => .next (s.issued c w.hdr))

/-- ICMP. -/
def execIcmp (w : Body) (s : State) : Out :=
  let wd := intWidth w.ty
  cmpWord .icmp w wd (fun c l s => (eCmp w.sub w.uns wd (getSub wd s (c.iA w wd l)) (getSub wd s (c.iB w wd l)), 0)) s

/-- SEL. -/
def execSel (w : Body) (s : State) : Out :=
  let wd := intWidth w.ty
  elemWord .sel w wd (fun c l s =>
    plain (if (c.val w.c 0 l).testBit (wd / 8 * s) then getSub wd s (c.iA w wd l) else getSub wd s (c.iB w wd l))) s

/-- MOV. -/
def execMov (w : Body) (s : State) : Out := intWord .mov w (fun _ a _ _ => plain a) s

/-- MOVI: the low or the high half becomes IMM32. -/
def execMovi (w : Body) (s : State) : Out :=
  elemWord .movi w 64 (fun c l _ =>
    let a := c.val w.a 0 l
    plain (if w.sub = 0 then a / 2 ^ 32 * 2 ^ 32 + w.imm.toNat else w.imm.toNat * 2 ^ 32 + a % 2 ^ 32)) s

/-! ### Width changes (R208) -/

/-- IEXT. -/
def execIext (w : Body) (s : State) : Out :=
  let wd := intWidth w.ty
  elemWord .iext w wd (fun c l s => eIext (w.sub == 1) w.uns wd (c.iA w (wd / 2) l) s) s

/-- INARROW. -/
def execInarrow (w : Body) (s : State) : Out :=
  let wd := intWidth w.ty
  elemWord .inarrow w wd (fun c l s => eInarrow w.sat w.uns wd (c.iA w (2 * wd) l) s) s

/-- PACK. -/
def execPack (w : Body) (s : State) : Out :=
  let wd := intWidth w.ty
  elemWord .pack w wd (fun c l s => ePack w.uns wd (c.iA w (2 * wd) l) (c.iB w (2 * wd) l) s) s

/-- UNPACK. -/
def execUnpack (w : Body) (s : State) : Out :=
  let wd := intWidth w.ty
  elemWord .unpack w wd (fun c l s => eUnpack (w.sub == 1) wd (c.iA w wd l) (c.iB w wd l) s) s

end Sys2Proof.Machine
end

