-- ==== Sys2Proof/Machine/Cross.lean ====
section
/-!
DEFINITION. Class 0x0C: words that move values between lanes (R209 to R213).
-/

namespace Sys2Proof.Machine

/-- Sub-element of V register Va at a position of the group, if its lane is held by the entity. -/
def Ctx.posVal (c : Ctx) (w : Body) (wd : Nat) (g : Int) : Option Nat :=
  let n := 64 / wd
  if 0 ≤ g ∧ g < c.crew.width * n then
    let l := g.toNat / n
    if c.ent.lanes.getLsbD l then some (getSub wd (g.toNat % n) (c.val w.a 0 l)) else none
  else none

/-- A word that reads one other position per executing position, or its own where that one cannot be read. -/
def moveWord (o : Op) (w : Body) (src : Ctx → Nat → Nat → Int) (s : State) : Out :=
  let wd := intWidth w.ty
  elemWord o w wd (fun c l s => plain ((c.posVal w wd (src c l s)).getD (getSub wd s (c.val w.a 0 l)))) s

/-- SHFL (R210). -/
def execShfl (w : Body) (s : State) : Out :=
  let wd := intWidth w.ty
  let n := 64 / wd
  let d := w.imm8 * n + w.ssel
  moveWord .shfl w (fun c l s =>
    let f := l * n + s
    match w.sub with
    | 0 => (getSub wd s (c.val w.b 0 l) : Int)
    | 1 => (f : Int) - d
    | 2 => (f : Int) + d
    | _ => ((f ^^^ d : Nat) : Int)) s

/-- BCAST (R210). -/
def execBcast (w : Body) (s : State) : Out :=
  moveWord .bcast w (fun _ _ _ => ((w.imm8 * (64 / intWidth w.ty) + w.ssel : Nat) : Int)) s

/-! ### Scans and reductions (R211) -/

/-- FMIN and FMAX of two encodings (R218): the flags and the result; a NaN operand gives the other, two NaNs the canonical NaN. -/
def minMaxF (f : Fmt) (max_ : Bool) (a b : Nat) : Res :=
  let x := numOf f a
  let y := numOf f b
  let fl := flagIf (isSNaN x || isSNaN y) fNV
  if isNaN x && isNaN y then (canonNaN f, fl)
  else if isNaN x then (b, fl)
  else if isNaN y then (a, fl)
  else
    let neg := fun (z : Nat) => z.testBit (fmtBits f - 1)
    match cmpNum x y with
    | .lt => (if max_ then b else a, fl)
    | .gt => (if max_ then a else b, fl)
    | .eq => (if max_ then (if neg a then b else a) else (if neg a then a else b), fl)

/-- The operator of a scan applied to a running value and the next. -/
def scanOp (w : Body) (wd a b : Nat) : Res :=
  let f := fmtOf w.ty2
  match w.sub with
  | 0 => eAdd wd a b
  | 1 => eMin w.uns wd a b
  | 2 => eMax w.uns wd a b
  | 3 => eAnd a b
  | 4 => eOr a b
  | 5 => eXor a b
  | 8 => roundTo f w.rm false (addNum w.rm (numOf f a) (numOf f b))
  | 9 => minMaxF f false a b
  | _ => minMaxF f true a b

/-- The identity of an operator. -/
def scanId (w : Body) (wd : Nat) : Nat :=
  let f := fmtOf w.ty2
  match w.sub with
  | 1 => wrap wd (hiOf w.uns wd)
  | 2 => wrap wd (loOf w.uns wd)
  | 3 => 2 ^ wd - 1
  | 8 => 2 ^ (wd - 1)
  | 9 => packInf f false
  | 10 => packInf f true
  | _ => 0

/-- P_1: the first value itself, but a NaN becomes canonical under a float operator. -/
def scanFirst (w : Body) (v : Nat) : Res :=
  let f := fmtOf w.ty2
  if 8 ≤ w.sub ∧ isNaN (numOf f v) then (canonNaN f, flagIf (isSNaN (numOf f v)) fNV) else plain v

/-- The prefixes P_0, P_1, … with the flags raised while forming each, accumulated. -/
def prefixes (w : Body) (wd : Nat) (vs : List Nat) : List Res :=
  match vs with
  | [] => [plain (scanId w wd)]
  | v :: rest =>
    let p1 := scanFirst w v
    (plain (scanId w wd)) :: (rest.foldl (fun (acc : Res × List Res) x =>
      let r := scanOp w wd acc.1.1 x
      let p := (r.1, acc.1.2 ||| r.2)
      (p, acc.2 ++ [p])) (p1, [p1])).2

/-- The executing lanes of a sub-element position, ascending. -/
def Ctx.scanLanes (c : Ctx) (w : Body) (wd s : Nat) : List Nat := (lanesOf c.lanes).filter (fun l => c.exec w.hdr wd l s)

/-- The prefixes of a sub-element position. -/
def Ctx.scanPref (c : Ctx) (w : Body) (wd s : Nat) : List Res :=
  prefixes w wd ((c.scanLanes w wd s).map (fun l => getSub wd s (c.val w.a 0 l)))

/-- LSCAN. -/
def execLscan (w : Body) (s : State) : Out :=
  let wd := intWidth w.ty
  elemWord .lscan w wd (fun c l s =>
    let k := ((c.scanLanes w wd s).filter (fun x => decide (x < l))).length
    ((c.scanPref w wd s)[k + (if w.imm8 % 2 = 1 then 0 else 1)]?).getD (plain 0)) s

/-- LRED. -/
def execLred (w : Body) (s : State) : Out :=
  let wd := intWidth w.ty
  elemWord .lred w wd (fun c _ s => ((c.scanPref w wd s).getLast?).getD (plain 0)) s

/-! ### RGATH (R212) and COMPACT (R213) -/

/-- RGATH: every executing position's register is checked before any lane writes; where several sub-elements of the lowest failing lane fail, REG names the lowest
one's (R212; DESIGN CHOICE, assumption 14). -/
def execRgath (w : Body) (s : State) : Out :=
  let wd := intWidth w.ty
  let base := match w.a with
    | .v n => n.toNat
    | _ => 0
  s.begin (.rgath w) (fun s c =>
    let act := c.active w.hdr wd
    let reg := fun l s => base + getSub wd s (c.val w.b 0 l)
    let bad := (lanesOf act).findSome? (fun l => ((subs wd).find? (fun s => c.exec w.hdr wd l s && (decide (255 < reg l s) || decide (c.g.nblk ≤ reg l s / 16)))).map (fun s => (l, reg l s)))
    match bad, w.dst with
    | some (l, r), _ => s.trapWord c causeRegblock (regblockInfo c.st c.pos r l)
    | none, .v d =>
      let r := (lanesOf act).map (fun l => (l, laneRes wd (c.exec w.hdr wd l) (fun s => plain (getSub wd s (c.g.getV (reg l s) l).toNat))))
      .next (s.writeFixed c w.hdr (latency .rgath w) wd act
        (r.map (fun e => RegW.v d.toNat e.1 (BitVec.ofNat 64 e.2.mask) (BitVec.ofNat 64 e.2.val))) [])
    | none, _ => .next (s.issued c w.hdr))

/-- COMPACT: the selected positions move down, and the positions beyond them receive 0. -/
def execCompact (w : Body) (s : State) : Out :=
  let wd := intWidth w.ty
  elemWord .compact w wd (fun c l s =>
    let n := 64 / wd
    let pos := (lanesOf c.lanes).flatMap (fun l => ((subs wd).filter (fun s => c.exec w.hdr wd l s)).map (fun s => (l, s)))
    let sel := pos.filter (fun p => (c.val w.b 0 p.1).testBit (wd / 8 * p.2))
    let k := (pos.filter (fun p => decide (p.1 * n + p.2 < l * n + s))).length
    plain (((sel[k]?).map (fun p => getSub wd p.2 (c.val w.a 0 p.1))).getD 0)) s

end Sys2Proof.Machine
end

