-- ==== Sys2Proof/Machine/Float.lean ====
section
/-!
DEFINITION. Classes 0x10, 0x11 and 0x13: arithmetic, compare, classify, round, scale and conversion words (R215 to R222, R226 to R229).
-/

namespace Sys2Proof.Machine

/-! ### Executing per sub-element (R215) -/

/-- A word that computes one result per executing sub-element of a V register, among the positions that it writes at all. -/
def floatWord (o : Op) (w : Body) (wd : Nat) (pos : Nat → Bool) (f : Ctx → Nat → Nat → Res) (s : State) : Out :=
  s.begin (o.mk w) (fun s c =>
    let act := c.active w.hdr wd
    match w.dst with
    | .v d =>
      let r := (lanesOf act).map (fun l => (l, laneRes wd (fun x => c.exec w.hdr wd l x && pos x) (f c l)))
      .next (s.writeFixed c w.hdr (latency o w) (guardWidth o w) act
        (r.map (fun e => RegW.v d.toNat e.1 (BitVec.ofNat 64 e.2.mask) (BitVec.ofNat 64 e.2.val))) (r.map (fun e => (e.1, e.2.fl))))
    | _ => .next (s.issued c w.hdr))

/-- A float word whose result depends on the same sub-element of its sources, the immediate read by the float column (R166). -/
def arithWord (o : Op) (w : Body) (f : Fmt → Nat → Nat → Nat → Res) (s : State) : Out :=
  let fm := fmtOf w.ty.toNat
  let wd := fmtBits fm
  let imm := immFloat fm w.imm
  floatWord o w wd (fun _ => true) (fun c l s =>
    f fm (getSub wd s (c.val w.a imm l)) (getSub wd s (c.val w.b imm l)) (getSub wd s (c.val w.c 0 l))) s

/-! ### Arithmetic (R217, R218) -/

/-- The sum, rounded once. -/
def fAdd (rm : Rm) (f : Fmt) (a b : Nat) : Res := roundTo f rm false (addNum rm (numOf f a) (numOf f b))

/-- The difference, rounded once. -/
def fSub (rm : Rm) (f : Fmt) (a b : Nat) : Res := roundTo f rm false (addNum rm (numOf f a) (negNum (numOf f b)))

/-- The product, rounded once. -/
def fMul (rm : Rm) (f : Fmt) (a b : Nat) : Res := roundTo f rm false (mulNum (numOf f a) (numOf f b))

/-- a × b + c, rounded once. -/
def fFma (rm : Rm) (f : Fmt) (a b c : Nat) : Res := roundTo f rm false (fmaNum rm (numOf f a) (numOf f b) (numOf f c))

/-- FADD. -/
def execFadd (w : Body) (s : State) : Out := arithWord .fadd w (fun f a b _ => fAdd w.rm f a b) s
/-- FSUB. -/
def execFsub (w : Body) (s : State) : Out := arithWord .fsub w (fun f a b _ => fSub w.rm f a b) s
/-- FMUL. -/
def execFmul (w : Body) (s : State) : Out := arithWord .fmul w (fun f a b _ => fMul w.rm f a b) s
/-- FFMA. -/
def execFfma (w : Body) (s : State) : Out := arithWord .ffma w (fun f a b c => fFma w.rm f a b c) s
/-- FMIN. -/
def execFmin (w : Body) (s : State) : Out := arithWord .fmin w (fun f a b _ => minMaxF f false a b) s
/-- FMAX. -/
def execFmax (w : Body) (s : State) : Out := arithWord .fmax w (fun f a b _ => minMaxF f true a b) s

/-! ### Compare, classify, round and scale (R219 to R222) -/

/-- The truth of a condition of FCMP and its flags. -/
def fCmp (cond : Nat) (f : Fmt) (a b : Nat) : Bool × BitVec 16 :=
  let x := numOf f a
  let y := numOf f b
  let un := isNaN x || isNaN y
  let o := cmpNum x y
  let r := match cond with
    | 0 => !un && o == .eq
    | 1 => un || o != .eq
    | 2 => !un && o == .lt
    | 3 => !un && o != .lt
    | 4 => !un && o != .gt
    | 5 => !un && o == .gt
    | 6 => un
    | _ => !un
  (r, flagIf (isSNaN x || isSNaN y) fNV)

/-- FCMP. -/
def execFcmp (w : Body) (s : State) : Out :=
  let f := fmtOf w.ty.toNat
  let wd := fmtBits f
  let imm := immFloat f w.imm
  cmpWord .fcmp w wd (fun c l s => fCmp w.sub f (getSub wd s (c.val w.a imm l)) (getSub wd s (c.val w.b imm l))) s

/-- The class bit of a value. -/
def fClass (f : Fmt) (a : Nat) : Nat :=
  let sub := nbits a (fmtMant f) (fmtExp f) == 0
  match numOf f a with
  | .nan true => 2 ^ 8
  | .nan false => 2 ^ 9
  | .inf s => if s then 1 else 2 ^ 7
  | .fin s m _ =>
    if m = 0 then (if s then 2 ^ 3 else 2 ^ 4)
    else if sub then (if s then 2 ^ 2 else 2 ^ 5)
    else if s then 2 ^ 1 else 2 ^ 6

/-- FCLASS. -/
def execFclass (w : Body) (s : State) : Out := arithWord .fclass w (fun f a _ _ => plain (fClass f a)) s

/-- Rounded to an integral value; a zero result keeps the sign. -/
def fRound (intx : Bool) (rm : Rm) (f : Fmt) (a : Nat) : Res :=
  match numOf f a with
  | .nan sig => (canonNaN f, flagIf sig fNV)
  | .inf _ => plain a
  | .fin s m e =>
    let (n, g, inex) := roundAt rm s m e 0
    (packMag f s n g, flagIf (intx && inex) fNX)

/-- FROUND. -/
def execFround (w : Body) (s : State) : Out := arithWord .fround w (fun f a _ _ => fRound (w.sub == 1) w.rm f a) s

/-- x × 2^n, rounded once. -/
def fScale (rm : Rm) (f : Fmt) (a n : Nat) : Res := roundTo f rm false (scaleNum (numOf f a) (toSigned (fmtBits f) n))

/-- FSCALE: an immediate exponent follows the integer column of R166. -/
def execFscale (w : Body) (s : State) : Out :=
  let f := fmtOf w.ty.toNat
  let wd := fmtBits f
  floatWord .fscale w wd (fun _ => true) (fun c l s =>
    fScale w.rm f (getSub wd s (c.val w.a (immFloat f w.imm) l)) (getSub wd s (c.val w.b (immInt wd false w.imm) l))) s

/-! ### Conversions (R226 to R229) -/

/-- A conversion from width ws to width wd with part p: the source sub-element of each destination sub-element that is written. -/
def convWord (o : Op) (w : Body) (ws wd imm : Nat) (f : Nat → Res) (s : State) : Out :=
  let p := w.sub
  floatWord o w wd
    (fun x => decide (ws ≤ wd) || (decide (64 / ws * p ≤ x) && decide (x < 64 / ws * (p + 1))))
    (fun c l x =>
      let src := if ws ≤ wd then x + 64 / wd * p else x - 64 / ws * p
      f (getSub ws src (c.val w.a imm l))) s

/-- FCVT (R227). -/
def execFcvt (w : Body) (s : State) : Out :=
  let d := fmtOf w.ty.toNat
  let f := fmtOf w.ty2
  convWord .fcvt w (fmtBits f) (fmtBits d) (immFloat f w.imm) (fun a => roundTo d w.rm w.sat (numOf f a)) s

/-- A float value as an integer of a width (R228). -/
def fToInt (uns : Bool) (rm : Rm) (wd : Nat) (x : Num) : Res :=
  match x with
  | .nan _ => (0, fNV)
  | .inf s => (wrap wd (if s then loOf uns wd else hiOf uns wd), fNV)
  | .fin s m e =>
    let (v, inex) := roundInt rm s m e
    if v < loOf uns wd then (wrap wd (loOf uns wd), fNV)
    else if hiOf uns wd < v then (wrap wd (hiOf uns wd), fNV)
    else (wrap wd v, flagIf inex fNX)

/-- F2I (R228). -/
def execF2i (w : Body) (s : State) : Out :=
  let f := fmtOf w.ty2
  let wd := intWidth w.ty
  convWord .f2i w (fmtBits f) wd (immFloat f w.imm) (fun a => fToInt w.uns w.rm wd (numOf f a)) s

/-- I2F (R229). -/
def execI2f (w : Body) (s : State) : Out :=
  let d := fmtOf w.ty.toNat
  let ws := 8 * 2 ^ w.ty2
  convWord .i2f w ws (fmtBits d) (immInt ws w.uns w.imm) (fun a => roundTo d w.rm w.sat (numOfInt (valOf w.uns ws a))) s

end Sys2Proof.Machine
end

