-- ==== Sys2Proof/Machine/Special.lean ====
section
/-!
DEFINITION. Class 0x12: special functions (R223 to R225).

FRCP, FSQRT, FDIV and the 16-bit FRSQ round correctly.
The other results are free within the bound of R224: the device's value is the unevaluated `Config.special` where that lies within the bound, and else the
exact result rounded to nearest.
The exact result is computed in fixed point of 320 fraction bits; where it comes out as 1 for FTANH or FSIGM, which stay below 1, it is taken just below 1, so that its
ulp is the gap below 1. FTANH of an input below 2^−60 is taken just below that input, and FEXP2 below 2^−2000 as 2^−2000, since each is nearer to it than any bound of R224 can tell.
-/

namespace Sys2Proof.Machine

open Config

/-! ### Fixed-point functions -/

/-- One, in fixed point. -/
def fxOne : Nat := 2 ^ 320

/-- The product of two fixed-point numbers. -/
def fxMul (a b : Nat) : Nat := (a * b) >>> 320

/-- The inverse hyperbolic tangent of z, for z up to 1/3. -/
def fxAtanh (z : Nat) : Nat :=
  let zz := fxMul z z
  ((List.range 110).foldl (fun (r : Nat × Nat) k => (fxMul r.1 zz, r.2 + r.1 / (2 * k + 1))) (z, 0)).2

/-- ln 2. -/
def fxLn2 : Nat := 2 * fxAtanh (fxOne / 3)

/-- The inverse tangent of 1/n. -/
def fxAtanInv (n : Nat) : Int :=
  ((List.range 80).foldl (fun (r : Nat × Int) k =>
    (r.1 / (n * n), if k % 2 = 0 then r.2 + (r.1 / (2 * k + 1) : Nat) else r.2 - (r.1 / (2 * k + 1) : Nat))) (fxOne / n, 0)).2

/-- 2π. -/
def fxTwoPi : Int := 8 * (4 * fxAtanInv 5 - fxAtanInv 239)

/-- e^t for t from 0 to ln 2. -/
def fxExp (t : Nat) : Nat :=
  ((List.range 80).foldl (fun (r : Nat × Nat) k => (fxMul r.1 t / (k + 1), r.2 + r.1)) (fxOne, 0)).2

/-- 2^f for f from 0 to 1. -/
def fxExp2 (f : Nat) : Nat := if f = 0 then fxOne else max (fxOne + 1) (fxExp (fxMul f fxLn2))

/-- e^−y. -/
def fxExpNeg (y : Nat) : Nat :=
  let q := y * fxOne / fxLn2
  let n := (q + fxOne - 1) / fxOne
  if 400 < n then 0 else fxExp2 (n * fxOne - q) >>> n

/-- A magnitude m × 2^e in fixed point. -/
def fxOf (m : Nat) (e : Int) : Nat := if 0 ≤ e + 320 then m <<< (e + 320).toNat else m >>> (-(e + 320)).toNat

/-- The alternating series of sine from term r, or of cosine from term 1: terms k, k + 2, … -/
def fxTrig (x : Nat) (odd : Bool) : Int :=
  let xx := fxMul x x
  let d := if odd then 1 else 0
  ((List.range 90).foldl (fun (r : Nat × Int) k =>
    (fxMul r.1 xx / ((2 * k + 1 + d) * (2 * k + 2 + d)), if k % 2 = 0 then r.2 + (r.1 : Int) else r.2 - (r.1 : Int)))
    (if odd then x else fxOne, 0)).2

/-! ### Exact results -/

/-- An exact result for practical purposes: mantissa and exponent. -/
abbrev Dy := Int × Int

/-- The difference of two, as a magnitude. -/
def dyDist (x y : Dy) : Nat × Int :=
  let k := min x.2 y.2
  ((x.1 * 2 ^ (x.2 - k).toNat - y.1 * 2 ^ (y.2 - k).toNat).natAbs, k)

/-- A number from a mantissa and an exponent. -/
def numOfDy (x : Dy) : Num := .fin (x.1 < 0) x.1.natAbs x.2

/-- 1/√(m × 2^e) with p significant bits and a sticky bit. -/
def rsqrtMag (m : Nat) (e : Int) (p : Nat) : Nat × Int :=
  let odd := e % 2 = 1
  let m := if odd then 2 * m else m
  let e := if odd then e - 1 else e
  let k := p + 3 + sigBits m
  let r := isqrt (2 ^ (2 * k) / m)
  (2 * r + (if r * r * m = 2 ^ (2 * k) then 0 else 1), -(e / 2) - k - 1)

/-- A fixed-point magnitude that is below one, whatever its computation dropped. -/
def belowOne (x : Nat) : Nat := min x (fxOne - 1)

/-- The exact result of a function for a finite nonzero input of its domain. -/
def exactOf (fn : SpecialFn) (s : Bool) (m : Nat) (e : Int) : Dy :=
  let x := fxOf m e
  let sg := fun (v : Int) => if s then -v else v
  match fn with
  | .frsq => let r := rsqrtMag m e 320; (r.1, r.2)
  | .fexp2 =>
    let v : Int := sg x
    let n := v.fdiv fxOne
    if n < -2000 then (1, -2000) else (fxExp2 (v - n * fxOne).toNat, n - 320)
  | .flog2 =>
    let k := sigBits m - 1
    let z := (m - 2 ^ k) * fxOne / (m + 2 ^ k)
    ((e + k) * fxOne + (2 * fxAtanh z * fxOne / fxLn2 : Nat), -320)
  | .fsin => (sg (fxTrig ((x : Int) % fxTwoPi).toNat true), -320)
  | .fcos => (fxTrig ((x : Int) % fxTwoPi).toNat false, -320)
  | .ftanh =>
    let u := fxExpNeg (2 * x)
    if magLt m e 1 (-60) then (sg (m * 2 ^ 320 - 1 : Nat), e - 320) else (sg (belowOne ((fxOne - u) * fxOne / (fxOne + u)) : Nat), -320)
  | .fsigm =>
    let u := fxExpNeg x
    ((if s then u * fxOne / (fxOne + u) else belowOne (fxOne * fxOne / (fxOne + u)) : Nat), -320)

/-! ### The bound (R224) -/

/-- The exponent of an ulp of an exact result. -/
def ulpExp (f : Fmt) (v : Dy) : Int :=
  if v.1 = 0 then fmtMinLsb f else max (floorLog2 v.1.natAbs v.2 - fmtMant f) (fmtMinLsb f)

/-- Ulps, and the exponent of the absolute bound where there is one. -/
def boundOf (fn : SpecialFn) (f : Fmt) : Nat × Option Int :=
  let single := f == Fmt.f32
  match fn with
  | .frsq => (1, none)
  | .fexp2 => (if single then 2 else 1, none)
  | .flog2 => (if single then 2 else 1, some (if single then -22 else -12))
  | .fsin | .fcos => (0, some (if single then -22 else -11))
  | .ftanh | .fsigm => (if single then 2 else 1, if single then some (-24) else none)

/-- Results outside the range of the function never occur. -/
def inCodomain (fn : SpecialFn) (s : Bool) (m : Nat) (e : Int) : Bool :=
  match fn with
  | .fsin | .fcos | .ftanh => !magLt 1 0 m e
  | .fsigm => (!s || m == 0) && !magLt 1 0 m e
  | _ => true

/-- May the device give this result for an exact result? -/
def within (fn : SpecialFn) (f : Fmt) (v : Dy) (cand : Nat) : Bool :=
  match numOf f cand with
  | .fin s m e =>
    let d := dyDist ((if s then -(m : Int) else m), e) v
    let (n, abs) := boundOf fn f
    let u := ulpExp f v
    inCodomain fn s m e &&
      (!magLt n u d.1 d.2 || (match abs with
        | some a => !magLt 1 a d.1 d.2
        | none => false))
  | _ => false

/-! ### Results and flags (R223 to R225) -/

/-- Is the result exact by R224, and which one? -/
def exactSpecial (fn : SpecialFn) (f : Fmt) (s : Bool) (m : Nat) (e : Int) : Option Nat :=
  match fn with
  | .fexp2 =>
    let (v, inex) := roundInt .rtz s m e
    if !inex ∧ fmtMinLsb f ≤ v ∧ v ≤ (fmtBias f : Int) then some (packMag f false 1 v) else none
  | .flog2 => if m = 2 ^ (sigBits m - 1) then some (roundTo f .rne false (numOfInt (e + (sigBits m - 1 : Nat)))).1 else none
  | .frsq => if m = 2 ^ (sigBits m - 1) ∧ (e + (sigBits m - 1 : Nat)) % 2 = 0 then some (packMag f false 1 (-((e + (sigBits m - 1 : Nat)) / 2))) else none
  | _ => none

/-- The result for a finite nonzero input of the domain. -/
def finiteSpecial (fn : SpecialFn) (ty : Nat) (f : Fmt) (a : Nat) (s : Bool) (m : Nat) (e : Int) : Res :=
  match exactSpecial fn f s m e with
  | some r => plain r
  | none =>
    let cand := special fn ty a
    if (fn = .fsin ∨ fn = .fcos) ∧ magLt 65536 0 m e then
      match numOf f cand with
      | .fin t n g =>
        if inCodomain fn t n g then (cand, fNX ||| flagIf (n != 0 && magLt n g 1 (1 - (fmtBias f : Int))) fUF) else (0, fNX)
      | _ => (0, fNX)
    else
      let v := exactOf fn s m e
      let (best, fl) := roundTo f .rne false (numOfDy v)
      let (um, ue, _) := roundPrec .rne (decide (v.1 < 0)) v.1.natAbs v.2 (fmtMant f + 1)
      let fl := (fl &&& fOF) ||| fNX ||| flagIf (magLt um ue 1 (1 - (fmtBias f : Int))) fUF
      if fl &&& fOF != 0 then (best, fl)
      else if fn = .frsq ∧ fmtBits f = 16 then (best, fl)
      else (if within fn f v cand then cand else best, fl)

/-- FRSQ, FEXP2, FLOG2, FSIN, FCOS, FTANH and FSIGM. -/
def fSpecial (fn : SpecialFn) (ty : Nat) (f : Fmt) (a : Nat) : Res :=
  let nan := canonNaN f
  let one := packMag f false 1 0
  match numOf f a with
  | .nan sig => (nan, flagIf sig fNV)
  | .inf s =>
    match fn with
    | .frsq => if s then (nan, fNV) else plain 0
    | .fexp2 => plain (if s then 0 else packInf f false)
    | .flog2 => if s then (nan, fNV) else plain (packInf f false)
    | .fsin | .fcos => plain nan
    | .ftanh => plain (packMag f s 1 0)
    | .fsigm => plain (if s then 0 else one)
  | .fin s m e =>
    if m = 0 then
      match fn with
      | .frsq => (packInf f s, fDZ)
      | .fexp2 | .fcos => plain one
      | .flog2 => plain (packInf f true)
      | .fsin | .ftanh => plain a
      | .fsigm => plain (packMag f false 1 (-1))
    else if s ∧ (fn = .frsq ∨ fn = .flog2) then (nan, fNV)
    else finiteSpecial fn ty f a s m e

/-- The quotient, rounded once. -/
def fDiv (rm : Rm) (f : Fmt) (x y : Num) : Res :=
  match x, y with
  | .nan a, .nan b => (canonNaN f, flagIf (a || b) fNV)
  | .nan a, _ => (canonNaN f, flagIf a fNV)
  | _, .nan b => (canonNaN f, flagIf b fNV)
  | .inf _, .inf _ => (canonNaN f, fNV)
  | .inf s, .fin t _ _ => plain (packInf f (s != t))
  | .fin s _ _, .inf t => plain (packMag f (s != t) 0 0)
  | .fin s m e, .fin t n g =>
    if n = 0 then (if m = 0 then (canonNaN f, fNV) else (packInf f (s != t), fDZ))
    else if m = 0 then plain (packMag f (s != t) 0 0)
    else
      let q := divMag m e n g (fmtMant f + 1)
      roundTo f rm false (.fin (s != t) q.1 q.2)

/-- The square root, rounded once. -/
def fSqrt (rm : Rm) (f : Fmt) (x : Num) : Res :=
  match x with
  | .nan a => (canonNaN f, flagIf a fNV)
  | .inf s => if s then (canonNaN f, fNV) else plain (packInf f false)
  | .fin s m e =>
    if m = 0 then plain (packMag f s 0 0)
    else if s then (canonNaN f, fNV)
    else
      let r := sqrtMag m e (fmtMant f + 1)
      roundTo f rm false (.fin false r.1 r.2)

/-- FRCP. -/
def execFrcp (w : Body) (s : State) : Out := arithWord .frcp w (fun f a _ _ => fDiv w.rm f (.fin false 1 0) (numOf f a)) s
/-- FRSQ. -/
def execFrsq (w : Body) (s : State) : Out := arithWord .frsq w (fun f a _ _ => fSpecial .frsq w.ty.toNat f a) s
/-- FSQRT. -/
def execFsqrt (w : Body) (s : State) : Out := arithWord .fsqrt w (fun f a _ _ => fSqrt w.rm f (numOf f a)) s
/-- FDIV. -/
def execFdiv (w : Body) (s : State) : Out := arithWord .fdiv w (fun f a b _ => fDiv w.rm f (numOf f a) (numOf f b)) s
/-- FEXP2. -/
def execFexp2 (w : Body) (s : State) : Out := arithWord .fexp2 w (fun f a _ _ => fSpecial .fexp2 w.ty.toNat f a) s
/-- FLOG2. -/
def execFlog2 (w : Body) (s : State) : Out := arithWord .flog2 w (fun f a _ _ => fSpecial .flog2 w.ty.toNat f a) s
/-- FSIN. -/
def execFsin (w : Body) (s : State) : Out := arithWord .fsin w (fun f a _ _ => fSpecial .fsin w.ty.toNat f a) s
/-- FCOS. -/
def execFcos (w : Body) (s : State) : Out := arithWord .fcos w (fun f a _ _ => fSpecial .fcos w.ty.toNat f a) s
/-- FTANH. -/
def execFtanh (w : Body) (s : State) : Out := arithWord .ftanh w (fun f a _ _ => fSpecial .ftanh w.ty.toNat f a) s
/-- FSIGM. -/
def execFsigm (w : Body) (s : State) : Out := arithWord .fsigm w (fun f a _ _ => fSpecial .fsigm w.ty.toNat f a) s

end Sys2Proof.Machine
end

