-- ==== Sys2Proof/Machine/Block.lean ====
section
/-!
DEFINITION. Class 0x14: block formats and the dot product within a lane (R103, R230 to R235).
-/

namespace Sys2Proof.Machine

/-! ### Blocks -/

/-- The floor of the base-2 logarithm of the largest finite magnitude of a block, none when every finite value is zero. -/
def topExp (v : List Num) : Option Int :=
  v.foldl (fun b x => match x with
    | .fin _ m e => if m = 0 then b else some (match b with
      | none => floorLog2 m e
      | some k => max k (floorLog2 m e))
    | _ => b) none

/-- The element format of a quantised block (R231). -/
def blockFmt (e5 : Bool) : Fmt := if e5 then .e5m2 else .e4m3

/-- An MXFP8 block from 32 values: the scale code, the elements and the flags (R103, R231). -/
def mxQuant (e5 : Bool) (rm : Rm) (v : List Num) : Nat × List Nat × BitVec 16 :=
  let f := blockFmt e5
  let x : Int := match topExp v with
    | none => -127
    | some t => max (-127) (min 127 (t - (if e5 then 15 else 8)))
  let r := v.map (fun a => match a with
    | .inf s => (packMax f s, fOF ||| fNX)
    | a => roundTo f rm true (scaleNum a (-x)))
  ((x + 127).toNat, r.map (·.1), r.foldl (fun fl e => fl ||| e.2) 0)

/-- The values of an MXFP8 block (R94). -/
def mxDecode (e5 : Bool) (scale : Nat) (els : List Nat) : List Num :=
  els.map (fun a => match e8m0 scale with
    | none => .nan false
    | some x => scaleNum (numOf (blockFmt e5) a) x)

/-- A decoded element in a wide format: by the first row of R99, and a NaN raises nothing (R232, R234). -/
def widen (f : Fmt) (rm : Rm) (x : Num) : Res :=
  match x with
  | .nan _ => plain (canonNaN f)
  | x => roundTo f rm false x

/-- RA: the nearest of −7 to 7, ties to the even integer (R233). -/
def q4Near (x : Num) : Int :=
  match x with
  | .inf s => if s then -7 else 7
  | .fin s m e =>
    let (n, g, _) := roundAt .rne s m e 0
    let v : Int := if magLt 7 0 n g then 7 else (n <<< g.toNat : Nat)
    if s then -v else v
  | .nan _ => 0

/-- The magnitudes of RB in steps of 8, from E2M1 code 1 to 7 (R233). -/
def q4Grid : List Nat := [1, 2, 3, 4, 6, 8, 12]

/-- RB: the E2M1 code of the nearest outlier magnitude over 16, ties to an even code, and the magnitude (R233). -/
def q4Out (x : Num) : Nat × Nat :=
  match x with
  | .fin _ m e =>
    (((List.range 6).filter (fun i =>
      let mid := 4 * (q4Grid[i]?.getD 0 + q4Grid[i + 1]?.getD 0)
      magLt mid 0 m e || (!magLt m e mid 0 && i % 2 = 0))).length + 1,
     8 * q4Grid[((List.range 6).filter (fun i =>
      let mid := 4 * (q4Grid[i]?.getD 0 + q4Grid[i + 1]?.getD 0)
      magLt mid 0 m e || (!magLt m e mid 0 && i % 2 = 0))).length]?.getD 0)
  | _ => (7, 96)

/-- The sign of a value. -/
def signOf (x : Num) : Bool :=
  match x with
  | .inf s | .fin s _ _ => s
  | .nan _ => false

/-- A finite value as an integer times 2^k. -/
def dyOf (x : Num) : Int × Int :=
  match x with
  | .fin s m e => (if s then -(m : Int) else m, e)
  | _ => (0, 0)

/-- The square of the distance of a finite value to an integer. -/
def sqDist (x : Num) (n : Int) : Nat × Int :=
  let (a, e) := dyOf x
  let k := min e 0
  let d := a * 2 ^ (e - k).toNat - n * 2 ^ (-k).toNat
  ((d * d).natAbs, 2 * k)

/-- The sum of two magnitudes. -/
def magAdd (x y : Nat × Int) : Nat × Int :=
  let (a, b, k) := align x.1 x.2 y.1 y.2
  (a + b, k)

/-- The codes of a pair of elements and their flags (R233). -/
def q4Pair (out : Bool) (a b : Num) : Nat × Nat × BitVec 16 :=
  let ra := q4Near a
  let rb := q4Near b
  let (code, mag) := q4Out a
  let fin := fun (x : Num) => match x with
    | .fin _ _ _ => true
    | _ => false
  let outMag : Int := if signOf a then -(mag : Int) else mag
  let eA := magAdd (sqDist a ra) (sqDist b rb)
  let eB := magAdd (sqDist a outMag) (sqDist b 0)
  let infs := flagIf (!fin a || !fin b) (fOF ||| fNX)
  let differs := fun (x : Num) (n : Int) => flagIf (fin x && (sqDist x n).1 != 0) fNX
  let exceeds := fun (x : Num) (lim : Nat) => match x with
    | .fin _ m e => flagIf (magLt lim (-1) m e) fOF
    | _ => 0
  if out && (!fin a || (fin b && magLt eB.1 eB.2 eA.1 eA.2)) then
    (8, code + (if signOf a then 8 else 0), infs ||| differs a outMag ||| differs b 0 ||| exceeds a 224)
  else
    (wrap 4 ra, wrap 4 rb, infs ||| differs a ra ||| differs b rb ||| exceeds a 15 ||| exceeds b 15)

/-- The pairs of a block. -/
def q4Pairs (out : Bool) (u : List Num) : List Nat × BitVec 16 :=
  match u with
  | a :: b :: t =>
    let (x, y, fl) := q4Pair out a b
    let r := q4Pairs out t
    (x :: y :: r.1, fl ||| r.2)
  | _ => ([], 0)

/-- A KQ4 block from 32 values: the scale code, the codes and the flags (R233). -/
def q4Quant (out : Bool) (v : List Num) : Nat × List Nat × BitVec 16 :=
  if v.any isNaN then (255, List.replicate 32 0, flagIf (v.any isSNaN) fNV)
  else
    let x : Int := match topExp v with
      | none => -127
      | some t => max (-127) (min 127 (t - (if out then 5 else 2)))
    let r := q4Pairs out (v.map (fun a => scaleNum a (-x)))
    ((x + 127).toNat, r.1, r.2)

/-- The values of a KQ4 block and the number of its anomalies (R95). -/
def q4Decode (scale : Nat) (codes : List Nat) : List Num × Nat :=
  let r := (List.range 32).map (fun i => kq4 (fun j => codes[j]?.getD 0) scale i)
  (r.map (·.1), (r.filter (·.2)).length)

/-! ### Blocks in registers (R230) -/

/-- The elements of width wd in the registers from a base. -/
def elements (regs : List Nat) (wd : Nat) : List Nat := regs.flatMap (fun x => (subs wd).map (fun s => getSub wd s x))

/-- Elements of width wd packed into registers. -/
def packRegs (wd n : Nat) (els : List Nat) : List Nat :=
  (List.range n).map (fun i => ((els.drop (i * (64 / wd))).take (64 / wd)).foldr (fun x acc => x % 2 ^ wd + acc * 2 ^ wd) 0)

/-- What one lane of a block word gives: whole registers, the scale byte if it writes one, flags and anomalies. -/
structure BlockRes where
  regs  : List Nat
  scale : Option Nat
  fl    : BitVec 16
  anom  : Nat
  deriving DecidableEq, Repr, Inhabited

/-- A block word: every executing lane reads its n source registers and writes its destination range. -/
def blockWord (o : Op) (w : Body) (f : Nat → List Nat → BlockRes) (s : State) : Out :=
  s.begin (o.mk w) (fun s c =>
    let lanes := c.active w.hdr 0
    match w.dst, w.a with
    | .v d, .v a =>
      let n := (spans o w).2.1
      let r := (lanesOf lanes).map (fun l => (l, f w.ssel ((List.range n).map (fun i => (c.g.getV (a.toNat + i) l).toNat))))
      let ws := r.flatMap (fun e =>
        (e.2.regs.mapIdx (fun i x => RegW.v (d.toNat + i) e.1 (BitVec.allOnes 64) (BitVec.ofNat 64 x))) ++
        (match e.2.scale with
         | some k => [RegW.v (d.toNat + e.2.regs.length) e.1 (BitVec.ofNat 64 (255 * 2 ^ (8 * w.ssel))) (BitVec.ofNat 64 (k * 2 ^ (8 * w.ssel)))]
         | none => []))
      let n := r.foldl (fun n e => n + e.2.anom) 0
      let s1 := s.modCore c.crew.core (fun k => { k with anom := BitVec.ofNat 32 (min (2 ^ 32 - 1) (k.anom.toNat + n)) })
      .next (s1.writeFixed c w.hdr (latency o w) (subWidth o w) lanes ws (r.map (fun e => (e.1, e.2.fl))))
    | _, _ => .next (s.issued c w.hdr))

/-- MXQ. -/
def execMxq (w : Body) (s : State) : Out :=
  let f := fmtOf w.ty.toNat
  blockWord .mxq w (fun _ regs =>
    let q := mxQuant (w.sub == 1) w.rm ((elements regs (fmtBits f)).map (numOf f))
    ⟨packRegs 8 4 q.2.1, some q.1, q.2.2, 0⟩) s

/-- MXDQ. -/
def execMxdq (w : Body) (s : State) : Out :=
  let f := fmtOf w.ty.toNat
  blockWord .mxdq w (fun k regs =>
    let scale := getSub 8 k (regs[4]?.getD 0)
    let r := (mxDecode (w.sub == 1) scale (elements (regs.take 4) 8)).map (widen f w.rm)
    ⟨packRegs (fmtBits f) (wideRegs w.ty) (r.map (·.1)), none, r.foldl (fun fl e => fl ||| e.2) 0, 0⟩) s

/-- Q4PK. -/
def execQ4pk (w : Body) (s : State) : Out :=
  let f := fmtOf w.ty.toNat
  blockWord .q4pk w (fun _ regs =>
    let q := q4Quant (w.sub == 1) ((elements regs (fmtBits f)).map (numOf f))
    ⟨packRegs 4 2 q.2.1, some q.1, q.2.2, 0⟩) s

/-- Q4UPK: anomalies are counted once for each lane that decodes them. -/
def execQ4upk (w : Body) (s : State) : Out :=
  let f := fmtOf w.ty.toNat
  blockWord .q4upk w (fun k regs =>
    let q := q4Decode (getSub 8 k (regs[2]?.getD 0)) (elements (regs.take 2) 4)
    let r := q.1.map (widen f w.rm)
    ⟨packRegs (fmtBits f) (wideRegs w.ty) (r.map (·.1)), none, r.foldl (fun fl e => fl ||| e.2) 0, q.2⟩) s

/-! ### FDOT (R235) -/

/-- One sum of FDOT: the products are added in ascending order, with one rounding per step. -/
def fDot (rm : Rm) (f : Fmt) (t : Nat) (ps : List (Nat × Nat)) : Res :=
  ps.foldl (fun r p =>
    let v := roundTo .f32 rm false (fmaNum rm (numOf f p.1) (numOf f p.2) (numOf .f32 r.1))
    (v.1, r.2 ||| v.2)) (plain t)

/-- FDOT. -/
def execFdot (w : Body) (s : State) : Out :=
  let f := fmtOf w.ty2
  let ws := fmtBits f
  floatWord .fdot w 32 (fun _ => true) (fun c l j =>
    let n := 32 / ws
    fDot w.rm f (getSub 32 j (c.val w.c 0 l))
      ((List.range n).map (fun q => (getSub ws (j * n + q) (c.val w.a 0 l), getSub ws (j * n + q) (c.val w.b 0 l))))) s

end Sys2Proof.Machine
end

