-- ==== Sys2Proof/Machine/Pair.lean ====
section
/-!
DEFINITION. The pair word (R169 to R171, R327): two half-operations that read all their sources before either writes.
-/

namespace Sys2Proof.Machine

/-- One sub-element of half 1. -/
def half1Elem (h : HalfOp1) (wd a b : Nat) : Res :=
  match h with
  | .iadd => eAdd wd a b
  | .isub => eSub wd a b
  | .imin => eMin false wd a b
  | .imax => eMax false wd a b
  | .ineg => eNeg false wd a
  | .iabs => eAbs false wd a
  | .and => eAnd a b
  | .or => eOr a b
  | .xor => eXor a b
  | .andn => eAndn wd a b
  | .not => eNot wd a
  | .shl => eShl wd a b
  | .shr => eShr wd a b
  | .sar => eSar wd a b
  | .rol => eRol wd a b
  | .ror => eRor wd a b
  | .empty => plain 0

/-- One sub-element of half 2. -/
def half2Elem (y : Half2) (a b c : Nat) : Res :=
  match y.hop with
  | .imul => eMul (halfWidth y.ty) a b
  | .imad => eMad (halfWidth y.ty) a b c
  | .fmul => fMul .rne (fmtOf y.ty.toNat) a b
  | .ffma => fFma .rne (fmtOf y.ty.toNat) a b c
  | .empty => plain 0

/-- The result of half 1 in a lane: every sub-element of the register. -/
def half1Lane (g : Group) (x : Half1) (l : Nat) : LaneRes :=
  let wd := halfWidth x.ty
  laneRes wd (fun _ => true) (fun s => half1Elem x.hop wd (getSub wd s (g.getV x.a.toNat l).toNat) (getSub wd s (g.getV x.b.toNat l).toNat))

/-- The result of half 2 in a lane. -/
def half2Lane (g : Group) (y : Half2) (l : Nat) : LaneRes :=
  let wd := half2Width y
  laneRes wd (fun _ => true) (fun s =>
    half2Elem y (getSub wd s (g.getV y.a.toNat l).toNat) (getSub wd s (g.getV y.b.toNat l).toNat) (getSub wd s (g.getV y.c.toNat l).toNat))

/-- The writes of one half in the executing lanes. -/
def halfWrites (d : BitVec 8) (r : List (Nat × LaneRes)) : List RegW :=
  r.map (fun e => RegW.v d.toNat e.1 (BitVec.ofNat 64 e.2.mask) (BitVec.ofNat 64 e.2.val))

/-- PAIR_WORD. -/
def execPair (h : Hdr) (x : Half1) (y : Half2) (s : State) : Out :=
  s.begin (.pair h x y) (fun s c =>
    let lanes := c.active h 0
    let r1 := if x.hop = .empty then [] else (lanesOf lanes).map (fun l => (l, half1Lane c.g x l))
    let r2 := if y.hop = .empty then [] else (lanesOf lanes).map (fun l => (l, half2Lane c.g y l))
    let s1 := s.modGroup c.m.crew c.m.grp (fun g =>
      g.push c.cyc (half1Latency x.hop) s.nextSeq c.st c.pos (halfWidth x.ty) lanes (halfWrites x.d r1))
    .next (s1.writeFixed c h (half2Latency y.hop y.ty) (half2Width y) lanes (halfWrites y.d r2) ((r1 ++ r2).map (fun e => (e.1, e.2.fl)))))

end Sys2Proof.Machine
end

