-- ==== Sys2Proof/Machine/Memory.lean ====
section
/-!
DEFINITION. Classes 0x18 to 0x1B and MONITOR: the words whose accesses the ordering machine performs (R237 to R247, R249).

A word that passes its checks at issue becomes an outstanding word of its group: its accesses are then translated, pass the map point and perform or drain in
steps of their own.
-/

namespace Sys2Proof.Machine

/-! ### What an access carries -/

/-- Bytes 15:8 of a 16-byte operand: the next register. The spec names none after S63: a free value. -/
def State.upper (s : State) (c : Ctx) (o : Opnd) (l : Nat) : Nat :=
  match o with
  | .v n => (c.g.getV (n.toNat + 1) l).toNat
  | .s n => if n = 63 then (s.freeWord 1).toNat else (c.g.getS (n.toNat + 1)).toNat
  | _ => 0

/-- A data operand of a size (R238). -/
def State.dataOf (s : State) (c : Ctx) (o : Opnd) (size l : Nat) : Nat :=
  if size = 16 then c.val o 0 l + s.upper c o l * 2 ^ 64 else c.val o 0 l % 2 ^ (8 * size)

/-- What the word does at each access (R241). -/
def memOpOf (o : Op) (w : Body) : MemOp :=
  match o with
  | .st | .stX | .sst | .cellclr => .store
  | .atom => .atom w.fm.subm (decide (w.ty = 5 ∨ w.ty = 6))
  | .incb => .incb
  | .celladd => .cellAdd
  | .cellrd => .cellRd w.fm.subm
  | .recld => .recld
  | _ => .load (w.fm.subm == 1)

/-- The data that one lane's access writes or adds. -/
def State.accData (s : State) (c : Ctx) (o : Op) (w : Body) (l : Nat) : Nat :=
  match o with
  | .st | .stX | .sst | .atom | .incb => s.dataOf c w.b (memSize w.ty) l
  | .celladd => s.dataOf c w.b (if w.fm.subm = 3 then 16 else 8) l
  | _ => 0

/-- The compare value of cas, or the addend kind of CELLADD. -/
def accCmp (c : Ctx) (o : Op) (w : Body) (l : Nat) : Nat :=
  match o with
  | .atom => c.val w.dst 0 l
  | .celladd => w.fm.subm.toNat
  | _ => 0

/-- The accesses of one lane: one, or the three 64-byte parts of a record. -/
def State.accOf (s : State) (c : Ctx) (o : Op) (w : Body) (l : Nat) (a : LaneAddr) : List Acc :=
  let data := s.accData c o w l
  let cmp := accCmp c o w l
  match a with
  | .virt va =>
    if o = .recld then (List.range 3).map (fun i => ⟨0, va + 64 * i, true, 64, 0, 0, none, false, 0, false, false, 0⟩)
    else [⟨l, va, true, opSize o w, data, cmp, none, false, 0, false, false, 0⟩]
  | .chip p => [⟨l, 0, false, opSize o w, data, cmp, some p, true, 0, false, false, 0⟩]
  | _ => []

/-- The register that the word loads. -/
def loadDst (o : Op) (w : Body) : MDst :=
  match o with
  | .ld | .lds | .ldX | .sld | .atom | .incb | .cellrd | .monitor =>
    (match w.dst with
     | .v n => .v n.toNat (decide ((spans o w).1 = 2))
     | .s n => .s n.toNat
     | .p n => .p n.toNat
     | _ => .none)
  | _ => .none

/-- The arrival counter of an LDS. -/
def counterOf (o : Op) (w : Body) : Option Nat :=
  match o, w.b with
  | .lds, .a n => some n.toNat
  | _, _ => none

/-- The outstanding word that an instruction becomes. -/
def State.memWordOf (s : State) (c : Ctx) (o : Op) (w : Body) (mop : MemOp) (act : Word) (as : List (Nat × LaneAddr)) : MemWord :=
  let accs := as.flatMap (fun a => s.accOf c o w a.1 a.2)
  let zero := (as.filter (fun a => a.2 == .drop)).map (·.1)
  { seq := s.nextSeq, ent := c.m.ent, st := c.st, pos := c.pos, op := mop, dst := loadDst o w, order := w.fm.order, scope := w.fm.scope
    cnt := counterOf o w, lds := o == .lds, clob := [], lanes := act, zero := if o = .monitor then [] else zero, accs := accs
    stat := if accs.any (·.virt) then .walking else .ready, blank := false }

/-- An arrival counter rises by 1 at the issue of an LDS (R120). -/
def Group.raiseCnt (g : Group) (cnt : Option Nat) : Group :=
  match cnt with
  | some a => g.setA a (g.getA a + 1)
  | none => g

/-- A word joins the group's outstanding words; one without accesses is over at once (R243). -/
def State.addWord (s : State) (c : Ctx) (h : Hdr) (m : MemWord) : State :=
  let s1 : State := { s with nextSeq := s.nextSeq + 1, free := s.free + 1 }
  let s2 := s1.modGroup c.m.crew c.m.grp (fun g => ({ g with mws := g.mws ++ [m] } : Group).raiseCnt m.cnt)
  (s2.issued c h).finishWord c.m.crew c.m.grp m.seq

/-- A memory word: nothing without an active lane, a trap for a fault found at issue, else it becomes outstanding (R237, R239). -/
def memWord (o : Op) (w : Body) (s : State) : Out :=
  s.begin (o.mk w) (fun s c =>
    let act := c.active w.hdr 0
    let as := s.laneAddrs c o w act
    if act = 0 then .next (s.issued c w.hdr)
    else match firstFault as with
      | some (cause, info) => s.trapWord c cause info
      | none => .next (s.addWord c w.hdr (s.memWordOf c o w (memOpOf o w) act as)))

/-! ### Lane loads and stores (R243, R244) -/

/-- LD. -/
def execLd (w : Body) (s : State) : Out := memWord .ld w s
/-- ST. -/
def execSt (w : Body) (s : State) : Out := memWord .st w s
/-- LDS. -/
def execLds (w : Body) (s : State) : Out := memWord .lds w s

/-- PREF changes no architectural state and takes no fault. -/
def execPref (w : Body) (s : State) : Out := s.begin (.pref w) (fun s c => .next (s.issued c w.hdr))

/-- LD.x. -/
def execLdX (w : Body) (s : State) : Out := memWord .ldX w s
/-- ST.x. -/
def execStX (w : Body) (s : State) : Out := memWord .stX w s

/-! ### Scalar access and record fetch (R245) -/

/-- SLD. -/
def execSld (w : Body) (s : State) : Out := memWord .sld w s
/-- SST. -/
def execSst (w : Body) (s : State) : Out := memWord .sst w s
/-- RECLD. -/
def execRecld (w : Body) (s : State) : Out := memWord .recld w s

/-! ### Atomics and accumulation cells (R246, R247) -/

/-- ATOM. -/
def execAtom (w : Body) (s : State) : Out := memWord .atom w s
/-- INCB. -/
def execIncb (w : Body) (s : State) : Out := memWord .incb w s
/-- CELLADD. -/
def execCelladd (w : Body) (s : State) : Out := memWord .celladd w s
/-- CELLRD. -/
def execCellrd (w : Body) (s : State) : Out := memWord .cellrd w s
/-- CELLCLR: a store of zero. -/
def execCellclr (w : Body) (s : State) : Out := memWord .cellclr w s

/-! ### MONITOR (R121, R249) -/

/-- The predicate that MONITOR writes without naming a line. -/
def monitorP (w : Body) (act : Word) (ok : Bool) : List RegW :=
  match w.dst with
  | .p d => (lanesOf act).map (fun l => RegW.p d.toNat l 0xFF (if ok then 0xFF else 0))
  | _ => []

/-- Every line of a group is disarmed, and its latch clears (R249). -/
def Group.disarmAll (g : Group) : Group := { g with monitors := [], latch := none }

/-- MONITOR: the arm or disarm of a virtual line is a word of the ordering machine, with its one access as lane 0 (R239); an on-chip or dropped access names no line. -/
def execMonitor (w : Body) (s : State) : Out :=
  s.begin (.monitor w) (fun s c =>
    let act := c.active w.hdr 0
    let disarm := decide (w.fm.subm = 1)
    if act = 0 then .next (s.issued c w.hdr)
    else if w.fm.subm = 2 then
      .next ((s.modGroup c.m.crew c.m.grp Group.disarmAll).writeInterlocked c w.hdr (monitorP w act true))
    else
      let as := s.laneAddrs c .monitor w act
      match firstFault as, as with
      | some (cause, info), _ => s.trapWord c cause info
      | none, [(_, .virt va)] =>
        .next (s.addWord c w.hdr (s.memWordOf c .monitor w (.arm (va / 256) (va / 8 % 32) disarm) act [(0, .virt va)]))
      | none, _ => .next (s.writeInterlocked c w.hdr (monitorP w act disarm)))

end Sys2Proof.Machine
end

