-- ==== Sys2Proof/Machine/Wait.lean ====
section
/-!
DEFINITION. Fences, waits and barriers of classes 0x1C and 0x1D, with the steps that end their waits (R74, R110 to R114, R120 to R123, R248, R250, R253 to R255).
-/

namespace Sys2Proof.Machine

/-! ### Shared by entity-level words -/

/-- FIELD of a misuse of an operand: the immediate's field where the operand is IMM32 (R173). -/
def fieldOf (o : Opnd) (lo : Nat) : Nat :=
  match o with
  | .imm => 22
  | _ => lo

/-- The write of an S register that a word names in DST. -/
def sWrite (o : Opnd) (x : Nat) : List RegW :=
  match o with
  | .s d => [RegW.s d.toNat (BitVec.ofNat 64 x)]
  | _ => []

/-- An entity-level word: it acts once when its Active set is not empty (R237). -/
def entityWord (o : Op) (w : Body) (k : State → Ctx → Out) (s : State) : Out :=
  s.begin (o.mk w) (fun s c => if c.active w.hdr 0 = 0 then .next (s.issued c w.hdr) else k s c)

/-- The instruction in which an entity waits. -/
def State.waiting (s : State) (m : Member) : Option (Ctx × Op × Body) :=
  match s.ent? m with
  | none => none
  | some e =>
    match (e.code[e.pos]?).map decode with
    | some (.ok i) =>
      match i.word?, s.ctxOf m (s.cycOf m) (instrHdr i).slot with
      | some (o, w), some c => some (c, o, w)
      | _, _ => none
    | _ => none

/-- A wait ends: the word's registers are written and the word is over. -/
def State.endWait (s : State) (m : Member) (ws : List RegW) : State :=
  (s.modGroup m.crew m.grp (fun g => g.writeNow ws)).advance m

/-- A step that ends the wait of an entity if it may: the state after it, none where it may not. -/
def endEvent (row : String) (r : Option State) : Out :=
  match r with
  | some s => .next s
  | none => .refused (.notEnabled row)

/-! ### Fences (R74, R248) -/

/-- A fence of a group is in force from its issue, and completes as soon as it may. -/
def fenceWord (o : Op) (w : Body) (kind : FenceKind) (scope : BitVec 3) (s : State) : Out :=
  entityWord o w (fun s c =>
    let s1 : State := { s with nextSeq := s.nextSeq + 1 }
    let s2 := s1.modGroup c.m.crew c.m.grp (fun g => { g with fences := g.fences ++ [⟨s.nextSeq, c.m.ent, kind, scope⟩] })
    .next ((s2.issued c w.hdr).settleFences)) s

/-- The kind of a FENCE. -/
def fenceKind (w : Body) : FenceKind :=
  match w.fm.subm.toNat with
  | 0 => .acq
  | 1 => .rel
  | _ => .full

/-- FENCE. -/
def execFence (w : Body) (s : State) : Out := fenceWord .fence w (fenceKind w) w.fm.scope s
/-- CODEFENCE. -/
def execCodefence (w : Body) (s : State) : Out := fenceWord .codefence w .code 4 s
/-- RFENCE. -/
def execRfence (w : Body) (s : State) : Out := fenceWord .rfence w .record 0 s
/-- OPFENCE. -/
def execOpfence (w : Body) (s : State) : Out := fenceWord .opfence w .oper 0 s

/-! ### MWAIT and WAITA (R120, R122, R123, R250) -/

/-- The result of MWAIT for a latch (R123). -/
def latchReason (l : Latch) : Nat :=
  match l.write, l.line with
  | some n, _ => 256 * n
  | none, some n => 1 + 256 * n
  | none, none => 2

/-- MWAIT rotates its split (R42). -/
def State.markSplit (s : State) (c : Ctx) : State :=
  if c.g.isSplit && c.m.ent != handlerIdx then s.modEnt c.m (fun e => { e with mark := true }) else s

/-- The entities of a group that wait in MWAIT. -/
def Group.mwaiters (g : Group) : List Nat :=
  ((g.ents ++ (g.handler.map (·.ent)).toList).filter (fun e => match e.wait with
    | some (.mwait _ _) => true
    | _ => false)).map (·.idx)

/-- MWAIT returns in an entity with a result. -/
def State.mwaitReturn (s : State) (m : Member) (r : Nat) : State :=
  match s.waiting m with
  | some (_, .mwait, w) => s.endWait m (sWrite w.dst r)
  | _ => s

/-- A group's latch ends every MWAIT of the group that is pending, and clears (R122). -/
def State.mwaitWakes (s : State) (uid gi : Nat) (l : Latch) : State :=
  (((s.group? uid gi).map Group.mwaiters).getD []).foldl (fun s i => s.mwaitReturn ⟨uid, gi, i⟩ (latchReason l)) (s.modGroup uid gi (fun g => { g with latch := none }))

/-- MWAIT: a set latch ends it at once, with every other MWAIT of the group that is pending (R122). -/
def execMwait (w : Body) (s : State) : Out :=
  entityWord .mwait w (fun s c =>
    let s := s.markSplit c
    if c.g.monitors = [] then .next (s.writeInterlocked c w.hdr (sWrite w.dst 4))
    else match c.g.latch with
      | some l => .next ((s.mwaitWakes c.m.crew c.m.grp l).writeInterlocked c w.hdr (sWrite w.dst (latchReason l)))
      | none => .next (s.waits c w.hdr (.mwait s.clock.toNat (c.uval w w.a)))) s

/-- A group's latch wakes it, if an entity waits in MWAIT (R122). -/
def State.mwaitWake (s : State) (m : Member) : Option State :=
  match s.group? m.crew m.grp with
  | none => none
  | some g =>
    match g.latch with
    | none => none
    | some l =>
      if g.mwaiters.contains m.ent then some (s.mwaitWakes m.crew m.grp l) else none

/-- MWAIT_WAKE. -/
def execMwaitWake (m : Member) (s : State) : Out := endEvent "MWAIT_WAKE" (s.mwaitWake m)

/-- MWAIT_TIMEOUT: no sooner than the timeout; a set latch is reported first (R123). -/
def execMwaitTimeout (m : Member) (s : State) : Out :=
  match (s.ent? m).bind (·.wait), s.group? m.crew m.grp with
  | some (.mwait since t), some g =>
    if t ≠ 0 ∧ since + t ≤ s.clock.toNat then
      if g.latch.isSome then endEvent "MWAIT_TIMEOUT" (s.mwaitWake m) else .next (s.mwaitReturn m 3)
    else .refused (.notEnabled "MWAIT_TIMEOUT")
  | _, _ => .refused (.notEnabled "MWAIT_TIMEOUT")

/-- The counter of an A operand. -/
def aOf (o : Opnd) : Nat :=
  match o with
  | .a n => n.toNat
  | _ => 0

/-- WAITA. -/
def execWaita (w : Body) (s : State) : Out :=
  entityWord .waita w (fun s c =>
    let n := c.uval w w.b
    if 1023 < n then s.misuse c (fieldOf w.b 54)
    else if (c.g.getA (aOf w.a)).toNat ≤ n then .next (s.issued c w.hdr)
    else .next (s.waits c w.hdr (.waita (aOf w.a) n))) s

/-- WAITA_END. -/
def execWaitaEnd (m : Member) (s : State) : Out :=
  match (s.ent? m).bind (·.wait), s.group? m.crew m.grp with
  | some (.waita a n), some g =>
    if (g.getA a).toNat ≤ n then .next (s.advance m) else .refused (.notEnabled "WAITA_END")
  | _, _ => .refused (.notEnabled "WAITA_END")

/-! ### Transaction barriers (R110, R111, R253, R254) -/

/-- The scratch range of an operand at an alignment: ALIGN, then BOUNDS (R60, R242). -/
def Ctx.scratchAt (c : Ctx) (off align size : Nat) (wr : Bool) : Option (BitVec 8 × Word) :=
  if off % align ≠ 0 then some (causeAlign, faultInfo 0 wr off)
  else if 1024 * c.crew.scrKiB < off + size then some (causeBounds, faultInfo 0 wr off)
  else none

/-- The byte operand of TBEXPECT and TBARRIVE: bits 31:0 as two's complement (R242). -/
def Ctx.bytesOf (c : Ctx) (w : Body) : Int := toSigned 32 (c.uval w w.b)

/-- A word that updates a barrier in one step; a release carries what precedes it (R253). -/
def tbWord (o : Op) (w : Body) (up : Ctx → Except Nat TbUp) (release : Bool) (s : State) : Out :=
  entityWord o w (fun s c =>
    let off := c.uval w w.a
    match up c, c.scratchAt off 16 16 true with
    | .error f, _ => s.misuse c f
    | .ok _, some (cause, info) => s.trapWord c cause info
    | .ok u, none =>
      let rels := if release then [(1, c.g.snapshot c.m.crew c.m.grp s.nextSeq)] else []
      let s1 := s.tbUpdate (c.crew.agent c.m.grp) s.nextSeq (tbKey c.m.crew off) u rels
      .next (s1.issued c w.hdr)) s

/-- TBINIT. -/
def execTbinit (w : Body) (s : State) : Out :=
  tbWord .tbinit w (fun c =>
    let n := c.uval w w.b
    if n = 0 ∨ 0xFFFFF < n then .error (fieldOf w.b 54) else .ok (.init n)) false s

/-- TBEXPECT. -/
def execTbexpect (w : Body) (s : State) : Out := tbWord .tbexpect w (fun c => .ok (.expect (c.bytesOf w))) true s

/-- TBARRIVE. -/
def execTbarrive (w : Body) (s : State) : Out :=
  tbWord .tbarrive w (fun c => .ok (if c.bytesOf w = 0 then .arrive else .arriveB (c.bytesOf w))) true s

/-- Has a wait for a phase ended (R254)? -/
def TBar.ended (b : TBar) (phase : Nat) : Bool := b.phase != phase || b.err

/-- What TBWAIT and TBTEST write (R254). -/
def TBar.report (b : TBar) (phase : Nat) : Nat :=
  b.phase + (if b.err then 16 else 0) + 32 * b.kind + (if b.ended phase then 256 else 0)

/-- An acquire of crew scope that reads a barrier (R77). -/
def State.tbAcquire (s : State) (uid gi k : Nat) : State := s.acquire uid gi s.nextSeq (keysFrom k 16)

/-- The checks that TBWAIT and TBTEST share. -/
def tbRead (o : Op) (w : Body) (k : State → Ctx → Nat → Nat → Out) (s : State) : Out :=
  entityWord o w (fun s c =>
    let off := c.uval w w.a
    let ph := c.uval w w.b
    if 15 < ph then s.misuse c (fieldOf w.b 54)
    else match c.scratchAt off 16 16 false with
      | some (cause, info) => s.trapWord c cause info
      | none => k s c off ph) s

/-- The result of a barrier read, with the acquire when the wait has ended. -/
def State.tbDone (s : State) (c : Ctx) (h : Hdr) (dst : Opnd) (k ph : Nat) : State :=
  let b := s.tbar k
  let s1 := s.writeInterlocked c h (sWrite dst (b.report ph))
  if b.ended ph then s1.tbAcquire c.m.crew c.m.grp k else s1

/-- TBWAIT. -/
def execTbwait (w : Body) (s : State) : Out :=
  tbRead .tbwait w (fun s c off ph =>
    if (s.tbar (tbKey c.m.crew off)).ended ph then .next (s.tbDone c w.hdr w.dst (tbKey c.m.crew off) ph)
    else .next (s.waits c w.hdr (.tbwait off ph))) s

/-- TBTEST. -/
def execTbtest (w : Body) (s : State) : Out :=
  tbRead .tbtest w (fun s c off ph => .next (s.tbDone c w.hdr w.dst (tbKey c.m.crew off) ph)) s

/-- TBWAIT_END. -/
def execTbwaitEnd (m : Member) (s : State) : Out :=
  match (s.ent? m).bind (·.wait), s.waiting m with
  | some (.tbwait off ph), some (_, .tbwait, w) =>
    let k := tbKey m.crew off
    let b := s.tbar k
    if b.ended ph then .next ((s.tbAcquire m.crew m.grp k).endWait m (sWrite w.dst (b.report ph)))
    else .refused (.notEnabled "TBWAIT_END")
  | _, _ => .refused (.notEnabled "TBWAIT_END")

/-! ### Crew barriers (R114, R255) -/

/-- The entities of a group that wait at a crew barrier, a handler's included. -/
def Group.barWaiters (g : Group) (n : Nat) : List Ent := (g.ents ++ (g.handler.map (·.ent)).toList).filter (fun e => e.wait == some (.bar n))

/-- Has a group arrived at a crew barrier: every live lane waits there, and its earlier accesses are visible to the crew? -/
def State.arrived (s : State) (c : Crew) (gi : Nat) (g : Group) (n : Nat) : Bool :=
  g.retired || (g.liveMask != 0 && (g.barWaiters n).foldl (fun m e => m ||| e.lanes) 0 == g.liveMask && s.releaseReady c gi g s.nextSeq 1)

/-- Has every group of a crew arrived, and does some group wait? -/
def State.barReady (s : State) (uid n : Nat) : Bool :=
  match s.crew? uid with
  | none => false
  | some c =>
    (List.range c.groups.length).all (fun gi => s.arrived c gi ((c.groups[gi]?).getD default) n) && c.groups.any (fun g => !g.retired)

/-- The barrier completes: every group acquires what precedes every group's arrival, and goes on (R114). -/
def State.barDone (s : State) (uid n : Nat) : State :=
  match s.crew? uid with
  | none => s
  | some c =>
    let seen := (c.groups.mapIdx (fun gi g => g.snapshot uid gi s.nextSeq)).flatten.eraseDups
    let s1 := (List.range c.groups.length).foldl (fun s gi => s.take uid gi s.nextSeq seen) s
    (c.groups.mapIdx (fun gi g => (gi, g))).foldl (fun s e =>
      (e.2.barWaiters n).foldl (fun s x => s.advance ⟨uid, e.1, x.idx⟩) s) s1

/-- BAR: the arrival, and the completion when it is the last one. -/
def execBar (w : Body) (s : State) : Out :=
  entityWord .bar w (fun s c =>
    let n := c.uval w w.a
    if 16 ≤ n ∨ c.crew.bars ≤ n then s.misuse c (fieldOf w.a 63)
    else
      let s1 := s.waits c w.hdr (.bar n)
      .next (if s1.barReady c.m.crew n then s1.barDone c.m.crew n else s1)) s

/-- BAR_COMPLETE. -/
def execBarComplete (crew n : Nat) (s : State) : Out :=
  if s.barReady crew n then .next (s.barDone crew n) else .refused (.notEnabled "BAR_COMPLETE")

end Sys2Proof.Machine
end

