-- ==== Sys2Proof/Machine/Copies.lean ====
section
/-!
DEFINITION. Copies (R77, R78, R106 to R109, R112, R115 to R119, R251, R252, R371): ACPY and CKICK, and the steps of the copy engines.

A copy is a run of bytes numbered from 0. Each byte has a source and a destination; the engine moves one piece at a time, a piece being the bytes that follow
one another within one sector of the destination.
-/

namespace Sys2Proof.Machine

/-! ### Requests (R107) -/

def reqKind (r : BitVec 512) : Nat := (r.extractLsb' 0 4).toNat
def reqSsp (r : BitVec 512) : Nat := (r.extractLsb' 4 2).toNat
def reqDsp (r : BitVec 512) : Nat := (r.extractLsb' 6 2).toNat
def reqDbv (r : BitVec 512) : Bool := r.getLsbD 8
def reqCmask (r : BitVec 512) : Nat := (r.extractLsb' 16 8).toNat
def reqLength (r : BitVec 512) : Nat := (r.extractLsb' 32 32).toNat
def reqSrc (r : BitVec 512) : Nat := (r.extractLsb' 64 64).toNat
def reqDst (r : BitVec 512) : Nat := (r.extractLsb' 128 64).toNat
def reqSbar (r : BitVec 512) : Nat := (r.extractLsb' 192 20).toNat
def reqDbar (r : BitVec 512) : Nat := (r.extractLsb' 256 34).toNat
def reqShape (r : BitVec 512) : Nat := (r.extractLsb' 320 64).toNat
def reqCoord (r : BitVec 512) : List Int := (List.range 6).map (fun d => toSigned 21 (r.extractLsb' (384 + 21 * d) 21).toNat)

/-- Is a request malformed in itself (R108)? -/
def badRequest (r : BitVec 512) : Bool :=
  let k := reqKind r
  decide (3 < k) || reqSsp r == 3 || reqDsp r == 3 ||
  r.extractLsb' 9 7 != 0 || r.extractLsb' 24 8 != 0 || r.extractLsb' 212 44 != 0 || r.extractLsb' 290 30 != 0 || r.extractLsb' 510 2 != 0 ||
  ((k == 0 || k == 3) && (reqLength r == 0 || decide (0x1000000 < reqLength r))) ||
  (k == 1 && reqSsp r != 0) || (k == 2 && (reqDsp r != 0 || reqDbv r)) || (k == 3 && (reqDsp r != 2 || !reqDbv r))

/-! ### Shape records (R117, R118) -/

def shNdim (x : BitVec 1536) : Nat := (x.extractLsb' 0 3).toNat
def shEfmt (x : BitVec 1536) : Nat := (x.extractLsb' 3 5).toNat
def shChunk (x : BitVec 1536) : Nat := (x.extractLsb' 8 2).toNat
def shSwen (x : BitVec 1536) : Bool := x.getLsbD 10
def shSwsrc (x : BitVec 1536) : Nat := (x.extractLsb' 11 6).toNat
def shOob (x : BitVec 1536) : Bool := x.getLsbD 17
def shFill (x : BitVec 1536) : Nat := (x.extractLsb' 32 32).toNat
def shBase (x : BitVec 1536) : Nat := (x.extractLsb' 64 64).toNat
def shExt (x : BitVec 1536) (d : Nat) : Nat := (x.extractLsb' (128 + 32 * d) 32).toNat
def shStr (x : BitVec 1536) (d : Nat) : Nat := (x.extractLsb' (320 + 64 * (d - 1)) 64).toNat
def shTile (x : BitVec 1536) (d : Nat) : Nat := (x.extractLsb' (640 + 16 * d) 16).toNat
def shScale (x : BitVec 1536) : Nat := (x.extractLsb' 736 64).toNat
def shBmap (x : BitVec 1536) : Nat := (x.extractLsb' 800 64).toNat
def shSstr (x : BitVec 1536) (d : Nat) : Nat := (x.extractLsb' (864 + 32 * (d - 1)) 32).toNat
def shBstr (x : BitVec 1536) (d : Nat) : Nat := (x.extractLsb' (1024 + 32 * (d - 1)) 32).toNat

/-- Bits of an element of an EFMT code (R117). -/
def efmtBits (f : Nat) : Nat :=
  match f with
  | 0 | 1 | 7 | 8 | 9 | 10 => 8
  | 2 | 5 | 6 => 16
  | 3 | 4 => 32
  | 11 => 4
  | _ => 64

/-- The rows of a tile: all dimensions but the first. -/
def shRows (x : BitVec 1536) : Nat := ((List.range 5).map (fun d => shTile x (d + 1))).foldl (· * ·) 1

/-- Bytes of a row of elements. -/
def rowBytes (x : BitVec 1536) : Nat := shTile x 0 * efmtBits (shEfmt x) / 8

/-- Bytes of the run of elements. -/
def elemRun (x : BitVec 1536) : Nat := rowBytes x * shRows x

/-- Bytes of the run of scales. -/
def scaleRun (x : BitVec 1536) : Nat := if efmtBlock (shEfmt x) then shTile x 0 / 32 * shRows x else 0

/-- Bitmap bytes of a row: those that hold a coordinate of the row. -/
def bmapRow (x : BitVec 1536) (c0 : Int) : Nat := ((c0 + shTile x 0 - 1) / 8 - c0 / 8 + 1).toNat

/-- Bytes of the run of bitmaps. -/
def bmapRun (x : BitVec 1536) (c0 : Int) : Nat := if shBmap x = 0 then 0 else bmapRow x c0 * shRows x

/-- The bytes that a tile counts. -/
def tileCount (x : BitVec 1536) (c0 : Int) : Nat := elemRun x + scaleRun x + bmapRun x c0

/-- Is a shape record malformed for a tile origin (R116, R118)? -/
def badShape (x : BitVec 1536) (coord : List Int) : Bool :=
  let n := shNdim x
  let c0 := coord.headD 0
  n == 0 || n == 7 || decide (12 < shEfmt x) || x.extractLsb' 18 14 != 0 || x.extractLsb' 1184 352 != 0 ||
  (List.range 6).any (fun d => shTile x d == 0 || (decide (n ≤ d) && decide (1 < shTile x d))) ||
  (efmtBlock (shEfmt x) && (c0 % 32 != 0 || shTile x 0 % 32 != 0)) ||
  !swizzleOk (shSwen x) (shChunk x) (shSwsrc x) || decide (0x1000000 < tileCount x c0)

/-- The coordinate of a row in the dimensions from 1 on. -/
def rowCoord (x : BitVec 1536) (coord : List Int) (row : Nat) : List (Nat × Int) :=
  ((List.range 5).foldl (fun (r : Nat × List (Nat × Int)) d =>
    let t := shTile x (d + 1)
    (r.1 / t, r.2 ++ [(d + 1, (coord[d + 1]?).getD 0 + (r.1 % t : Nat))])) (row, [])).2

/-- Does a row lie inside the tensor in the dimensions that the record has? -/
def rowIn (x : BitVec 1536) (rc : List (Nat × Int)) : Bool :=
  rc.all (fun c => decide (shNdim x ≤ c.1) || (decide (0 ≤ c.2) && decide (c.2 < shExt x c.1)))

/-- The offset of a row under strides. -/
def rowOff (x : BitVec 1536) (rc : List (Nat × Int)) (str : BitVec 1536 → Nat → Nat) : Int :=
  (rc.filter (fun c => decide (c.1 < shNdim x))).foldl (fun a c => a + c.2 * str x c.1) 0

/-- Where the memory side of a byte of a tile lies. -/
inductive TileByte where
  | mem (va : Nat)
  | half (va : Nat)
  | outside (fill : Option Byte) (va : Nat)
  deriving DecidableEq, Repr, Inhabited

/-- Byte b of the fill pattern of elements (R117). -/
def fillByte (x : BitVec 1536) (b : Nat) : Byte :=
  let w := efmtBits (shEfmt x)
  if w = 4 then BitVec.ofNat 8 (shFill x % 16 * 17)
  else if w = 64 then BitVec.ofNat 8 (if b % 8 < 4 then shFill x >>> (8 * (b % 8)) else 0)
  else BitVec.ofNat 8 (shFill x >>> (8 * (b % (w / 8))))

/-- The packed offset, before the swizzle, and the memory side of byte i of a tile (R118). -/
def tileByte (x : BitVec 1536) (coord : List Int) (i : Nat) : Nat × TileByte :=
  let c0 := coord.headD 0
  let e := elemRun x
  let sc := scaleRun x
  if i < e then
    let rc := rowCoord x coord (i / rowBytes x)
    let b := i % rowBytes x
    let w := efmtBits (shEfmt x)
    let c : Int := c0 + (8 * b / w : Nat)
    let va := wrap 64 (shBase x + rowOff x rc shStr + (c0 * w / 8 + b))
    let ok := rowIn x rc && decide (0 ≤ c) && decide (c < shExt x 0)
    (i, if !ok then .outside (some (fillByte x b)) va else if w = 4 ∧ c + 1 = shExt x 0 then .half va else .mem va)
  else if i < e + sc then
    let j := i - e
    let n := shTile x 0 / 32
    let rc := rowCoord x coord (j / n)
    let c : Int := c0 + 32 * (j % n : Nat)
    let va := wrap 64 (shScale x + rowOff x rc shSstr + c / 32)
    (roundUp e 16 + j, if rowIn x rc && decide (0 ≤ c) && decide (c < shExt x 0) then .mem va else .outside none va)
  else
    let j := i - e - sc
    let n := bmapRow x c0
    let rc := rowCoord x coord (j / n)
    let c : Int := c0 / 8 + (j % n : Nat)
    let va := wrap 64 (shBmap x + rowOff x rc shBstr + c)
    (roundUp (roundUp e 16 + sc) 16 + j, if rowIn x rc && decide (0 ≤ c) && decide (8 * c < shExt x 0) then .mem va else .outside none va)

/-- The offset in a packed tile after the swizzle (R116). -/
def packedOff (x : BitVec 1536) (o : Nat) : Nat := if shSwen x then swizzle o (shChunk x) (shSwsrc x) else o

/-! ### The bytes of a copy -/

/-- One end of one byte of a copy; a byte that fails with kind 2 keeps the address that it names (R112). -/
inductive End where
  | virt (va : Nat)
  | half (va : Nat)
  | at_ (p : Place)
  | value (b : Byte)
  | free
  | nothing
  | bounds (a : Nat)
  deriving DecidableEq, Repr, Inhabited

/-- A byte of a side. -/
def State.sideEnd (s : State) (x : Side) (i : Nat) : End :=
  match x with
  | .virt va => .virt ((va + i) % 2 ^ 64)
  | .scratch u off => match s.sidePlace (.scratch u off) i 1 with
    | some p => .at_ p
    | none => .bounds (off + i)
  | .onchip owners addr => match s.sidePlace (.onchip owners addr) i 1 with
    | some p => .at_ p
    | none => .bounds (addr + i)

/-- The memory end of a byte of a tile: out-of-range elements are filled or dropped, or recorded as kind 2 (R117, R118). -/
def tileEnd (x : BitVec 1536) (write : Bool) (t : TileByte) : End :=
  match t with
  | .mem va => .virt va
  | .half va => if shOob x then .bounds va else .half va
  | .outside f va =>
    if shOob x then .bounds va
    else if write then .nothing
    else match f with
      | some b => .value b
      | none => .free

/-- An end of a lane's copy. -/
def spotEnd (o : Option Spot) (i : Nat) (none_ : End) : End :=
  match o with
  | none => none_
  | some (.virt va) => .virt (va + i)
  | some (.at_ p) => .at_ (p.add i)

/-- Bytes of a copy, all its destinations one after the other. -/
def CopyBody.total (b : CopyBody) : Nat :=
  match b with
  | .linear _ _ len => len
  | .tile _ x coord _ => tileCount x (coord.headD 0)
  | .multi _ dsts len => len * dsts.length
  | .lanes l => l.foldl (fun n x => n + x.size) 0

/-- Does a line on the memory side of a tile hold an out-of-range element that OOBMODE 1 records: the line then fails as a whole (R112, R117)? -/
def oobLine (x : BitVec 1536) (coord : List Int) (line : Nat) : Bool :=
  shOob x && (List.range (tileCount x (coord.headD 0))).any (fun i => match (tileByte x coord i).2 with
    | .half va | .outside _ va => va / 256 == line
    | .mem _ => false)

/-- The memory end of a byte of a tile whose line fails for an out-of-range element. -/
def oobEnd (x : BitVec 1536) (coord : List Int) (e : End) : End :=
  match e with
  | .virt va => if oobLine x coord (va / 256) then .bounds va else e
  | _ => e

/-- The source end and the destination end of byte i. -/
def State.copyEnds (s : State) (b : CopyBody) (i : Nat) : End × End :=
  match b with
  | .linear src dst _ => (s.sideEnd src i, s.sideEnd dst i)
  | .tile toMem x coord side =>
    let t := tileByte x coord i
    let p := s.sideEnd side (packedOff x t.1)
    if toMem then (p, tileEnd x true t.2) else (tileEnd x false t.2, p)
  | .multi src dsts len =>
    (s.sideEnd src (i % len), match dsts[i / len]? with
      | some d => s.sideEnd d.2.1 (i % len)
      | none => .bounds 0)
  | .lanes l =>
    let n := (l.headD default).size
    match l[i / n]? with
    | some x => (spotEnd x.src (i % n) (.value 0), spotEnd x.dst (i % n) .nothing)
    | none => (.bounds 0, .bounds 0)

/-- The ends of byte i as the engine moves it: every byte of a line that fails for an out-of-range element fails with it (R112). -/
def State.moveEnds (s : State) (b : CopyBody) (i : Nat) : End × End :=
  let e := s.copyEnds b i
  match b with
  | .tile toMem x coord _ => if toMem then (e.1, oobEnd x coord e.2) else (oobEnd x coord e.1, e.2)
  | _ => e

/-- The address of a destination byte in the space in which sectors count, none where nothing is written. -/
def endAddr (e : End) : Option (Nat × Nat) :=
  match e with
  | .virt va => some (0, va)
  | .at_ (.mem k) => some (1 + k % 8, k / 8)
  | .at_ (.vreg c g r l b) => some (9 + (c * 16 + g) * 256 + r, 8 * l + b)
  | _ => none

/-- Do the next byte of a copy and this one lie side by side in one sector of its destination? -/
def State.joined (s : State) (b : CopyBody) (i : Nat) : Bool :=
  match endAddr (s.copyEnds b i).2, endAddr (s.copyEnds b (i + 1)).2 with
  | some x, some y => x.1 == y.1 && x.2 + 1 == y.2 && x.2 / 64 == y.2 / 64 && decide (i + 1 < b.total)
  | _, _ => false

/-- Is (off, len) one piece of a copy, or a run of bytes that go nowhere? Each lane of an ACPY and each destination of a multicast is apart. -/
def State.pieceOk (s : State) (b : CopyBody) (off len : Nat) : Bool :=
  let unit := match b with
    | .multi _ _ len => len
    | .lanes l => (l.headD default).size
    | b => b.total
  decide (0 < len) && decide (off + len ≤ b.total) && decide (off / unit = (off + len - 1) / unit) &&
  (if (List.range len).all (fun j => (endAddr (s.copyEnds b (off + j)).2).isNone) then true
   else
    (List.range (len - 1)).all (fun j => s.joined b (off + j)) &&
    (decide (off % unit = 0) || !s.joined b (off - 1)) && (decide ((off + len) % unit = 0) || !s.joined b (off + len - 1)))

/-! ### Moving a piece (R77, R108, R112) -/

/-- Translate and check one line of an engine's access (R58, R87, R88, R354). -/
def State.engineLine (s : State) (q : XReq) (va : Nat) (bad : List Nat) (held : State → PLoc → Nat → Bool) : State × LineRes :=
  if bad.contains (va / 256) then (s, .err 1)
  else
    let t := s.translate q (va / 256 * 256) ((s.freeWord 0).getLsbD 0) ((s.freeWord 0).getLsbD 1)
    match t.2 with
    | .wait => (s, .wait)
    | .fault k => (t.1, .ask k)
    | .lost _ => (t.1, .err 4)
    | .ok l pa =>
      if t.1.aboveCap l pa then (t.1, .err 3)
      else if held t.1 l pa then (t.1, .wait)
      else (t.1, .ok l (pa + va % 256))

/-- The lines of a piece, each with whether it is written. -/
def pieceLines (l : List (End × End)) : List (Nat × Bool) :=
  (l.flatMap (fun e =>
    (match e.1 with
     | .virt va | .half va => [(va / 256, false)]
     | _ => []) ++
    (match e.2 with
     | .virt va | .half va => [(va / 256, true)]
     | _ => []))).eraseDups

/-- The checked lines of a piece: each line of a copy is translated and checked once (R354). -/
def State.checkLines (s : State) (c : Copy) (cr : Crew) (lines : List (Nat × Bool)) : State × List ((Nat × Bool) × LineRes) :=
  lines.foldl (fun r x =>
    match c.lines.find? (fun y => y.1 == x) with
    | some y => (r.1, r.2 ++ [y])
    | none =>
      let y := r.1.engineLine ⟨cr.core, cr.uid, cr.part, x.2, false, c.grp⟩ (256 * x.1) ((c.bad.filter (fun b => b.2 == x.2)).map (·.1)) (fun _ _ _ => false)
      (y.1, r.2 ++ [(x, y.2)])) (s, [])

/-- Does a checked line wait: for its walk, or at the map point (R84)? -/
def LineRes.waits (r : LineRes) (s : State) (held : State → PLoc → Nat → Bool) : Bool :=
  match r with
  | .wait => true
  | .ok l pa => held s l pa
  | _ => false

/-- The place of a virtual byte among checked lines. -/
def linePlace (rs : List ((Nat × Bool) × LineRes)) (va : Nat) (write : Bool) : Except Nat Place :=
  match ((rs.find? (fun r => r.1 == (va / 256, write))).map (·.2) : Option LineRes) with
  | some (.ok l pa) => .ok (.mem (plocKey l (pa + va % 256)))
  | some (.err k) => .error k
  | _ => .error 1

/-- One byte of a piece: its value and its destination, or the error kind that leaves it unwritten. -/
inductive Moved where
  | write (p : Place) (b : Byte)
  | skip
  | fail (kind : Nat)
  deriving DecidableEq, Repr, Inhabited

/-- The byte at a place that a copy reads: as its group reads, at some time since the accesses before the copy have performed (R77, R78). -/
def State.copyByte (s : State) (r : Agent) (c : Copy) (p : Place) (i : Nat) : Byte :=
  match p with
  | .mem k => ((s.spanRead r (fun d => d.earlyTo r c.mark c.seq) [k] (s.freeWord (8 + i)).toNat).headD 0)
  | p => s.readPlace r p

/-- The source of a byte: its value or an error kind. -/
def State.sourceByte (s : State) (r : Agent) (c : Copy) (rs : List ((Nat × Bool) × LineRes)) (x : BitVec 1536) (e : End) (i : Nat) : Except Nat Byte :=
  let at_ := fun (p : Place) => if (s.badPlace (some p) 1).isSome then .error 6 else .ok (s.copyByte r c p i)
  match e with
  | .value b => .ok b
  | .free => .ok ((s.freeWord (4096 + i)).setWidth 8)
  | .nothing => .ok 0
  | .bounds _ => .error 2
  | .at_ p => at_ p
  | .virt va => match linePlace rs va false with
    | .ok p => at_ p
    | .error k => .error k
  | .half va => match linePlace rs va false with
    | .ok p => (match at_ p with
      | .ok b => .ok ((b &&& 0x0F) ||| (fillByte x 0 &&& 0xF0))
      | .error k => .error k)
    | .error k => .error k

/-- Move one byte. -/
def State.moveByte (s : State) (r : Agent) (c : Copy) (rs : List ((Nat × Bool) × LineRes)) (x : BitVec 1536) (e : End × End) (i : Nat) : Moved :=
  match e.2 with
  | .nothing => .skip
  | .bounds _ => .fail 2
  | d =>
    let dst : Except Nat (Place × Bool) := match d with
      | .at_ p => .ok (p, false)
      | .virt va => (linePlace rs va true).map (fun p => (p, false))
      | .half va => (linePlace rs va true).map (fun p => (p, true))
      | _ => .error 2
    match s.sourceByte r c rs x e.1 i, dst with
    | .error k, _ => .fail k
    | _, .error k => .fail k
    | .ok b, .ok (p, halfB) =>
      let old := match p with
        | .mem k => s.latestKey k
        | p => s.readPlace r p
      .write p (if halfB then (b &&& 0x0F) ||| (old &&& 0xF0) else b)

/-- The shape record of a copy. -/
def CopyBody.shape (b : CopyBody) : BitVec 1536 :=
  match b with
  | .tile _ x _ _ => x
  | _ => 0

/-- The barrier on which a destination counts bytes as they arrive: SBAR, or its own DBAR (R108). -/
def Copy.arriveKeys (c : Copy) (off : Nat) : List Nat :=
  let sk := tbKey c.crew c.sbar
  let dk := fun (p : Option Place) => match p with
    | some (.mem k) => [k]
    | _ => []
  match c.body with
  | .linear _ _ _ => if c.dbv then dk c.dbar else [sk]
  | .tile _ _ _ _ => sk :: (if c.dbv then dk c.dbar else [])
  | .multi _ dsts len => dk ((dsts[off / len]?).bind (·.2.2))
  | .lanes _ => [sk]

/-- The bytes that SBAR counts once everything has arrived (R108). -/
def Copy.finalCount (c : Copy) : Nat :=
  match c.body with
  | .linear _ _ len => if c.dbv then len else 0
  | .multi _ _ len => len
  | _ => 0

/-- The level at which an engine's write is visible to the crews that own these barriers (R77). -/
def State.engineLevel (s : State) (cr : Crew) (keys : List Nat) : Nat :=
  keys.foldl (fun n k =>
    match s.crew? (k / 8 / 2 ^ 20) with
    | some o => max n (joinScope cr.engine (o.agent 0))
    | none => n) 1

/-- Record an error on a barrier. -/
def State.copyError (s : State) (cr : Crew) (seq k kind : Nat) : State := s.tbUpdate cr.engine seq k (.error kind) []

/-- Count bytes down on a barrier; the engine's writes that they stand for are noted first (R77). -/
def State.copyCount (s : State) (cr : Crew) (seq k n : Nat) (ids : List Nat) : State :=
  if n = 0 then s
  else ({ s with counted := s.counted ++ ids.map (fun i => (k, i, false)) } : State).tbUpdate cr.engine seq k (.count n) []

/-- Change a copy. -/
def State.modCopy (s : State) (core slot : Nat) (f : Copy → Copy) : State :=
  s.modCore core (fun k => { k with copies := k.copies.map (fun c => if c.slot = slot then f c else c) })

/-- The copy in a slot. -/
def State.copy? (s : State) (core slot : Nat) : Option Copy := (s.core core).copies.find? (fun c => c.slot == slot)

/-- Has every byte of a copy arrived or failed? -/
def Copy.finished (c : Copy) : Bool := decide (c.body.total ≤ c.runs.foldl (fun n r => n + r.2.1) 0)

/-- The copy retires: its last count, its slot and its scoreboard entries (R106, R115). -/
def State.retireCopy (s : State) (core slot : Nat) : State :=
  match s.copy? core slot with
  | none => s
  | some c =>
    if !c.finished then s
    else
      let s1 := match s.crew? c.crew with
        | some cr => s.copyCount cr c.seq (tbKey c.crew c.sbar) c.finalCount c.wrote
        | none => s
      (s1.modCore core (fun k => { k with copies := k.copies.filter (fun x => x.slot != slot) })).settleMem

/-- The failing lines of a piece: the line, the error kind and the access code; of kind 6 the location of the physical line (R112, R362). -/
def State.failLines (s : State) (ends : List (End × End)) (rs : List ((Nat × Bool) × LineRes)) : List (Nat × Nat × Nat) :=
  let lines := rs.filterMap (fun r => match r.2 with
    | .err k => if k = 3 ∨ k = 4 then some (r.1.1, k, if r.1.2 then 5 else 4) else none
    | _ => none)
  let moved := ends.filter (fun e => e.2 != .nothing)
  let bounds := moved.flatMap (fun e =>
    (match e.1 with
     | .bounds a => [(a / 256, 2, 4)]
     | _ => []) ++
    (match e.2 with
     | .bounds a => [(a / 256, 2, 5)]
     | _ => []))
  let dirty := moved.filterMap (fun e => (match e.1 with
    | .at_ p => s.badPlace (some p) 1
    | .virt va | .half va => (match linePlace rs va false with
      | .ok p => s.badPlace (some p) 1
      | .error _ => none)
    | _ => none).map (fun k => (k / 2048 * 2048 + k % 8, 6, 4)))
  (lines ++ bounds ++ dirty).eraseDups

/-- Post a record for each line that fails, once for a copy (R112, R372). -/
def State.reportLines (s : State) (c : Copy) (l : List (Nat × Nat × Nat)) : State :=
  (l.filter (fun f => !c.told.contains (f.1, f.2.1))).foldl (fun s f =>
    match f.2.1 with
    | 2 => s.report c.crew c.grp (256 * f.1) 0x10 f.2.2
    | 3 => s.report c.crew c.grp (256 * f.1) 0x11 f.2.2
    | 4 => s.report c.crew c.grp (256 * f.1) 0x12 f.2.2
    | _ => s.reportPhys c.crew c.grp f.1 f.2.2) s

/-- Has a higher lane of an ACPY written a byte already: its value stands, whichever addresses lead there (R70, R109)? -/
def Copy.overtaken (c : Copy) (off : Nat) (p : Place) : Bool :=
  match c.body with
  | .lanes l =>
    let n := (l.headD default).size
    (List.range l.length).any (fun k => decide (off / n < k) && c.runs.any (fun r => r.1 == k * n && r.2.2 == 0) &&
      (match (l[k]?).bind (·.dst) with
       | some (.at_ q) => p.overlap 1 q n
       | some (.virt va) => (match linePlace c.lines va true with
         | .ok q => p.overlap 1 q n
         | .error _ => false)
       | none => false))
  | _ => false

/-- The piece is written, and its bytes and errors reach the barriers. -/
def State.landPiece (s : State) (cr : Crew) (core : Nat) (c : Copy) (off len : Nat) (ends : List (End × End))
    (rs : List ((Nat × Bool) × LineRes)) : State :=
  let me := cr.agent c.grp
  let mv := ends.mapIdx (fun i e => s.moveByte me c rs c.body.shape e i)
  let stored := mv.filterMap (fun m => match m with
    | .write p b => if c.overtaken off p then none else some (p, b)
    | _ => none)
  let cells := stored.filterMap (fun e => match e.1 with
    | .mem k => some (k, e.2)
    | _ => none)
  let errs := (mv.filterMap (fun m => match m with
    | .fail k => some k
    | _ => none)).eraseDups
  let keys := c.arriveKeys off
  let level := s.engineLevel cr (tbKey c.crew c.sbar :: keys)
  let bad := s.failLines ends rs
  let s2 := (s.reportLines c bad).nextFree
  let id := s2.nextSeq
  let s3 := s2.append cr.engine c.seq level cells []
  let s3 := if 4 ≤ level then s3.wake (cells.map (·.1)) else s3
  let s4 := stored.foldl (fun s e => match e.1 with
    | .mem _ => s
    | p => s.pokeReg p e.2) s3
  let s5 := errs.foldl (fun s k => s.copyError cr c.seq (tbKey c.crew c.sbar) k) s4
  let s6 := keys.foldl (fun s k => s.copyCount cr c.seq k len (if cells = [] then [] else [id])) s5
  (s6.modCopy core c.slot (fun x =>
    { x with
      runs := x.runs ++ [(off, len, errs.headD 0)]
      lines := x.lines ++ rs.filter (fun r => x.lines.all (fun y => y.1 != r.1))
      told := (x.told ++ bad.map (fun f => (f.1, f.2.1))).eraseDups
      wrote := if cells = [] then x.wrote else x.wrote ++ [id] })).retireCopy core c.slot

/-- May a piece of a copy move: it has not moved, and every earlier access of the group has performed or drained (R77)? -/
def State.pieceReady (s : State) (c : Copy) (off len : Nat) : Bool :=
  s.pieceOk c.body off len &&
  (c.runs.map (fun r => (r.1, r.2.1)) ++ c.asked.map (fun r => (r.1, r.2.1))).all (fun r => decide (r.1 + r.2 ≤ off) || decide (off + len ≤ r.1)) &&
  (match s.group? c.crew c.grp with
   | some g => g.doneBefore c.seq
   | none => false)

/-- Has byte i of a copy moved? -/
def Copy.moved (c : Copy) (i : Nat) : Bool := c.runs.any (fun r => decide (r.1 ≤ i) && decide (i < r.1 + r.2.1))

/-- The sector of a destination byte. -/
def State.sectorOf (s : State) (b : CopyBody) (i : Nat) : Option (Nat × Nat) := (endAddr (s.copyEnds b i).2).map (fun a => (a.1, a.2 / 64))

/-- Has a copy written some of its bytes in a sector and not the others? -/
def State.halfDone (s : State) (d : Copy) (sec : Nat × Nat) : Bool :=
  let l := (List.range d.body.total).filter (fun i => s.sectorOf d.body i == some sec)
  l.any d.moved && !l.all d.moved

/-- May a copy enter a sector: no other copy has written it in part, so that the sector ends wholly from one of them (R90)? -/
def State.sectorFree (s : State) (core : Nat) (c : Copy) (off : Nat) : Bool :=
  match s.sectorOf c.body off with
  | none => true
  | some sec =>
    (List.range s.cores.length).all (fun k => (s.core k).copies.all (fun d =>
      (k == core && d.slot == c.slot) || !c.ranges.any (fun r => d.ranges.any (fun x => r.2.meets x.2)) || !s.halfDone d sec))

/-- The places of a piece's bytes, as far as they are known. -/
def piecePlaces (ends : List (End × End)) (rs : List ((Nat × Bool) × LineRes)) : List Place :=
  let at_ := fun (e : End) (w : Bool) => match e with
    | .at_ p => some p
    | .virt va | .half va => (linePlace rs va w).toOption
    | _ => none
  ends.flatMap (fun e => (at_ e.1 false).toList ++ (at_ e.2 true).toList)

/-- Does a line of a copy wait for a verdict already, as it is read or written (R364)? -/
def State.lineAsked (s : State) (c : Copy) (line : Nat × Bool) : Bool :=
  c.asked.any (fun a => a.2.2.2 == line.2 && s.asked.any (fun q => q.1 == a.2.2.1 && q.2.2 / 256 == line.1))

/-- Move a piece: translate its lines, ask about a fault, once for each line, else land it; none while it may not move. -/
def State.movePiece (s : State) (core slot off len : Nat) (held : State → PLoc → Nat → Bool) : Option State :=
  match s.copy? core slot with
  | none => none
  | some c =>
    match s.crew? c.crew with
    | none => none
    | some cr =>
      if !s.pieceReady c off len || !s.sectorFree core c off then none
      else
        let ends := (List.range len).map (fun j => s.moveEnds c.body (off + j))
        let r := s.checkLines c cr (pieceLines ends)
        if r.2.any (fun x => x.2.waits r.1 held) || (piecePlaces ends r.2).any (fun p => s.returnedAt p 1) then none
        else match r.2.findSome? (fun x => match x.2 with
          | .ask k => some (x.1, k)
          | _ => none) with
        | some (ln, k) =>
          if s.lineAsked c ln then none else
          let a := r.1.nextFree.ask (.copy core slot off len) c.crew c.grp (256 * ln.1) k (if ln.2 then 5 else 4)
          some (a.1.modCopy core slot (fun x => { x with asked := x.asked ++ [(off, len, a.2, ln.2)] }))
        | none => some (r.1.landPiece cr core c off len ends r.2)

/-! ### ACPY (R109, R251) -/

/-- The end that an address gives. -/
def spotOf (a : LaneAddr) : Option Spot :=
  match a with
  | .virt va => some (.virt va)
  | .chip p => some (.at_ p)
  | _ => none

/-- A copy enters a free in-flight slot of a core (R106). -/
def State.addCopy (s : State) (core : Nat) (c : Copy) : State :=
  let used := (s.core core).copies.map (·.slot)
  let slot := ((List.range 128).find? (fun i => !used.contains i)).getD 128
  s.modCore core (fun k => { k with copies := k.copies ++ [{ c with slot := slot }] })

/-- ACPY: every lane's addresses and the barrier are checked, and the copy is accepted. -/
def execAcpy (w : Body) (s : State) : Out :=
  s.begin (.acpy w) (fun s c =>
    let act := c.active w.hdr 0
    if act = 0 then .next (s.issued c w.hdr)
    else
      let sbar := c.uval w w.dst
      let ends := (lanesOf act).map (fun l => (l, s.acpyLane c w l))
      let bar : LaneAddr := match c.scratchAt sbar 16 16 true with
        | some (cause, info) => .bad cause info
        | none => .drop
      match firstFault ((0, bar) :: ends.flatMap (fun e => [(e.1, e.2.1), (e.1, e.2.2)])) with
      | some (cause, info) => s.trapWord c cause info
      | none =>
        let n := memSize w.ty
        let cp : Copy := ⟨0, c.m.crew, c.m.grp, s.nextSeq, .lanes (ends.map (fun e => ⟨e.1, n, spotOf e.2.1, spotOf e.2.2⟩)), sbar, false, none, [], [], [],
          s.acpyRanges c w act, [], [], [], s.nextSeq⟩
        let s1 := ({ s with nextSeq := s.nextSeq + 1 } : State).addCopy c.crew.core cp
        .next (s1.issued c w.hdr))

/-! ### CKICK and the engine's reads (R106, R252) -/

/-- CKICK. -/
def execCkick (w : Body) (s : State) : Out :=
  entityWord .ckick w (fun s c =>
    let off := c.uval w w.a
    let n := c.uval w w.b
    if n = 0 ∨ 64 < n then s.misuse c (fieldOf w.b 54)
    else match c.scratchAt off 64 (64 * n) false with
      | some (cause, info) => s.trapWord c cause info
      | none =>
        let s1 := ({ s with nextSeq := s.nextSeq + 1 } : State).modCrew c.m.crew
          (fun x => { x with kicks := x.kicks ++ [⟨c.m.grp, s.nextSeq, off, n⟩] })
        .next (s1.issued c w.hdr)) s

/-- KICK_READ_COMPLETE: the requests of a crew's oldest kick have been read as loads of its group, and the kick is no longer outstanding. -/
def execKickReadComplete (crew : Nat) (s : State) : Out :=
  match s.crew? crew with
  | none => .refused (.notEnabled "KICK_READ_COMPLETE")
  | some c =>
    match c.kicks with
    | [] => .refused (.notEnabled "KICK_READ_COMPLETE")
    | k :: rest =>
      if c.phase = .resident ∧ ((c.groups[k.grp]?).map (fun g => g.doneBefore k.seq)).getD false then
        let reqs := (List.range k.count).map (fun i =>
          let off := k.off + 64 * i
          (⟨crew, k.grp, k.seq, off, BitVec.ofNat 512 (s.readNum (c.agent k.grp) (.mem (scratchKey crew off)) 64), none, false⟩ : CopyReq))
        .next ((s.modCrew crew (fun c => { c with kicks := rest })).modCore c.core (fun x => { x with reqs := x.reqs ++ reqs }))
      else .refused (.notEnabled "KICK_READ_COMPLETE")

/-! ### Accepting a request (R106 to R108, R118, R119) -/

/-- A side of a request. -/
def State.sideOf (s : State) (cr : Crew) (space addr : Nat) : Side :=
  match space with
  | 0 => .virt addr
  | 1 => .scratch cr.uid addr
  | _ => .onchip (s.ownersAt cr addr) addr

/-- The barrier of a destination crew, none where the address names no barrier that the crew may reach (R107). -/
def State.dbarAt (s : State) (cr : Crew) (addr : Nat) : Option Place :=
  if addr % 16 ≠ 0 ∨ addr % 0x4000000 < 0x2000000 ∨ 0x3000000 ≤ addr % 0x4000000 then none else s.onchipFor cr addr 16

/-- The address with its core field, bits 33:26, replaced; the bits above stay, and an address with a nonzero one is invalid (R61, R108). -/
def withCore (addr core : Nat) : Nat := addr / 0x400000000 * 0x400000000 + core * 0x4000000 + addr % 0x4000000

/-- What reading a shape record gives. -/
inductive ShapeRes where
  | got (x : BitVec 1536)
  | err (kind : Nat)
  | ask (va kind : Nat)
  | wait
  deriving DecidableEq, Repr, Inhabited

/-- May a group use a record that the cache holds: it was read since the group's last RFENCE and its last RECLD of that record, and it is what the group would have
read then (R81, R119, R245)? -/
def RecE.usable (e : RecE) (g : Group) (me : Nat × Nat) : Bool :=
  decide (g.recMark ≤ e.read) && g.recMarks.all (fun r => r.1 != e.va || decide (r.2 ≤ e.read)) && e.seen.contains me

/-- Read a shape record through the core's record cache (R81, R119). -/
def State.readShape (s : State) (cr : Crew) (gi va : Nat) (bad : Bool) (held : State → PLoc → Nat → Bool) : State × ShapeRes :=
  let g := (s.group? cr.uid gi).getD default
  match (s.core cr.core).recs.find? (fun e => e.part == cr.part && e.va == va && e.usable g (cr.uid, gi)) with
  | some e =>
    (({ s with nextSeq := s.nextSeq + 1 } : State).modCore cr.core (fun k => { k with recs := k.recs.map (fun x => if x = e then { x with used := s.nextSeq } else x) }),
     .got e.raw)
  | none =>
    if va % 64 ≠ 0 then (s, .err 5)
    else
      let lines := ([va / 256, (va + 191) / 256]).eraseDups
      let r := lines.foldl (fun (r : State × List (Nat × LineRes)) ln =>
        let y := r.1.engineLine ⟨cr.core, cr.uid, cr.part, false, false, gi⟩ (256 * ln) (if bad then lines else []) held
        (y.1, r.2 ++ [(ln, y.2)])) (s, [])
      match r.2.findSome? (fun x => match x.2 with
        | .ask k => some (x.1, k)
        | _ => none) with
      | some (ln, k) => (r.1, .ask (256 * ln) k)
      | none =>
        let places := (List.range 192).map (fun i => (linePlace (r.2.map (fun x => ((x.1, false), x.2))) (va + i) false).toOption)
        if r.2.any (fun x => x.2 == .wait) || places.any (fun p => (p.map (fun q => r.1.returnedAt q 1)).getD false) then (s, .wait)
        else match r.2.findSome? (fun x => match x.2 with
          | .err k => some (x.1, k)
          | _ => none) with
        | some (ln, k) => ((if k = 3 ∨ k = 4 then r.1.report cr.uid gi (256 * ln) (if k = 3 then 0x11 else 0x12) 7 else r.1), .err k)
        | none =>
          let bytes := places.map (fun p => (p.map (r.1.readPlace (cr.agent gi))).getD 0)
          let keys := places.filterMap (fun p => p.bind (fun q => match q with
            | .mem k => some k
            | _ => none))
          let x := BitVec.ofNat 1536 (ofBytes bytes)
          (({ r.1.noteMarks cr.uid gi 7 keys with nextSeq := r.1.nextSeq + 1 } : State).modCore cr.core (fun k => k.putRec ⟨cr.part, va, x, r.1.nextSeq, r.1.nextSeq, (cr.uid, gi) :: r.1.readers cr.core keys bytes⟩), .got x)

/-- Take a request from its core's list. -/
def State.dropReq (s : State) (core : Nat) (r : CopyReq) : State := s.modCore core (fun k => { k with reqs := k.reqs.erase r, turn := r.crew })

/-- A request that moves nothing: an error kind on its barrier (R108). -/
def State.failReq (s : State) (core : Nat) (cr : Crew) (r : CopyReq) (kind : Nat) : State :=
  (s.copyError cr r.seq (tbKey cr.uid (reqSbar r.raw)) kind).dropReq core r

/-- The request becomes a copy, which retires at once when it has no destination, when its core has a slot and the cores of its destinations have scoreboard entries (R106, R115). -/
def State.startReq (s : State) (core : Nat) (cr : Crew) (r : CopyReq) (body : CopyBody) (dbv : Bool) (dbar : Option Place) (ranges : List (Nat × Range)) : Option State :=
  if 128 ≤ (s.core core).copies.length ∨ ranges.any (fun x => decide (128 ≤ s.sbCount x.1)) then none
  else
    let cp : Copy := ⟨0, cr.uid, r.grp, r.seq, body, reqSbar r.raw, dbv, dbar, [], [], [], ranges, [], [], [], s.nextSeq⟩
    let s1 := (s.dropReq core r).addCopy core cp
    let badBar := match body with
      | .multi _ dsts _ => dsts.any (fun d => d.2.2.isNone)
      | _ => dbv && dbar.isNone
    let s2 := if badBar then s1.copyError cr r.seq (tbKey cr.uid (reqSbar r.raw)) 2 else s1
    some (if body.total = 0 then ((s2.core core).copies.getLast?.map (fun c => s2.retireCopy core c.slot)).getD s2 else s2)

/-- The destination offsets of a tile copy: packed offsets, or the addresses of the bytes that lie in the tensor. -/
def CopyBody.destOffs (b : CopyBody) : List Nat :=
  match b with
  | .tile toMem x coord _ =>
    (List.range b.total).filterMap (fun i =>
      let t := tileByte x coord i
      if toMem then (match t.2 with
        | .mem va | .half va => some va
        | .outside _ _ => none)
      else some (packedOff x t.1))
  | _ => []

/-- The least and the greatest of a list. -/
def spanOf (l : List Nat) : Option (Nat × Nat) :=
  match l with
  | [] => none
  | a :: t => some (t.foldl min a, t.foldl max a)

/-- A side from an offset on. -/
def Side.shift (x : Side) (n : Nat) : Side :=
  match x with
  | .virt va => .virt (va + n)
  | .scratch u off => .scratch u (off + n)
  | .onchip owners addr => .onchip owners (addr + n)

/-- Accept one request. -/
def State.acceptReq (s : State) (core : Nat) (cr : Crew) (r : CopyReq) (held : State → PLoc → Nat → Bool) : Option State :=
  let q := r.raw
  let dbar := if reqDbv q then s.dbarAt cr (reqDbar q) else none
  if reqSbar q % 16 ≠ 0 ∨ 1024 * cr.scrKiB < reqSbar q + 16 then
    some ((s.modGroup cr.uid r.grp (fun g => if g.retired then g else { g with atVote := g.atVote ++ [⟨none, causeBounds, BitVec.ofNat 64 r.off⟩] })).dropReq core r)
  else if badRequest q then some (s.failReq core cr r 5)
  else match reqKind q with
  | 0 =>
    let dst := s.sideOf cr (reqDsp q) (reqDst q)
    s.startReq core cr r (.linear (s.sideOf cr (reqSsp q) (reqSrc q)) dst (reqLength q)) (reqDbv q) dbar (s.sideRanges cr dst (reqLength q))
  | 3 =>
    let cores := ((List.range 8).filter (fun i => (reqCmask q).testBit i)).map (fun i => 8 * clusterOf core + i)
    let dsts := cores.map (fun k => (k, s.sideOf cr 2 (withCore (reqDst q) k), s.dbarAt cr (withCore (reqDbar q) k)))
    s.startReq core cr r (.multi (s.sideOf cr (reqSsp q) (reqSrc q)) dsts (reqLength q)) true none
      (dsts.flatMap (fun d => s.sideRanges cr d.2.1 (reqLength q)))
  | k =>
    if !((s.group? cr.uid r.grp).map (fun g => g.doneBefore r.seq)).getD false then none
    else
      let t := s.readShape cr r.grp (reqShape q) r.bad held
      match t.2 with
      | .wait => none
      | .err kind => some (t.1.failReq core cr r kind)
      | .ask va kind =>
        let a := t.1.ask (.copy core 128 r.off cr.uid) cr.uid r.grp va kind 7
        some (a.1.modCore core (fun x => { x with reqs := x.reqs.map (fun y => if y = r then { y with ask := some a.2 } else y) }))
      | .got x =>
        if badShape x (reqCoord q) then some (t.1.failReq core cr r 5)
        else
          let toMem := k = 2
          let side := if toMem then s.sideOf cr (reqSsp q) (reqSrc q) else s.sideOf cr (reqDsp q) (reqDst q)
          let coord := reqCoord q
          let body := CopyBody.tile toMem x coord side
          let ranges := match spanOf (body.destOffs) with
            | none => []
            | some (lo, hi) => if toMem then [(core, Range.virt cr.part (lo / 64 * 64) (roundUp (hi + 1) 64))] else t.1.sideRanges cr (side.shift lo) (hi + 1 - lo)
          t.1.startReq core cr r body (reqDbv q) dbar ranges

/-- The crews of a core in the order of service, from the one after the last served (R106). -/
def turnOrder (turn : Nat) (l : List Nat) : List Nat :=
  let x := sortBy (fun a b => decide (a ≤ b)) l.eraseDups
  x.filter (fun u => decide (turn < u)) ++ x.filter (fun u => decide (u ≤ turn))

/-- The request that comes next on a core: the oldest of the next crew whose oldest request does not wait for a verdict. -/
def State.nextReq (s : State) (core : Nat) : Option CopyReq :=
  let k := s.core core
  (turnOrder k.turn (k.reqs.map (·.crew))).findSome? (fun u =>
    match k.reqs.find? (fun r => r.crew == u) with
    | some r => if r.ask.isNone then some r else none
    | none => none)

end Sys2Proof.Machine
end

