-- ==== Sys2Proof/Machine/Matrix.lean ====
section
/-!
DEFINITION. Class 0x20 and the matrix queue (R125 to R142, R262 to R273): tickets, reservations, the rendezvous, and what an engine operation writes.

An operation is written when it completes; each element that it reads may be as old as its issue, and each element that its group stores to meanwhile holds
what either order gives (R79).
-/

namespace Sys2Proof.Machine

/-! ### Checks at issue -/

/-- A word of the class: nothing for an entity without lanes (R262). -/
def matWord (o : Op) (w : Body) (k : State → Ctx → Out) (s : State) : Out :=
  s.begin (o.mk w) (fun s c => if c.ent.lanes = 0 then .next (s.issued c w.hdr) else k s c)

/-- The fault of a tile: misaligned or beyond the allocation (R127). -/
def Ctx.tileFault (c : Ctx) (w : Body) : Option (BitVec 8 × Word) :=
  let u := w.tm * w.tn / 1024
  if w.tile % u ≠ 0 ∨ c.crew.accN < w.tile + u then some (causeBounds, faultInfo 0 true (4096 * w.tile)) else none

/-- Bytes of n elements of an EFMT code. -/
def efmtBytes (f n : Nat) : Nat := n * efmtBits f / 8

/-- The first run of bytes that reaches beyond a limit, by its offset. -/
def beyond (l : List (Nat × Nat)) (lim : Nat) : Option (BitVec 8 × Word) :=
  (l.find? (fun r => decide (lim < r.1 + r.2))).map (fun r => (causeBounds, faultInfo 0 false r.1))

/-- The runs of an A tile in a reservation (R130). -/
def aRuns (r : BitVec 64) (m k : Nat) (bitmap : Bool) : List (Nat × Nat) :=
  [(0, efmtBytes (resvFmt r) (m * k))] ++ (if efmtBlock (resvFmt r) then [(16 * resvSoff r, m * k / 32)] else []) ++
    (if bitmap then [(16 * resvBoff r, m * k / 8)] else [])

/-- The runs of a B tile in the weight buffer (R131, R132). -/
def bRuns (d : Word) (n k : Nat) : List (Nat × Nat) :=
  (if wdCmp d then [(16 * wdWoff d, efmtBytes (wdFmt d) (n * k) / 2), (16 * wdBmo d, n * k / 8)] else [(16 * wdWoff d, efmtBytes (wdFmt d) (n * k))]) ++
    (if efmtBlock (wdFmt d) then [(16 * wdSo d, n * k / 32)] else [])

/-- Bytes of the weight buffer. -/
def wbufSize : Nat := 393216

/-- The first of several faults. -/
def firstOf (l : List (Option (BitVec 8 × Word))) : Option (BitVec 8 × Word) := l.findSome? id

/-- The faults of MMA and MMAS after the misuses (R239, R268). -/
def Ctx.mmaFault (c : Ctx) (w : Body) (sparse : Bool) : Option (BitVec 8 × Word) :=
  let d := BitVec.ofNat 64 (c.val w.b 0 0)
  let r := match w.a with
    | .v _ => none
    | _ => c.crew.resv? (c.val w.a 0 0)
  let badR := match r with
    | some r => !resvFits r || !swizzleOk (resvSwen r) (resvChunk r) (resvSwsrc r)
    | none => false
  let badD := d.extractLsb' 54 10 != 0 || (wdCmp d && wdFmt d == 11)
  firstOf [
    if badR || badD then some (causeBadrec, faultInfo 0 false 0) else none,
    c.tileFault w,
    match r with
    | some r => beyond (aRuns r w.tm w.tk (resvBen r && !sparse)) (resvBytes r)
    | none => none,
    beyond (bRuns d w.tn w.tk) wbufSize]

/-! ### Tickets (R137, R263) -/

/-- A ticket takes a value. -/
def Group.setTicket (g : Group) (k : Nat) (t : Ticket) : Group := { g with k := g.k.set k t }

/-- An engine operation whose ticket had failed raises the recorded fault, and the ticket is idle again; any other goes on (R137). -/
def State.withTicket (s : State) (c : Ctx) (k : Nat) (f : State → Out) : Out :=
  match c.g.ticket k with
  | .failed cause info => (s.modGroup c.m.crew c.m.grp (fun g => g.setTicket k .idle)).trapWord c cause info
  | _ => f s

/-- Is the operation a WBLD? -/
def MOp.isWbld (o : MOp) : Bool :=
  match o with
  | .wbld _ _ _ => true
  | _ => false

/-- An operation joins its core's queue, and its members' tickets are busy; that its crew has issued a WBLD is noted for a restore (R369). -/
def State.accept (s : State) (core : Nat) (x : MatOp) : State :=
  let s0 := if x.op.isWbld then s.modCrew x.crew (fun c => { c with wbUsed := true }) else s
  let s1 := s0.modCore core (fun k => { k with matrix := k.matrix ++ [x] })
  x.members.foldl (fun s m => s.modGroup x.crew m.1 (fun g => g.setTicket m.2 .busy)) s1

/-- The operation of one group. -/
def Ctx.matOp (c : Ctx) (seq k : Nat) (handles : List Nat) (op : MOp) (early : List RegW) : MatOp :=
  ⟨c.m.crew, [(c.m.grp, k)], handles, op, [(c.m.grp, seq)], [c.ent.lanes], early.map (fun e => (0, e)), false, none, [], seq, [(c.m.grp, c.g.opf)]⟩

/-- An engine operation of one group is accepted and its word is over. -/
def State.engineWord (s : State) (c : Ctx) (w : Body) (handles : List Nat) (op : MOp) (early : List RegW) : Out :=
  s.withTicket c (ticketOf w.dst) (fun s =>
    let s1 : State := { s with nextSeq := s.nextSeq + 1 }
    .next ((s1.accept c.crew.core (c.matOp s.nextSeq (ticketOf w.dst) handles op early)).issued c w.hdr))

/-! ### OBRES and OBREL (R128, R264) -/

/-- Records that a core's reservation table holds. -/
def State.resvCount (s : State) (core : Nat) : Nat :=
  (s.crews.filter (fun c => c.core == core && c.phase == .resident)).foldl (fun n c => n + c.resv.length) 0

/-- Do two reservations overlap? -/
def resvMeets (a b : BitVec 64) : Bool :=
  decide (resvOff a < resvOff b + resvLen b + 1) && decide (resvOff b < resvOff a + resvLen a + 1)

/-- May the crew take this reservation? -/
def State.resvOk (s : State) (c : Crew) (r : BitVec 64) : Bool :=
  decide (c.resv.length < 8) && decide (s.resvCount c.core < 64) && decide (resvOff r + resvLen r + 1 ≤ c.obKiB) && !c.resv.any (fun x => resvMeets x.2 r)

/-- The lowest handle that a crew does not hold. -/
def Crew.freeHandle (c : Crew) : Nat := ((List.range 64).find? (fun h => c.resv.all (fun x => x.1 != h))).getD 0

/-- OBRES. -/
def execObres (w : Body) (s : State) : Out :=
  matWord .obres w (fun s c =>
    let r := BitVec.ofNat 64 (c.val w.a 0 0 % 2 ^ 60)
    if s.resvOk c.crew r then
      .next ((s.modCrew c.m.crew (fun x => { x with resv := x.resv ++ [(c.crew.freeHandle, r)] })).writeInterlocked c w.hdr (sWrite w.dst c.crew.freeHandle))
    else .next (s.writeInterlocked c w.hdr (sWrite w.dst (2 ^ 64 - 1)))) s

/-- OBREL. -/
def execObrel (w : Body) (s : State) : Out :=
  matWord .obrel w (fun s c =>
    let h := c.uval w w.a
    if (c.crew.resv? h).isNone then s.misuse c (fieldOf w.a 63)
    else .next ((s.modCrew c.m.crew (fun x => { x with resv := x.resv.filter (fun r => r.1 != h) })).issued c w.hdr)) s

/-! ### Lane access (R265, R271) -/

/-- The operand that OBST and AMST store, and the one that OBLD and AMLD load. -/
def matData (o : Op) (w : Body) : Opnd :=
  match o with
  | .obst => w.c
  | _ => w.b

/-- OBST, OBLD, AMLD and AMST: words of the ordering machine on the operand buffer and the accumulator memory. -/
def matMemWord (o : Op) (w : Body) (store : Bool) (s : State) : Out :=
  matWord o w (fun s c =>
    let n := memSize w.ty
    let as := (lanesOf c.ent.lanes).map (fun l => (l, c.matAddr o w l))
    match firstFault as with
    | some (cause, info) => s.trapWord c cause info
    | none =>
      let accs := as.filterMap (fun a => match a.2 with
        | .chip p => some (⟨a.1, 0, false, n, if store then s.dataOf c (matData o w) n a.1 else 0, 0, some p, true, 0, false, false, 0⟩ : Acc)
        | _ => none)
      let dst : MDst := match store, w.dst with
        | false, .v r => .v r.toNat (decide (n = 16))
        | _, _ => .none
      let m : MemWord := { seq := s.nextSeq, ent := c.m.ent, st := c.st, pos := c.pos, op := if store then .store else .load false, dst := dst, order := 0, scope := 0,
                           cnt := none, lds := false, clob := [], lanes := c.ent.lanes, zero := [], accs := accs, stat := .ready, blank := false }
      .next (s.addWord c w.hdr m)) s

/-- OBST. -/
def execObst (w : Body) (s : State) : Out := matMemWord .obst w true s
/-- OBLD. -/
def execObld (w : Body) (s : State) : Out := matMemWord .obld w false s
/-- AMLD. -/
def execAmld (w : Body) (s : State) : Out := matMemWord .amld w false s
/-- AMST. -/
def execAmst (w : Body) (s : State) : Out := matMemWord .amst w true s

/-! ### WBLD, AMZERO and AMCVT (R266, R272, R273) -/

/-- Is every byte of a WBLD's source valid (R60 to R62)? -/
def State.wbldSourceOk (s : State) (c : Ctx) (x : Side) (len : Nat) : Bool :=
  match x with
  | .scratch _ off => decide (off + len ≤ 1024 * c.crew.scrKiB)
  | x => (List.range (len / 16)).all (fun i => (s.sidePlace x (16 * i) 16).isSome)

/-- WBLD. -/
def execWbld (w : Body) (s : State) : Out :=
  matWord .wbld w (fun s c =>
    let dst := c.val w.a 0 0
    let src := c.val w.b 0 0
    let len := c.val w.c 0 0
    let side := c.wbldSide s w
    if len < 16 ∨ wbufSize < len then s.misuse c 45
    else match firstOf [
        if dst % 16 ≠ 0 then some (causeAlign, faultInfo 0 true dst) else none,
        if src % 16 ≠ 0 then some (causeAlign, faultInfo 0 false src) else none,
        if len % 16 ≠ 0 then some (causeAlign, faultInfo 0 false len) else none,
        if wbufSize < dst + len then some (causeBounds, faultInfo 0 true dst) else none,
        if s.wbldSourceOk c side len then none else some (causeBounds, faultInfo 0 false src)] with
      | some (cause, info) => s.trapWord c cause info
      | none => s.engineWord c w [] (.wbld dst side len) []) s

/-- AMZERO. -/
def execAmzero (w : Body) (s : State) : Out :=
  matWord .amzero w (fun s c =>
    match c.tileFault w with
    | some (cause, info) => s.trapWord c cause info
    | none => s.engineWord c w [] (.amzero w.tile w.tm w.tn) []) s

/-- The EFMT code of AMCVT's target (R117, R273). -/
def cvtFmt (ty2 : Nat) : Nat :=
  match ty2 with
  | 0 => 6
  | 1 => 5
  | 4 => 7
  | 5 => 8
  | _ => 0

/-- AMCVT. -/
def execAmcvt (w : Body) (s : State) : Out :=
  matWord .amcvt w (fun s c =>
    let h := c.val w.a 0 0
    match c.crew.resv? h with
    | none => s.misuse c 63
    | some r =>
      let f := cvtFmt w.ty2
      match firstOf [
          if resvMxb r || resvFmt r != f || !swizzleOk (resvSwen r) (resvChunk r) (resvSwsrc r) then some (causeBadrec, faultInfo 0 true 0) else none,
          c.tileFault w,
          if resvBytes r < efmtBytes f (w.tm * w.tn) then some (causeBounds, faultInfo 0 true 0) else none] with
      | some (cause, info) => s.trapWord c cause info
      | none => s.engineWord c w [h] (.amcvt w.tile w.tm w.tn f w.sat w.rnd2 r) []) s

/-! ### What a completed operation writes -/

/-- Does a store come before an operation's access for sure: of an earlier operation by the queue's order, of a member by a place in its group's program order, of any other
agent by the moment since which the operation may act (R79, R263, R271)? -/
def Drained.earlyOp (d : Drained) (cr : Crew) (x : MatOp) (places : List (Nat × Nat)) : Bool :=
  if d.writer == cr.engine ∧ d.po = 0 then true
  else match places.find? (fun q => d.writer.sameGroup (cr.agent q.1)) with
    | some q => decide (d.po < q.2)
    | none => decide (d.id < x.mark)

/-- The number at keys of a reservation as the operation reads it at some time since its issue, all of an element as old or as new; choice i is free, and a member's stores
count for sure up to its last OPFENCE (R79). -/
def State.opRead (s : State) (cr : Crew) (x : MatOp) (keys : List Nat) (i : Nat) : Nat :=
  ofBytes (s.spanRead cr.engine (fun d => d.earlyOp cr x x.fenced) keys (s.freeWord i).toNat)

/-- Bytes of an element to be written: what the operation makes of the element's content, or, where its group stored there meanwhile, what either order of the
two gives (R79); a member's stores before its own word come first (R271). -/
def State.opElem (s : State) (cr : Crew) (x : MatOp) (keys : List Nat) (i : Nat) (f : List Byte → List Byte) : List (Nat × Byte) :=
  let early := fun (d : Drained) => d.earlyOp cr x x.seqs
  let base := s.spanRead cr.engine early keys 0
  let later := s.drained.filter (fun d => d.visible cr.engine && !early d)
  let after := fun (k : Nat) (b : Byte) => later.foldl (fun b d => (cellAt d.cells k).getD b) b
  if (s.freeWord i).getLsbD 0 then keys.zip (f (keys.zipWith after base))
  else keys.zipWith (fun k b => (k, after k b)) (f base)

/-- The number of an element of an EFMT code that is no block format. -/
def efmtNum (f x : Nat) : Num :=
  match f with
  | 0 => numOfInt (toSigned 8 x)
  | 5 => numOf .bf16 x
  | 6 => numOf .f16 x
  | 7 | 9 => numOf .e4m3 x
  | _ => numOf .e5m2 x

/-- A run of k elements with its scales, and the anomalies of its blocks (R94, R95). -/
def decodeRun (f k : Nat) (code scale : Nat → Nat) : List Num × Nat :=
  if efmtBlock f then
    (List.range (k / 32)).foldl (fun (r : List Num × Nat) b =>
      let cs := (List.range 32).map (fun i => code (32 * b + i))
      let d := if f = 11 then q4Decode (scale b) cs else (mxDecode (f == 10) (scale b) cs, 0)
      (r.1 ++ d.1, r.2 + d.2)) ([], 0)
  else ((List.range k).map (fun i => efmtNum f (code i)), 0)

/-- Element i of an array of bytes. -/
def elemAt (f : Nat) (byte : Nat → Nat) (base i : Nat) : Nat :=
  match efmtBits f with
  | 4 => byte (base + i / 2) / 16 ^ (i % 2) % 16
  | 16 => byte (base + 2 * i) + 256 * byte (base + 2 * i + 1)
  | _ => byte (base + i)

/-- Element i of an array in a reservation, read as one (R79). -/
def State.opElemAt (s : State) (cr : Crew) (x : MatOp) (f : Nat) (key : Nat → Nat) (base i : Nat) : Nat :=
  let b := base + efmtBits f * i / 8
  let c := 2 ^ 32 + 2 * b + (if efmtBits f = 4 then i % 2 else 0)
  match efmtBits f with
  | 4 => s.opRead cr x [key b] c / 16 ^ (i % 2) % 16
  | 16 => s.opRead cr x [key b, key (b + 1)] c
  | _ => s.opRead cr x [key b] c

/-- A register of a contributor as the array reads it: with every result landed, or as it was before one that was on its way at issue (R134, R324); of a group that
has lost its registers since, as they were then. -/
def State.opReg (s : State) (x : MatOp) (wd ci r l : Nat) : Nat :=
  let gi := ((x.members[ci]?).getD (0, 0)).1
  let g0 := ((s.group? x.crew gi).getD default).landAll
  let g := match x.kept.find? (fun e => e.1 == gi) with
    | some e => { g0 with v := e.2 }
    | none => g0
  let old := (x.early.filter (fun e => e.1 == ci)).mapIdx (fun n e => mixWrite (fun i => s.freeWord (2 ^ 40 + ci * 2 ^ 36 + i)) (fun _ => wd) n e.2)
  ((g.applyAll old).getV r l).toNat

/-- The A tile by rows, with the anomalies of its blocks (R130, R133). -/
def State.aTile (s : State) (cr : Crew) (x : MatOp) (p : MmaP) : List (List Num) × Nat :=
  let rows := (List.range p.m).map (fun i =>
    match p.aReg with
    | some a =>
      let eb := efmtBits p.aFmt
      let ci := i / cr.width
      let l := i % cr.width
      if (x.lanes[ci]?.getD 0).getLsbD l then
        decodeRun p.aFmt p.k (fun j => getSub eb (j % (64 / eb)) (s.opReg x eb ci (a + j / (64 / eb)) l)) (fun _ => 0)
      else (List.replicate p.k (.fin false 0 0), 0)
    | none =>
      let key := fun (o : Nat) => opbufKey cr.uid (resvAddr p.aRec o)
      decodeRun p.aFmt p.k (fun j => s.opElemAt cr x p.aFmt key (efmtBytes p.aFmt (i * p.k)) j)
        (fun b => s.opElemAt cr x 0 key (16 * resvSoff p.aRec + i * p.k / 32 + b) 0))
  (rows.map (·.1), rows.foldl (fun n r => n + r.2) 0)

/-- A's bitmap, none where every element counts (R130, R139, R140). -/
def State.aBits (s : State) (cr : Crew) (x : MatOp) (p : MmaP) (i j : Nat) : Bool :=
  if p.sparse then
    let lane := 8 * p.sel + i / 2
    (s.opReg x 64 (lane / cr.width) (p.bmReg + j / 32) (lane % cr.width)).testBit (32 * (i % 2) + j % 32)
  else if p.aReg.isNone ∧ resvBen p.aRec then
    (s.opRead cr x [opbufKey cr.uid (resvAddr p.aRec (16 * resvBoff p.aRec + i * p.k / 8 + j / 8))] (2 ^ 33 + i * p.k + j / 8)).testBit (j % 8)
  else true

/-- A byte of the weight buffer. -/
def State.wByte (s : State) (core o : Nat) : Nat := (s.latestKey (wbufKey core o)).toNat

/-- The bitmap byte of a column's group of eight (R132). -/
def State.bMap (s : State) (core : Nat) (p : MmaP) (j q : Nat) : Nat := s.wByte core (16 * wdBmo p.wdesc + j * p.k / 8 + q)

/-- Is an element of B present: its bitmap bit, or every element of a dense tile (R140)? -/
def State.bPresent (s : State) (core : Nat) (p : MmaP) (j κ : Nat) : Bool := !wdCmp p.wdesc || (s.bMap core p j (κ / 8)).testBit (κ % 8)

/-- The B tile by columns, with the anomalies of its blocks; an unset position of a compressed tile reads +0 whatever its scale (R132). -/
def State.bTile (s : State) (core : Nat) (p : MmaP) : List (List Num) × Nat :=
  let f := wdFmt p.wdesc
  let byte := s.wByte core
  let base := 16 * wdWoff p.wdesc
  let cols := (List.range p.n).map (fun j =>
    let d := decodeRun f p.k (fun κ =>
      if wdCmp p.wdesc then
        let b := s.bMap core p j (κ / 8)
        if b.testBit (κ % 8) then elemAt f byte base ((j * p.k / 8 + κ / 8) * 4 + popcount (b % 2 ^ (κ % 8)) 8) else 0
      else elemAt f byte base (j * p.k + κ)) (fun b => byte (16 * wdSo p.wdesc + j * p.k / 32 + b))
    (d.1.mapIdx (fun κ v => if s.bPresent core p j κ then v else .fin false 0 0), d.2))
  (cols.map (·.1), cols.foldl (fun n r => n + r.2) 0)

/-- One element of C over one k-step: products and prior value summed exactly and rounded once (R100); a skipped product counts as +0 (R140). -/
def stepSum (c : Nat) (ps : List (Num × Num × Bool)) : Nat :=
  (roundTo .f32 .rne false (ps.foldl (fun t p => addNum .rne t (if p.2.2 then mulNum p.1 p.2.1 else .fin false 0 0)) (numOf .f32 c))).1

/-- One element of C (R100): k-steps of 32 ascending; INT8 accumulates modulo 2^32. -/
def accElem (int : Bool) (c : Nat) (ps : List (Num × Num × Bool)) : Nat :=
  if int then
    wrap 32 (ps.foldl (fun t p => if p.2.2 then t + (dyOf p.1).1 * (dyOf p.2.1).1 else t) (c : Int))
  else (List.range (ps.length / 32)).foldl (fun c t => stepSum c ((ps.drop (32 * t)).take 32)) c

/-- The bytes of element e of a tile in the accumulator memory (R127). -/
def tileKeys (uid tile e : Nat) : List Nat := keysFrom (accKey uid (4096 * tile + 4 * e)) 4

/-- What MMA and MMAS write, with the anomalies that their operand fetch counts; a product of a position that either bitmap leaves out is skipped (R140; DEDUCED,
assumption 33). -/
def State.mmaCells (s : State) (cr : Crew) (x : MatOp) (p : MmaP) : List (Nat × Byte) × Nat :=
  let a := s.aTile cr x p
  let b := s.bTile cr.core p
  let cells := (List.range (p.m * p.n)).flatMap (fun e =>
    let i := e / p.n
    let j := e % p.n
    let row := a.1[i]?.getD []
    let col := b.1[j]?.getD []
    let ps := (List.range p.k).map (fun κ =>
      let bit := s.aBits cr x p i κ
      let v := row[κ]?.getD (.fin false 0 0)
      (if bit then v else .fin false 0 0, col[κ]?.getD (.fin false 0 0), bit && s.bPresent cr.core p j κ))
    s.opElem cr x (tileKeys cr.uid p.tile e) (2 ^ 34 + e) (fun c => bytesOf 4 (accElem (p.aFmt == 0) (ofBytes c) ps)))
  (cells, a.2 + b.2)

/-- A tile's element converted (R99, R273). -/
def cvtElem (f : Nat) (sat : Bool) (rnd : BitVec 2) (c : Nat) : List Byte :=
  match f with
  | 0 => bytesOf 1 (wrap 8 (max (-128) (min 127 (toSigned 32 c))))
  | 5 => bytesOf 2 (roundTo .bf16 (rmOf rnd) false (numOf .f32 c)).1
  | 6 => bytesOf 2 (roundTo .f16 (rmOf rnd) false (numOf .f32 c)).1
  | 7 => bytesOf 1 (roundTo .e4m3 (rmOf rnd) true (numOf .f32 c)).1
  | _ => bytesOf 1 (roundTo .e5m2 (rmOf rnd) sat (numOf .f32 c)).1

/-- The source byte of a WBLD: as a load of the group at some time since it began, with every earlier store of its group (R266). -/
def State.wbldByte (s : State) (cr : Crew) (x : MatOp) (src : Side) (i : Nat) : Byte :=
  let me := cr.agent ((x.members.headD (0, 0)).1)
  match s.sidePlace src i 1 with
  | some (.mem k) => (s.spanRead me (fun d => d.earlyOp cr x x.seqs) [k] (s.freeWord (2 ^ 35 + i)).toNat).headD 0
  | some p => s.readPlace me p
  | none => 0

/-- The bytes of a core's weight buffer that memory lists, by offset. -/
def State.wbufListed (s : State) (core : Nat) : List Nat :=
  let f := fun (k : Nat) => if k % 8 = 7 ∧ k / 8 / 2 ^ 20 = core then some (k / 8 % 2 ^ 20) else none
  (s.mem.filterMap (fun e => f e.1) ++ s.drained.flatMap (fun d => d.cells.filterMap (fun e => f e.1))).eraseDups

/-- The bytes that an operation writes, and the anomalies that it counts. -/
def State.matCells (s : State) (cr : Crew) (x : MatOp) : List (Nat × Byte) × Nat :=
  match x.op with
  | .mma p => s.mmaCells cr x p
  | .wbld dst src len => ((List.range len).map (fun i => (wbufKey cr.core (dst + i), s.wbldByte cr x src i)), 0)
  | .amzero tile m n =>
    ((List.range (m * n)).flatMap (fun e => s.opElem cr x (tileKeys cr.uid tile e) (2 ^ 34 + e) (fun _ => bytesOf 4 0)), 0)
  | .amcvt tile m n f sat rnd r =>
    let w := efmtBytes f 1
    ((List.range (m * n)).flatMap (fun e =>
      let src := s.spanRead cr.engine (fun d => d.earlyOp cr x x.seqs) (tileKeys cr.uid tile e) (s.freeWord (2 ^ 36 + e)).toNat
      let keys := (List.range w).map (fun i => opbufKey cr.uid (resvAddr r (e * w + i)))
      s.opElem cr x keys (2 ^ 34 + e) (fun _ => cvtElem f sat rnd (ofBytes src))), 0)
  | .restoreWb =>
    ((cr.wbSnap.map (·.1) ++ s.wbufListed cr.core).eraseDups.map (fun o => (wbufKey cr.core o, smGet 0 cr.wbSnap o)), 0)

/-- The level at which an operation's writes are visible: the crew's agents read its accumulator and reservations (R79), every crew of the core the weight buffer (R131). -/
def MOp.level (o : MOp) : Nat :=
  match o with
  | .wbld _ _ _ | .restoreWb => 5
  | _ => 1

/-- Anomalies are counted on a core, up to the counter's end (R95, R96). -/
def State.countAnom (s : State) (core n : Nat) : State :=
  s.modCore core (fun k => { k with anom := BitVec.ofNat 32 (min (2 ^ 32 - 1) (k.anom.toNat + n)) })

/-- An operation's writes. -/
def State.runMat (s : State) (cr : Crew) (x : MatOp) : State :=
  let r := s.matCells cr x
  ((s.countAnom cr.core r.2).nextFree).append cr.engine 0 x.op.level r.1 []

/-! ### The queue (R126, R137, R138, R263) -/

/-- The malformed bitmap bytes of a compressed B tile, as offsets from the bitmap's base (R138). -/
def State.badMaps (s : State) (core : Nat) (p : MmaP) : List Nat :=
  if wdCmp p.wdesc then (List.range (p.n * p.k / 8)).filter (fun o => decide (4 < popcount (s.wByte core (16 * wdBmo p.wdesc + o)) 8)) else []

/-- TRAPINFO of SPMETA (R138). -/
def spmetaInfo (l : List Nat) : Word := BitVec.ofNat 64 (min 0xFFFF l.length + (l.headD 0) * 2 ^ 16)

/-- The fault that an operation finds before its first product. -/
def State.opFails (s : State) (core : Nat) (x : MatOp) : Option (BitVec 8 × Word) :=
  match x.op with
  | .mma p => let l := s.badMaps core p; if l = [] then none else some (causeSpmeta, spmetaInfo l)
  | _ => none

/-- May the operation at the head begin? A WBLD reads its source after every earlier access of its group (R266). -/
def State.opReady (s : State) (x : MatOp) : Bool :=
  match x.op with
  | .wbld _ _ _ => x.seqs.all (fun q => match s.group? x.crew q.1 with
      | some g => g.doneBefore q.2
      | none => true)
  | _ => true

/-- MATRIX_OP_START: the next accepted operation begins once the one before it has completed; a WBLD may read its source from now on (R266). -/
def execMatrixOpStart (core : Nat) (s : State) : Out :=
  match (s.core core).matrix with
  | [] => .refused (.notEnabled "MATRIX_OP_START")
  | x :: rest =>
    if x.started ∨ !s.opReady x then .refused (.notEnabled "MATRIX_OP_START")
    else .next (s.modCore core (fun k => { k with matrix := { x with started := true, fail := s.opFails core x, mark := if x.op.isWbld then s.nextSeq else x.mark } :: rest }))

/-! ### The rendezvous (R135) -/

/-- Do two arrivals name the same operation and the same gang? -/
def Arrival.same (a b : Arrival) : Bool :=
  a.word == b.word && a.handle == b.handle && a.item.wdesc == b.item.wdesc && a.item.sparse == b.item.sparse && a.gang == b.gang

/-- The latch takes the arrivals in order: those of the oldest's gang, up to the first that differs from a held one. An arrival of another gang waits until the latch is
free, and so does a second arrival of one group (DESIGN CHOICE, assumption 81); a listed group that arrives with another gang list differs (DEDUCED, assumption 81). -/
def latchTakes (l held : List Arrival) : List Arrival × Bool :=
  match l with
  | [] => (held, false)
  | x :: t =>
    match held with
    | [] => latchTakes t [x]
    | a0 :: _ =>
      if held.any (fun y => y.grp == x.grp) || !(a0.gang.contains x.grp || x.gang == a0.gang) then latchTakes t held
      else if held.all (fun y => x.same y) then latchTakes t (held ++ [x])
      else (held ++ [x], true)

/-- The arrivals that the latch holds. -/
def latchHeld (l : List Arrival) : List Arrival := (latchTakes l []).1

/-- The arrival of the member of lowest index. -/
def refArrival (l : List Arrival) : Arrival := l.foldl (fun r x => if x.grp < r.grp then x else r) (l.headD default)

/-- TRAPINFO of GANGMISMATCH (R135). -/
def gangInfo (held : List Arrival) (retired : List Nat) : Word :=
  let r := refArrival held
  BitVec.ofNat 64 (((held.filter (fun a => !a.same r)).map (fun a => 2 ^ a.grp)).foldl (· + ·) 0 + (retired.map (fun i => 2 ^ (16 + i))).foldl (· + ·) 0 + r.grp * 2 ^ 32)

/-- Arrivals leave the latch. -/
def State.dropArrivals (s : State) (uid : Nat) (l : List Arrival) : State := s.modCrew uid (fun c => { c with rdv := c.rdv.filter (fun a => !l.contains a) })

/-- An arrival ends in a trap at its word. -/
def State.arrivalTrap (s : State) (uid : Nat) (a : Arrival) (cause : BitVec 8) (info : Word) : State :=
  (s.modEnt ⟨uid, a.grp, a.ent⟩ (fun e => { e with wait := none })).raise ⟨uid, a.grp, a.ent⟩ cause info

/-- The operation of a released gang, its contributors in gang order. -/
def gangOp (uid : Nat) (held : List Arrival) (gang : List Nat) (mark : Nat) : MatOp :=
  let l := gang.filterMap (fun i => held.find? (fun a => a.grp == i))
  let h := held.headD default
  ⟨uid, l.map (fun a => (a.grp, a.ticket)), if h.item.aReg.isNone then [h.handle] else [], .mma h.item, l.map (fun a => (a.grp, a.seq)), l.map (·.lanes),
    (l.mapIdx (fun i a => a.early.map (fun e => (i, e)))).flatten, false, none, [], mark, l.map (fun a => (a.grp, a.opf))⟩

/-- Is a copy in flight to what an operation of a gang reads or writes: a contributor's registers, the tile, the reservation (R78, R134)? -/
def State.gangCovered (s : State) (c : Crew) (x : MatOp) : Bool :=
  let sb := s.scoreboard c.core
  match x.op with
  | .mma p =>
    x.members.any (fun m => coveredRegs sb c.uid m.1 (x.readsOf c.uid m.1)) || copyTo sb (accKey c.uid (4096 * p.tile)) (tileBytes p.m p.n) ||
      (p.aReg.isNone && copyTo sb (opbufKey c.uid (1024 * resvOff p.aRec)) (resvBytes p.aRec))
  | _ => false

/-- One decision of the latch: a failed ticket's fault, a mismatch, a release, which no copy in flight to the operands stalls, or none (R134, R135, R137). -/
def State.rdvStep (s : State) (c : Crew) : Option State :=
  let held := latchHeld c.rdv
  match held with
  | [] => none
  | a0 :: _ =>
    let ticket := fun (a : Arrival) => ((c.groups[a.grp]?).map (fun g => g.ticket a.ticket)).getD .idle
    match held.findSome? (fun a => match ticket a with
      | .failed cause info => some (a, cause, info)
      | _ => none) with
    | some (a, cause, info) =>
      some (((s.dropArrivals c.uid [a]).modGroup c.uid a.grp (fun g => g.setTicket a.ticket .idle)).arrivalTrap c.uid a cause info)
    | none =>
      let dead := a0.gang.filter (fun i => ((c.groups[i]?).map (·.retired)).getD true)
      if dead ≠ [] ∨ (latchTakes c.rdv []).2 then
        let info := gangInfo held dead
        some (held.foldl (fun s a => s.arrivalTrap c.uid a causeGang info) (s.dropArrivals c.uid held))
      else if held.length = a0.gang.length ∧ held.all (fun a => ticket a != .busy) ∧ !s.gangCovered c (gangOp c.uid held a0.gang s.nextSeq) then
        let s1 := (s.dropArrivals c.uid held).accept c.core (gangOp c.uid held a0.gang s.nextSeq)
        some (held.foldl (fun s a => s.advance ⟨c.uid, a.grp, a.ent⟩) s1)
      else none

/-- The latch decides as long as it can. -/
def State.rdvSettle (s : State) (uid fuel : Nat) : State :=
  match fuel with
  | 0 => s
  | n + 1 =>
    match s.crew? uid with
    | none => s
    | some c => match s.rdvStep c with
      | some s1 => s1.rdvSettle uid n
      | none => s

/-- The rendezvous latch of a crew settles, as when a member has arrived or retired or a ticket is free again. -/
def State.settleRdv (s : State) (uid : Nat) : State := s.rdvSettle uid (((s.crew? uid).map (fun c => c.rdv.length)).getD 0 + 1)

/-- The rendezvous latches of all crews settle, as when a copy has retired (R115, R134). -/
def State.settleLatches (s : State) : State := s.crews.foldl (fun s c => if c.rdv = [] then s else s.settleRdv c.uid) s

/-! ### MMA and MMAS (R267 to R269) -/

/-- The operation that the word names. -/
def Ctx.mmaItem (c : Ctx) (w : Body) (sparse : Bool) : MmaP :=
  let r := (c.crew.resv? (c.val w.a 0 0)).getD 0
  { sparse := sparse, m := w.tm, n := w.tn, k := w.tk
    aReg := match w.a with
      | .v a => some a.toNat
      | _ => none
    aFmt := match w.a with
      | .v _ => regFmt w.ty2
      | _ => resvFmt r
    aRec := match w.a with
      | .v _ => 0
      | _ => r
    wdesc := BitVec.ofNat 64 (c.val w.b 0 0)
    bmReg := match w.c with
      | .v b => b.toNat
      | _ => 0
    sel := w.ssel, tile := w.tile }

/-- The contents that registers on their way at issue may still have given the array (R324). -/
def Group.earlyOf (g : Group) (regs : List Nat) : List RegW :=
  let ws := g.pend.flatMap (fun p => p.ws.filter (fun w => regs.contains w.key))
  ws.filterMap (fun w => match w with
    | .v r l m _ => some (RegW.v r l m (g.getV r l))
    | _ => none) ++ ws

/-- MMA and MMAS: the checks, then the queue, or the rendezvous for a ganged group. -/
def mmaWord (o : Op) (w : Body) (sparse : Bool) (s : State) : Out :=
  matWord o w (fun s c =>
    match c.mmaFault w sparse with
    | some (cause, info) => s.trapWord c cause info
    | none =>
      let item := c.mmaItem w sparse
      let handle := c.val w.a 0 0
      let handles := if item.aReg.isNone then [handle] else []
      let early := ((s.group? c.m.crew c.m.grp).getD default).earlyOf (bodyUses o w).vregs
      if c.g.gang = [] then s.engineWord c w handles (.mma item) early
      else
        s.withTicket c (ticketOf w.dst) (fun s =>
          let a : Arrival := ⟨c.m.grp, c.m.ent, s.nextSeq, ticketOf w.dst, c.g.gang, { w with hdr := default, dst := .imm }, item,
            if item.aReg.isNone then handle else 0, c.ent.lanes, early, c.g.opf⟩
          let s1 := ({ s with nextSeq := s.nextSeq + 1 } : State).modCrew c.m.crew (fun x => { x with rdv := x.rdv ++ [a] })
          .next ((s1.waits c w.hdr .rendezvous).settleRdv c.m.crew))) s

/-- MMA. -/
def execMma (w : Body) (s : State) : Out := mmaWord .mma w false s
/-- MMAS. -/
def execMmas (w : Body) (s : State) : Out := mmaWord .mmas w true s

/-- MATRIX_OP_COMPLETE: the operation's writes are made, and its members' tickets are done or failed (R137). -/
def execMatrixOpComplete (core : Nat) (s : State) : Out :=
  match (s.core core).matrix with
  | [] => .refused (.notEnabled "MATRIX_OP_COMPLETE")
  | x :: rest =>
    match x.started, s.crew? x.crew with
    | true, some cr =>
      let id := s.nextSeq
      let s1 := if x.fail.isSome then s else s.runMat cr x
      let t := match x.fail with
        | some (cause, info) => Ticket.failed cause info
        | none => .done [id]
      let s2 := x.members.foldl (fun s m => s.modGroup x.crew m.1 (fun g => if g.retired then g else g.setTicket m.2 t)) s1
      .next (((s2.modCore core (fun k => { k with matrix := rest })).settleMem).settleRdv x.crew)
    | _, _ => .refused (.notEnabled "MATRIX_OP_COMPLETE")

/-! ### TWAIT (R270) -/

/-- A ticket that is not busy is idle again, and what it stood for is acquired (R79, R137). -/
def State.clearTicket (s : State) (uid gi k : Nat) : State :=
  let s1 := s.modGroup uid gi (fun g => g.setTicket k .idle)
  match ((s.group? uid gi).map (fun g => g.ticket k)).getD .idle with
  | .done ids => s1.take uid gi s.nextSeq (ids.map .store)
  | _ => s1

/-- TWAIT. -/
def execTwait (w : Body) (s : State) : Out :=
  matWord .twait w (fun s c =>
    let k := ticketOf w.a
    let s1 := s.clearTicket c.m.crew c.m.grp k
    match c.g.ticket k with
    | .busy => .next (s.waits c w.hdr (.twait k))
    | .failed cause info => (s.modGroup c.m.crew c.m.grp (fun g => g.setTicket k .idle)).trapWord c cause info
    | _ => .next (s1.issued c w.hdr)) s

/-- TWAIT_END. -/
def execTwaitEnd (m : Member) (s : State) : Out :=
  match (s.ent? m).bind (·.wait), s.group? m.crew m.grp with
  | some (.twait k), some g =>
    let s1 := s.clearTicket m.crew m.grp k
    match g.ticket k with
    | .busy => .refused (.notEnabled "TWAIT_END")
    | .failed cause info =>
      .next (((s.modGroup m.crew m.grp (fun g => g.setTicket k .idle)).modEnt m (fun e => { e with wait := none })).raise m cause info)
    | _ => .next (s1.advance m)
  | _, _ => .refused (.notEnabled "TWAIT_END")

/-! ### Reading a tile while an operation is under way (R79) -/

/-- The operations of a group that are accepted and not complete, oldest first, that precede a place in its program order, with those before them in the queue. -/
def State.opsBefore (s : State) (core uid gi seq : Nat) : List MatOp :=
  let q := (s.core core).matrix
  let n := (q.mapIdx (fun i x => (i + 1, x))).foldl (fun n e => if e.2.crew == uid && e.2.seqs.any (fun r => r.1 == gi && decide (r.2 < seq)) then e.1 else n) 0
  (q.take n).filter (fun x => x.fail.isNone)

/-- The state after some of the operations in the queue, as far as memory goes; one that would fail before its first product writes nothing (R138). -/
def State.afterOps (s : State) (l : List MatOp) : State :=
  l.foldl (fun s x => match s.crew? x.crew with
    | some cr => if x.started || (s.opFails cr.core x).isNone then s.runMat cr x else s
    | none => s) s

/-- The value that a load of a group reads from its crew's accumulator memory: each element before or after any of the operations that the group has issued. -/
def State.accLoad (s : State) (c : Crew) (gi : Nat) (g : Group) (m : MemWord) (a : Acc) : Nat :=
  let ops := s.opsBefore c.core c.uid gi m.seq
  match a.place with
  | some (.mem k) =>
    if k % 8 = 6 ∧ ops ≠ [] then
      ofBytes ((List.range a.size).map (fun i =>
        let n := (s.freeWord (2 ^ 37 + (k / 8 + i) / 4)).toNat % (ops.length + 1)
        (s.nextFree.afterOps (ops.take n)).loadByte (c.agent gi) g m a i))
    else s.loadVal (c.agent gi) g m a
  | _ => s.loadVal (c.agent gi) g m a

end Sys2Proof.Machine
end

