-- ==== Sys2Proof/Machine/Prune.lean ====
section
/-!
DEFINITION. Class 0x21: the sparse helpers (R274 to R277).
-/

namespace Sys2Proof.Machine

/-- A fixed-latency word of V registers: each executing lane reads n registers from Va and writes the parts of registers that a function gives. -/
def sparseWord (o : Op) (w : Body) (n : Nat) (f : List Nat → List (Nat × Nat)) (s : State) : Out :=
  s.begin (o.mk w) (fun s c =>
    let lanes := c.active w.hdr 0
    match w.dst, w.a with
    | .v d, .v a =>
      let ws := (lanesOf lanes).flatMap (fun l =>
        (f ((List.range n).map (fun i => (c.g.getV (a.toNat + i) l).toNat))).mapIdx (fun i x =>
          RegW.v (d.toNat + i) l (BitVec.ofNat 64 x.1) (BitVec.ofNat 64 x.2)))
      .next (s.writeFixed c w.hdr (latency o w) 64 lanes ws [])
    | _, _ => .next (s.issued c w.hdr))

/-- Every bit of a register. -/
def fullMask : Nat := 2 ^ 64 - 1

/-- The rank of an element by magnitude: a NaN above every infinity, an infinity above every finite value (R275). -/
def pruneRank (sub x : Nat) : Nat :=
  match sub with
  | 0 => (toSigned 8 x).natAbs
  | n =>
    let f : Fmt := match n with
      | 1 => .e4m3
      | 2 => .e5m2
      | 3 => .f16
      | _ => .bf16
    if isNaN (numOf f x) then 2 ^ 16 else x % 2 ^ (fmtBits f - 1)

/-- The four elements that are kept, in ascending order (R275). -/
def pruneKept (rank : List Nat) : List Nat :=
  (List.range 8).filter (fun j =>
    decide (((List.range 8).filter (fun i =>
      let a := rank[i]?.getD 0
      let b := rank[j]?.getD 0
      decide (b < a) || (a == b && decide (i < j)))).length < 4))

/-- Values packed from bit 0 upward. -/
def packList (wd : Nat) (l : List Nat) : Nat := l.foldr (fun x acc => x % 2 ^ wd + acc * 2 ^ wd) 0

/-- The number whose set bits are listed. -/
def bitsOf (l : List Nat) : Nat := l.foldl (fun n j => n + 2 ^ j) 0

/-- PRUNE48. -/
def execPrune48 (w : Body) (s : State) : Out :=
  let h := w.ty == 1
  let wd := if h then 16 else 8
  sparseWord .prune48 w (if h then 2 else 1) (fun regs =>
    let els := elements regs wd
    let kept := pruneKept (els.map (pruneRank w.sub))
    let vals := packList wd (kept.map (fun j => els[j]?.getD 0))
    if h then [(fullMask, vals), (fullMask, bitsOf kept)] else [(fullMask, vals + bitsOf kept * 2 ^ 32)]) s

/-- BMAP: bits 32·o + j of the destination. -/
def execBmap (w : Body) (s : State) : Out :=
  let wd := intWidth w.ty
  sparseWord .bmap w w.imm8 (fun regs =>
    let els := elements regs wd
    let nz := (List.range els.length).filter (fun j =>
      let x := els[j]?.getD 0
      if w.sub = 0 then x != 0 else x % 2 ^ (wd - 1) != 0)
    [((2 ^ els.length - 1) * 2 ^ (32 * w.ssel), bitsOf nz * 2 ^ (32 * w.ssel))]) s

/-- SPEXP. -/
def execSpexp (w : Body) (s : State) : Out :=
  let h := w.ty == 1
  let wd := if h then 16 else 8
  sparseWord .spexp w (if h then 2 else 1) (fun regs =>
    let vals := (elements (regs.take 1) wd).take 4
    let map := if h then regs[1]?.getD 0 % 256 else (regs[0]?.getD 0) / 2 ^ 32 % 256
    let els := (List.range 8).map (fun j => if map.testBit j then vals[popcount (map % 2 ^ j) 8]?.getD 0 else 0)
    if h then [(fullMask, packList wd (els.take 4)), (fullMask, packList wd (els.drop 4))] else [(fullMask, packList wd els)]) s

end Sys2Proof.Machine
end

