-- ==== Sys2Proof/Machine/Beryl.lean ====
section
/-!
DEFINITION. Class 0x22: the Beryl unit (R143 to R156, R278 to R283).

A word is accepted in issue order with the operands that it read, and takes effect when the unit completes it.
-/

namespace Sys2Proof.Machine

/-! ### Accumulators (R143 to R145) -/

/-- Coefficient k as a number: FP32 in mode .f. -/
def QAcc.num (q : QAcc) (k : Nat) : Num := numOf .f32 ((smGet 0 q.coef k).toNat % 2 ^ 32)

/-- Coefficient k as 64 bits. -/
def QAcc.at_ (q : QAcc) (k : Nat) : Nat := (smGet 0 q.coef k).toNat

/-- The coefficients from 0 upward; every other is zero. -/
def coefsOf (l : List Nat) : SMap Word := (l.mapIdx (fun i x => (i, x))).foldl (fun m e => smSet 0 m e.1 (BitVec.ofNat 64 e.2)) []

/-- The status bits. -/
def stInv : BitVec 5 := 1
def stCond : BitVec 5 := 2
def stSat : BitVec 5 := 4
def stExpr : BitVec 5 := 8
def stNonfin : BitVec 5 := 16

/-- Set status bits; they are sticky. -/
def QAcc.mark (q : QAcc) (b : BitVec 5) : QAcc := { q with st := q.st ||| b }

/-- QINIT. -/
def qInit (deg : Nat) (int : Bool) : QAcc := ⟨coefsOf [if int then 1 else 0x3F800000], 0, BitVec.ofNat 6 deg, int, 0⟩

/-- QDEG: coefficients above the new degree become zero. -/
def QAcc.setDeg (q : QAcc) (deg : Nat) : QAcc := { q with deg := BitVec.ofNat 6 deg, coef := smFilter (fun k => decide (k ≤ deg)) q.coef }

/-- INV with every coefficient up to DEG the canonical NaN in mode .f, which makes it non-finite, or 0 in mode .i (R152, R144). -/
def QAcc.invalid (q : QAcc) : QAcc :=
  if q.int then { q with coef := [], st := q.st ||| stInv }
  else { q with coef := coefsOf (List.replicate (q.deg.toNat + 1) (canonNaN .f32)), st := q.st ||| stInv ||| stNonfin }

/-! ### Rounding and normalising (R146, R147, R151) -/

/-- A value rounded to a 24-bit significand with unbounded exponent. -/
def round24 (x : Num) : Num :=
  match x with
  | .fin s m e => let r := roundPrec .rne s m e 24; .fin s r.1 r.2.1
  | x => x

/-- Is the value finite? -/
def finite (x : Num) : Bool :=
  match x with
  | .fin _ _ _ => true
  | _ => false

/-- The floor of the base-2 logarithm of the largest magnitude, none when all are zero. -/
def topLog (v : List Num) : Option Int := topExp v

/-- Steps of 64 that Normalise takes on coefficients whose largest magnitude has a logarithm: how far the coefficients are scaled and the exponent after it. -/
def normSteps (top e : Int) : Int × Int :=
  let up := if 64 ≤ top then min ((top - 64) / 64 + 1) (max 0 ((2 ^ 31 - 1 - e) / 64)) else 0
  let down := if top < -64 then min ((-65 - top) / 64 + 1) (max 0 ((e + 2 ^ 31) / 64)) else 0
  (64 * (down - up), e + 64 * (up - down))

/-- The fewest steps of 64 that bring an exponent into the signed 32-bit range: how far the coefficients are scaled, and the exponent. -/
def clampSteps (e : Int) : Int × Int :=
  let up := if e < -(2 ^ 31) then (-(2 ^ 31) - e + 63) / 64 else 0
  let down := if 2 ^ 31 - 1 < e then (e - (2 ^ 31 - 1) + 63) / 64 else 0
  (64 * (down - up), e + 64 * (up - down))

/-- Normalise and store: the coefficients, the exponent and the status bits that it sets. A factor that is infinite or NaN counts as a coefficient that is (R156). -/
def normalise (nonfin : Bool) (v : List Num) (e : Int) : List Nat × Int × BitVec 5 :=
  let fin := !nonfin && v.all finite
  let n := match fin, topLog v with
    | true, some top => normSteps top e
    | _, _ => (0, e)
  let bad := match fin, topLog v with
    | true, some top => decide (64 ≤ top + n.1) || decide (top + n.1 < -64)
    | _, _ => false
  let k := clampSteps n.2
  let st := v.map (fun x => (roundTo .f32 .rne false (scaleNum x (n.1 + k.1))).1)
  let inf := nonfin || st.any (fun x => !finite (numOf .f32 x))
  (st, k.2, (if bad || k.1 != 0 then stExpr else 0) ||| (if inf then stNonfin else 0))

/-- The accumulator after Normalise, with the operands of the factor that came before it. -/
def QAcc.norm (q : QAcc) (ops v : List Num) (e : Int) : QAcc :=
  let r := normalise (!ops.all finite) v e
  { q with coef := coefsOf r.1, exp := BitVec.ofInt 32 r.2.1, st := q.st ||| r.2.2 }

/-- Coefficient k − 1, zero for k = 0. -/
def prevNum (q : QAcc) (k : Nat) : Num := if k = 0 then .fin false 0 0 else q.num (k - 1)

/-! ### Factors (R146, R150, R278) -/

/-- The format of a TYPE code of mode .f. -/
def qFmt (ty : Nat) : Fmt :=
  match ty with
  | 4 => .f16
  | 5 => .bf16
  | _ => .f32

/-- The width of a TYPE code. -/
def qWidth (ty : Nat) : Nat := if ty < 4 then 8 * 2 ^ ty else fmtBits (qFmt ty)

/-- A sub-element as an integer modulo 2^64. -/
def qInt (ty : Nat) (uns : Bool) (x : Nat) : Int := if uns then (x : Int) else toSigned (qWidth ty) x

/-- One factor a + b·x of QMUL. -/
def QAcc.mulF (q : QAcc) (ty : Nat) (uns : Bool) (f : Nat × Nat) : QAcc :=
  let ks := List.range (q.deg.toNat + 1)
  if q.int then
    { q with coef := coefsOf (ks.map (fun k => wrap 64 (qInt ty uns f.1 * q.at_ k + qInt ty uns f.2 * (if k = 0 then 0 else q.at_ (k - 1) : Nat)))) }
  else
    let a := numOf (qFmt ty) f.1
    let b := numOf (qFmt ty) f.2
    q.norm [a, b] (ks.map (fun k => round24 (addNum .rne (mulNum a (q.num k)) (mulNum b (prevNum q k))))) q.exp.toInt

/-- One factor of QMULS: (1 − p) + p·x, or 1 + v·x. -/
def QAcc.mulsF (q : QAcc) (ty : Nat) (uns : Bool) (f : Nat) : QAcc :=
  let ks := List.range (q.deg.toNat + 1)
  if q.int then { q with coef := coefsOf (ks.map (fun k => wrap 64 ((q.at_ k : Int) + qInt ty uns f * (if k = 0 then 0 else q.at_ (k - 1) : Nat)))) }
  else
    let p := numOf (qFmt ty) f
    q.norm [p] (ks.map (fun k => round24 (addNum .rne (q.num k) (mulNum p (addNum .rne (prevNum q k) (negNum (q.num k))))))) q.exp.toInt

/-- A quotient rounded once to 24 bits (R150). -/
def div24 (x a : Num) : Num :=
  match x, a with
  | .nan _, _ | _, .nan _ | .inf _, .inf _ => .nan false
  | .inf s, .fin t _ _ => .inf (s != t)
  | .fin s _ _, .inf t => .fin (s != t) 0 0
  | .fin s m e, .fin t n g =>
    if n = 0 then .nan false
    else if m = 0 then .fin (s != t) 0 0
    else let d := divMag m e n g 24; round24 (.fin (s != t) d.1 d.2)

/-- Is |b| greater than |a|? -/
def magGt (b a : Num) : Bool :=
  match b, a with
  | .inf _, .fin _ _ _ => true
  | .fin _ m e, .fin _ n g => magLt n g m e
  | _, _ => false

/-- COND is set when the removed factor has |b| > |a| (R150). -/
def QAcc.cond (q : QAcc) (c : Bool) : QAcc := if c then q.mark stCond else q

/-- One factor of QDIV; c'[0] is c[0] / a (R150). -/
def QAcc.divF (q : QAcc) (ty : Nat) (uns : Bool) (f : Nat × Nat) : QAcc :=
  let ks := List.range (q.deg.toNat + 1)
  if q.int then
    let a := qInt ty uns f.1
    let b := qInt ty uns f.2
    let q1 := q.cond (decide (a.natAbs < b.natAbs))
    if wrap 64 a = 1 ∨ wrap 64 a = 2 ^ 64 - 1 then
      let sg : Int := if wrap 64 a = 1 then 1 else -1
      { q1 with coef := coefsOf ((ks.foldl (fun (r : List Nat × Nat) k =>
          let c := wrap 64 (sg * ((q.at_ k : Int) - b * r.2))
          (r.1 ++ [c], c)) ([], 0)).1) }
    else { q1 with coef := [], st := q1.st ||| stInv }
  else
    let a := numOf (qFmt ty) f.1
    let b := numOf (qFmt ty) f.2
    let q1 := q.cond (magGt b a)
    match a with
    | .fin _ 0 _ => (q1.mark stInv).norm [a, b] (ks.map (fun _ => .nan false)) q.exp.toInt
    | _ =>
      let v := (ks.foldl (fun (r : List Num × Num) k =>
        let c := div24 (if k = 0 then q.num 0 else addNum .rne (q.num k) (negNum (mulNum b r.2))) a
        (r.1 ++ [c], c)) ([], .fin false 0 0)).1
      q1.norm [a, b] v q.exp.toInt

/-- Factors of a word: none changes nothing, and those of the other mode are a mismatch (R148, R152, R278). -/
def QAcc.factors {α : Type} (q : QAcc) (ty : Nat) (f : QAcc → α → QAcc) (l : List α) : QAcc :=
  match l with
  | [] => q
  | l => if decide (ty < 4) = q.int then l.foldl f q else q.invalid

/-! ### QCONV, QRD and QNORM (R151 to R154) -/

/-- QCONV. -/
def QAcc.conv (d a b : QAcc) : QAcc :=
  let ks := List.range (d.deg.toNat + 1)
  if a.int ≠ d.int ∨ b.int ≠ d.int then d.invalid
  else if d.int then
    { d with coef := coefsOf (ks.map (fun k => ((List.range (k + 1)).map (fun i => a.at_ i * b.at_ (k - i))).foldl (· + ·) 0 % 2 ^ 64)) }
  else
    d.norm [] (ks.map (fun k => round24 ((List.range (k + 1)).foldl (fun t i =>
      let p := mulNum (a.num i) (b.num (k - i))
      if i = 0 then p else addNum .rne t p) (.fin false 0 0)))) (a.exp.toInt + b.exp.toInt)

/-- QRD: the 64 bits of a coefficient, and whether it saturated. `.d` of a mode `.f` accumulator gives binary64 as R153 states, although R91 says that no Beryl instruction
writes binary64 (DESIGN CHOICE, assumption 88). -/
def QAcc.read (q : QAcc) (wide : Bool) (k : Nat) : Nat × Bool :=
  if q.deg.toNat < k then (0, false)
  else if q.int then (if wide then q.at_ k else q.at_ k % 2 ^ 32, false)
  else
    let f : Fmt := if wide then .f64 else .f32
    match q.num k with
    | .fin s m e =>
      let x := Num.fin s m (e + q.exp.toInt)
      let r := roundTo f .rne true x
      (r.1, r.2 &&& fOF != 0)
    | x => ((roundTo f .rne false x).1, false)

/-- QNORM. -/
def QAcc.rebase (q : QAcc) (n : BitVec 32) : QAcc :=
  if q.int then q
  else
    let r := (List.range (q.deg.toNat + 1)).map (fun k =>
      match q.num k with
      | .fin s m e =>
        let r := roundTo .f32 .rne true (.fin s m (e + (q.exp.toInt - n.toInt)))
        (r.1, r.2 &&& fOF != 0)
      | x => ((roundTo .f32 .rne false x).1, false))
    { q with coef := coefsOf (r.map (·.1)), exp := n, st := q.st ||| (if r.any (·.2) then stSat else 0) }

/-! ### Images (R144) -/

/-- The header of an image. -/
def QAcc.header (q : QAcc) : Nat := q.exp.toNat + q.deg.toNat * 2 ^ 32 + (if q.int then 2 ^ 38 else 0) + q.st.toNat * 2 ^ 40

/-- The 528 bytes of an image. -/
def QAcc.image (q : QAcc) : List Byte := ((List.range 64).flatMap (fun k => bytesOf 8 (q.at_ k))) ++ bytesOf 16 q.header

/-- Does the header of an image hold a nonzero reserved bit? -/
def badImage (raw : Nat) : Bool := nbits raw (8 * 512 + 39) 1 != 0 || nbits raw (8 * 512 + 45) 83 != 0

/-- The accumulator of an image: coefficients above DEG are zero, mode .f ignores bits 63:32 of each, and in mode .i e is 0 (R143, R144). -/
def qOfImage (raw : Nat) : QAcc :=
  let h := nbits raw (8 * 512) 128
  let deg := nbits h 32 6
  let int := h.testBit 38
  ⟨coefsOf ((List.range (deg + 1)).map (fun k => if int then nbits raw (64 * k) 64 else nbits raw (64 * k) 32)), if int then 0 else BitVec.ofNat 32 h, BitVec.ofNat 6 deg, int,
    BitVec.ofNat 5 (nbits h 40 5)⟩

/-! ### The unit's queue (R149) -/

/-- An accumulator of a group. -/
def Group.acc (g : Group) (q : Nat) : QAcc := g.q[q]?.getD QAcc.launch

/-- Change an accumulator of a group. -/
def State.modAccum (s : State) (uid gi q : Nat) (f : QAcc → QAcc) : State := s.modGroup uid gi (fun g => { g with q := g.q.set q (f (g.acc q)) })

/-- What a Beryl word does when the unit completes it. -/
def State.berylDone (s : State) (b : BerylOp) : State :=
  let acc := fun (q : Nat) => ((s.group? b.crew b.grp).getD default).acc q
  match b.op with
  | .init q deg int => s.modAccum b.crew b.grp q (fun _ => qInit deg int)
  | .deg q deg => s.modAccum b.crew b.grp q (fun x => x.setDeg deg)
  | .mul q ty uns fs => s.modAccum b.crew b.grp q (fun x => x.factors ty (fun x f => x.mulF ty uns f) fs)
  | .muls q ty uns fs => s.modAccum b.crew b.grp q (fun x => x.factors ty (fun x f => x.mulsF ty uns f) fs)
  | .div q ty uns fs => s.modAccum b.crew b.grp q (fun x => x.factors ty (fun x f => x.divF ty uns f) fs)
  | .conv q qa qb => s.modAccum b.crew b.grp q (fun x => x.conv (acc qa) (acc qb))
  | .norm q n => s.modAccum b.crew b.grp q (fun x => x.rebase n)
  | .load q img => s.modAccum b.crew b.grp q (fun _ => qOfImage img)
  | .save q =>
    let bytes := (acc q).image
    s.modGroup b.crew b.grp (fun g => g.modWord b.seq (fun m =>
      { m with blank := false, accs := m.accs.mapIdx (fun i a => { a with data := ofBytes ((bytes.drop (16 * i)).take 16) }) }))
  | .rd dst wide q idx lanes =>
    let r := (lanesOf lanes).map (fun l => (l, (acc q).read wide (l + idx)))
    let s1 := s.modGroup b.crew b.grp (fun g =>
      g.deliverTo b.seq false (r.map (fun e => RegW.v dst e.1 (BitVec.allOnes 64) (BitVec.ofNat 64 e.2.1))))
    if r.any (fun e => e.2.2) then s1.modAccum b.crew b.grp q (fun x => x.mark stSat) else s1

/-- BERYL_OP_COMPLETE: the unit completes the oldest word that it accepted; a group that has retired since loses its accumulators after its last word (R149). -/
def execBerylOpComplete (core : Nat) (s : State) : Out :=
  match (s.core core).beryl with
  | [] => .refused (.notEnabled "BERYL_OP_COMPLETE")
  | b :: rest => .next (((s.berylDone b).modCore core (fun k => { k with beryl := rest })).dropAccs b.crew b.grp)

/-! ### The words -/

/-- The accumulator of a Q operand. -/
def qOf (o : Opnd) : Nat :=
  match o with
  | .q n => n.toNat
  | _ => 0

/-- A word is accepted by the unit, and its issue is over. -/
def State.berylWord (s : State) (c : Ctx) (h : Hdr) (op : BOp) : Out :=
  let b : BerylOp := ⟨c.m.crew, c.m.grp, s.nextSeq, c.m.ent, c.st, c.pos, op⟩
  let s1 : State := { s with nextSeq := s.nextSeq + 1 }
  .next ((s1.modCore c.crew.core (fun k => { k with beryl := k.beryl ++ [b] })).issued c h)

/-- QINIT. -/
def execQinit (w : Body) (s : State) : Out :=
  entityWord .qinit w (fun s c =>
    let deg := c.uval w w.a
    if 63 < deg then s.misuse c (fieldOf w.a 63) else s.berylWord c w.hdr (.init (qOf w.dst) deg (w.sub == 1))) s

/-- QDEG. -/
def execQdeg (w : Body) (s : State) : Out :=
  entityWord .qdeg w (fun s c =>
    let deg := c.uval w w.a
    if 63 < deg then s.misuse c (fieldOf w.a 63) else s.berylWord c w.hdr (.deg (qOf w.dst) deg)) s

/-- The factors that the executing lanes give, ascending (R146). -/
def Ctx.factorsOf (c : Ctx) (w : Body) : List (Nat × Nat) :=
  let wd := qWidth w.ty.toNat
  (lanesOf (c.active w.hdr 0)).flatMap (fun l => (subs wd).map (fun s => (getSub wd s (c.val w.a 0 l), getSub wd s (c.val w.b 0 l))))

/-- QMUL. -/
def execQmul (w : Body) (s : State) : Out :=
  s.begin (.qmul w) (fun s c => s.berylWord c w.hdr (.mul (qOf w.dst) w.ty.toNat w.uns (c.factorsOf w)))
/-- QMULS. -/
def execQmuls (w : Body) (s : State) : Out :=
  s.begin (.qmuls w) (fun s c => s.berylWord c w.hdr (.muls (qOf w.dst) w.ty.toNat w.uns ((c.factorsOf w).map (·.1))))
/-- QDIV. -/
def execQdiv (w : Body) (s : State) : Out :=
  s.begin (.qdiv w) (fun s c => s.berylWord c w.hdr (.div (qOf w.dst) w.ty.toNat w.uns (c.factorsOf w)))

/-- QCONV. -/
def execQconv (w : Body) (s : State) : Out :=
  entityWord .qconv w (fun s c => s.berylWord c w.hdr (.conv (qOf w.dst) (qOf w.a) (qOf w.b))) s

/-- QNORM: n from bits 31:0. -/
def execQnorm (w : Body) (s : State) : Out :=
  entityWord .qnorm w (fun s c => s.berylWord c w.hdr (.norm (qOf w.dst) (BitVec.ofNat 32 (c.uval w w.a)))) s

/-- QRD: the destination is written when every earlier Beryl word of the group has completed (R149). -/
def execQrd (w : Body) (s : State) : Out :=
  s.begin (.qrd w) (fun s c =>
    let act := c.active w.hdr 0
    match w.dst with
    | .v d => if act = 0 then .next (s.issued c w.hdr) else s.berylWord c w.hdr (.rd d.toNat (w.ty == 3) (qOf w.a) w.imm8 act)
    | _ => .next (s.issued c w.hdr))

/-- QSAVE: its scratch writes are stores of the group at its place in program order, whose data the unit supplies (R80). -/
def execQsave (w : Body) (s : State) : Out :=
  entityWord .qsave w (fun s c =>
    let off := c.uval w w.b
    match c.scratchAt off 16 528 true with
    | some (cause, info) => s.trapWord c cause info
    | none =>
      let m : MemWord := { qloadWord c s.nextSeq off with op := .store, blank := true }
      (s.modGroup c.m.crew c.m.grp (fun g => { g with mws := g.mws ++ [m] })).berylWord c w.hdr (.save (qOf w.a))) s

/-- QLOAD: its reads are loads of the group at its place, and a header with a nonzero reserved bit is BADREC (R80, R144). -/
def execQload (w : Body) (s : State) : Out :=
  entityWord .qload w (fun s c =>
    let off := c.uval w w.a
    match c.scratchAt off 16 528 false with
    | some (cause, info) => s.trapWord c cause info
    | none =>
      let m := qloadWord c s.nextSeq off
      let g := (s.group? c.m.crew c.m.grp).getD default
      let raw := (m.accs.mapIdx (fun i a => s.loadVal (c.crew.agent c.m.grp) g m a * 2 ^ (128 * i))).foldl (· + ·) 0
      if badImage raw then s.trapWord c causeBadrec (faultInfo 0 false 0)
      else s.berylWord c w.hdr (.load (qOf w.dst) raw)) s

end Sys2Proof.Machine
end

