-- ==== Sys2Proof/Machine/Control.lean ====
section
/-!
DEFINITION. Classes 0x00 and 0x02: control words and predicate logic (R178 to R188, R196).
-/

namespace Sys2Proof.Machine

/-! ### Blocks and units -/

/-- The static properties of a block as the loader read them; 0xFFFF… where there is none. -/
def Image.blk (im : Image) (b : Nat) : BitVec 64 := im.blocks[b]?.getD (BitVec.allOnes 64)

/-- Does an id name a block of the image (R410)? -/
def Image.hasBlk (im : Image) (b : Nat) : Bool := decide (b < im.blocks.length) && !descVacant (im.blk b)

/-- Does a block belong to the unit of a state? A stub is no block of the unit it binds (R28, R180). -/
def Image.inUnit (im : Image) (st b : Nat) : Bool :=
  im.hasBlk b && !descStub (im.blk b) && !descFwd (im.blk b) && some (descUnit (im.blk b)) == (im.states[st]?).map (·.unit)

/-- Is a block the entry block of a unit, or a stub (R181)? -/
def Image.callable (im : Image) (b : Nat) : Bool :=
  im.units.any (fun u => u.entry == b) || (im.hasBlk b && (descStub (im.blk b) || descFwd (im.blk b)))

/-- The image of the issuing crew. -/
def State.img (s : State) (c : Ctx) : Image := (s.image? c.crew.img).getD default

/-- A lane's next block is written and its mark is set (R31). -/
def Lane.setNext (l : Lane) (b : Nat) : Lane := { l with blk := BitVec.ofNat 16 b, marked := true }

/-- Set next blocks of lanes. -/
def State.setNexts (s : State) (c : Ctx) (h : Hdr) (l : List (Nat × Nat)) : State :=
  (s.modGroup c.m.crew c.m.grp (fun g => l.foldl (fun g e => g.modLane e.1 (fun x => x.setNext e.2)) g)).issued c h

/-- The fall-throughs of the lanes' occupied blocks (R28), read through the fetch unit. -/
def State.falls (s : State) (c : Ctx) (lanes : List Nat) : State × List (Nat × Nat) :=
  lanes.foldl (fun r l =>
    let d := r.1.desc c.crew (c.g.lane l).occ.toNat
    (d.1, r.2 ++ [(l, descFall d.2)])) (s, [])

/-- The common shape of the words that write a next block: R182 first, then the word. -/
def branchWord (i : Instr) (h : Hdr) (field : Nat) (k : State → Ctx → List Nat → Out) (s : State) : Out :=
  s.begin i (fun s c =>
    let act := c.active h 0
    if c.calledLane act then s.misuse c field else k s c (lanesOf act))

/-- BR (R180). -/
def execBr (w : Body) (s : State) : Out :=
  branchWord (.br w) w.hdr 63 (fun s c ls => .next (s.setNexts c w.hdr (ls.map (fun l => (l, w.imm.toNat % 65536))))) s

/-- BRC (R180): the target where the condition holds, else the fall-through; both mark the lane. -/
def execBrc (w : Body) (s : State) : Out :=
  branchWord (.brc w) w.hdr 63 (fun s c ls =>
    let f := s.falls c ls
    let wd := intWidth w.ty
    .next (f.1.setNexts c w.hdr (f.2.map (fun e =>
      let v := toSigned wd (c.val w.b 0 e.1)
      let t := match w.sub with
        | 0 => decide (v = 0)
        | 1 => decide (v ≠ 0)
        | 2 => decide (v < 0)
        | _ => decide (0 ≤ v)
      (e.1, if t then w.imm.toNat % 65536 else e.2))))) s

/-- BRX (R180): a value that names no block of the unit and not EXIT is a misuse in any lane. -/
def execBrx (w : Body) (s : State) : Out :=
  branchWord (.brx w) w.hdr 63 (fun s c ls =>
    let t := ls.map (fun l => (l, c.val w.a 0 l % 65536))
    if t.all (fun e => e.2 == exitBlk || (s.img c).inUnit c.st e.2) then .next (s.setNexts c w.hdr t) else s.misuse c 63) s

/-! ### Calls (R45, R181 to R184) -/

/-- TRAPINFO of CALLSTACK (R184). -/
def callstackInfo (st pos lane : Nat) (empty : Bool) : Word :=
  BitVec.ofNat 64 (st + pos * 2 ^ 16 + (if empty then 2 ^ 32 else 0) + lane * 2 ^ 33)

/-- Push the return block: the oldest of sixteen entries spills (R45, R183). -/
def State.pushRet (s : State) (c : Ctx) (lane blk : Nat) : State :=
  let l := ((s.group? c.m.crew c.m.grp).getD default).lane lane
  let full := decide (16 ≤ l.stack.length)
  let s1 := if full then
      s.put (c.crew.agent c.m.grp) s.nextSeq 1 (.mem (spillKey c.crew c.m.grp lane l.spilled)) (bytesOf 4 (l.stack.getLastD 0).toNat) []
    else s
  s1.modGroup c.m.crew c.m.grp (fun g => g.modLane lane (fun l =>
    { l with stack := BitVec.ofNat 16 blk :: l.stack.take 15, spilled := if full then l.spilled + 1 else l.spilled }))

/-- The newest spilled entry of a lane; bits 31:16, which the hardware writes as zero (R45), are ignored (DESIGN CHOICE, assumption 79). -/
def State.spillTop (s : State) (c : Ctx) (lane : Nat) (l : Lane) : Nat :=
  s.readNum (c.crew.agent c.m.grp) (.mem (spillKey c.crew c.m.grp lane (l.spilled - 1))) 4 % 65536

/-- What RET pops, and the entry it refills from the spill area if any (R183). -/
def State.popRet (s : State) (c : Ctx) (lane : Nat) : Nat × Option Nat × Lane :=
  let l := c.g.lane lane
  match l.stack with
  | [] =>
    let b := s.spillTop c lane l
    (b, some b, { l with spilled := l.spilled - 1 })
  | t :: rest =>
    if l.spilled = 0 then (t.toNat, none, { l with stack := rest })
    else
      let b := s.spillTop c lane l
      (t.toNat, some b, { l with stack := rest ++ [BitVec.ofNat 16 b], spilled := l.spilled - 1 })

/-- The depth below which a lane's stack counts as empty: 0, or in a handler the depth at its entry (R50). -/
def Ctx.floorOf (c : Ctx) (l : Lane) : Nat := if c.m.ent = handlerIdx then l.hDepth else 0

/-- CALL and CALLX once their targets are known: every lane is checked before any lane pushes. -/
def callLanes (w : Body) (s : State) (c : Ctx) (t : List (Nat × Nat)) : Out :=
  match t.find? (fun e => decide (16 + c.crew.depth ≤ (c.g.lane e.1).depth)) with
  | some e => s.trapWord c causeCallstack (callstackInfo c.st c.pos e.1 false)
  | none =>
    let f := s.falls c (t.map (·.1))
    let s1 := f.2.foldl (fun s e => s.pushRet c e.1 e.2) f.1
    let s2 := s1.modGroup c.m.crew c.m.grp (fun g => t.foldl (fun g e => g.modLane e.1 (fun l => { l.setNext e.2 with called := true })) g)
    .next ({ s2 with nextSeq := s2.nextSeq + 1 }.issued c w.hdr)

/-- CALL (R181). -/
def execCall (w : Body) (s : State) : Out :=
  branchWord (.call w) w.hdr 63 (fun s c ls => callLanes w s c (ls.map (fun l => (l, w.imm.toNat % 65536)))) s

/-- CALLX (R181): a value that names neither a unit's entry block nor a stub is a misuse; it is found before another lane's CALLSTACK (DESIGN CHOICE, assumption 78). -/
def execCallx (w : Body) (s : State) : Out :=
  branchWord (.callx w) w.hdr 63 (fun s c ls =>
    let t := ls.map (fun l => (l, c.val w.a 0 l % 65536))
    if t.all (fun e => (s.img c).callable e.2) then callLanes w s c t else s.misuse c 63) s

/-- RET (R181, R183). -/
def execRet (w : Body) (s : State) : Out :=
  branchWord (.ret w) w.hdr 0 (fun s c ls =>
    match ls.find? (fun l => decide ((c.g.lane l).depth ≤ c.floorOf (c.g.lane l))) with
    | some l => s.trapWord c causeCallstack (callstackInfo c.st c.pos l true)
    | none =>
      let r := ls.map (fun l => (l, s.popRet c l))
      if r.any (fun e => match e.2.2.1 with
          | some b => b != exitBlk && !(s.img c).hasBlk b
          | none => false) then s.misuse c 0
      else
        .next ((s.modGroup c.m.crew c.m.grp (fun g =>
          r.foldl (fun g e => g.modLane e.1 (fun _ => { e.2.2.2.setNext e.2.1 with called := true })) g)).issued c w.hdr)) s

/-! ### EXIT, YIELD, NOP (R185) -/

/-- EXIT: the lane leaves at the vote. -/
def execExit (w : Body) (s : State) : Out :=
  branchWord (.exit w) w.hdr 0 (fun s c ls => .next (s.setNexts c w.hdr (ls.map (fun l => (l, exitBlk))))) s

/-- YIELD: marks the issuing split for rotation; an unsplit group is ranked as if YH were set. -/
def execYield (w : Body) (s : State) : Out :=
  s.begin (.yield w) (fun s c =>
    let s1 := s.issued c w.hdr
    if c.active w.hdr 0 = 0 then .next s1
    else if c.g.isSplit && c.m.ent != handlerIdx then .next (s1.modEnt c.m (fun e => { e with mark := true }))
    else .next (s1.modEnt c.m (fun e => { e with yh := true })))

/-- NOP. -/
def execNop (w : Body) (s : State) : Out := s.begin (.nop w) (fun s c => .next (s.issued c w.hdr))

/-! ### Traps and their return (R186 to R188) -/

/-- TRAPINFO of BKPT and TRAP (R186). -/
def trapWordInfo (code : Nat) (c : Ctx) : Word := BitVec.ofNat 64 (code + c.st * 2 ^ 32 + c.pos * 2 ^ 48)

/-- BKPT (R186): delivered at once, resumes at the word after it. -/
def execBkpt (w : Body) (s : State) : Out :=
  s.begin (.bkpt w) (fun s c =>
    let s1 := s.issued c w.hdr
    if c.active w.hdr 0 = 0 then .next s1 else .next (s1.raise c.m causeBkpt (trapWordInfo 0 c)))

/-- TRAP (R186). -/
def execTrap (w : Body) (s : State) : Out :=
  s.begin (.trap w) (fun s c =>
    let s1 := s.issued c w.hdr
    if c.active w.hdr 0 = 0 then .next s1 else .next (s1.raise c.m causeTrap (trapWordInfo w.imm.toNat c)))

/-- PMDONE (R188, R54): every register block is released at once; the group then issues nothing more, and it has signalled the scheduler once its loads have
completed and its counters have drained. -/
def execPmdone (w : Body) (s : State) : Out :=
  s.begin (.pmdone w) (fun s c =>
    if c.active w.hdr 0 = 0 then .next (s.issued c w.hdr)
    else match c.g.handler with
      | some h =>
        if c.m.ent ≠ handlerIdx ∨ h.cause ≠ causePreempt ∨ h.pmdone then s.misuse c 0
        else if s.graceOver c.crew then .next (s.fatal c.m.crew 2)
        else
          let s1 := (s.keepRegs c.m.crew c.m.grp).modGroup c.m.crew c.m.grp (fun g =>
            let g1 := g.landAll
            { g1 with preDone := true, handler := g1.handler.map (fun h => { h with pmdone := true }) })
          .next ((s1.dropBlocks c.crew c.m.grp 0 true).issued c w.hdr)
      | none => s.misuse c 0)

/-! ### Predicate logic (R196) -/

/-- The bits of a predicate that sub-element s of width w names (R18). -/
def predMask (w s : Nat) : Byte := BitVec.ofNat 8 ((2 ^ (w / 8) - 1) * 2 ^ (w / 8 * s))

/-- PAND, POR, PXOR and PNOT. -/
def predWord (o : Op) (w : Body) (f : Bool → Bool → Bool) (s : State) : Out :=
  s.begin (o.mk w) (fun s c =>
    let wd := intWidth w.ty
    let act := c.active w.hdr wd
    let ws := match w.dst with
      | .p d => (lanesOf act).map (fun l =>
          let x := c.val w.a 0 l
          let y := c.val w.b 0 l
          let on := (subs wd).filter (fun s => c.exec w.hdr wd l s)
          RegW.p d.toNat l (on.foldl (fun m s => m ||| predMask wd s) 0)
            (on.foldl (fun m s => if f (x.testBit (wd / 8 * s)) (y.testBit (wd / 8 * s)) then m ||| predMask wd s else m) 0))
      | _ => []
    .next (s.writeFixed c w.hdr (latency o w) (guardWidth o w) act ws []))

/-- PAND. -/
def execPand (w : Body) (s : State) : Out := predWord .pand w (fun x y => x && y) s

/-- POR. -/
def execPor (w : Body) (s : State) : Out := predWord .por w (fun x y => x || y) s

/-- PXOR. -/
def execPxor (w : Body) (s : State) : Out := predWord .pxor w (fun x y => x != y) s

/-- PNOT. -/
def execPnot (w : Body) (s : State) : Out := predWord .pnot w (fun x _ => !x) s

end Sys2Proof.Machine
end

