-- ==== Sys2Proof/Machine/System.lean ====
section
/-!
DEFINITION. Class 0x01: system registers, register blocks, the gang register, buffer records, votes and split queries (R189 to R195).
-/

namespace Sys2Proof.Machine

/-- SPLIT of the issuing entity (R25, R49). -/
def Ctx.splitIdx (c : Ctx) : Nat :=
  if c.m.ent = handlerIdx then ((c.g.handler.bind (·.trapped)).getD 15)
  else if c.g.isSplit then c.m.ent else 15

/-- The value of a system register as a lane reads it (R25, R189). -/
def State.sysVal (s : State) (c : Ctx) (r : SysReg) (l : Nat) : Nat :=
  match r with
  | .laneid => l
  | .grpidx => c.m.grp
  | .crewid => c.crew.slot
  | .taskid => c.crew.taskId.toNat
  | .gridix => c.crew.grid.toNat
  | .core => c.crew.core
  | .cluster => clusterOf c.crew.core
  | .die => dieOf c.crew.core
  | .width => c.crew.width
  | .ngroup => c.crew.groups.length
  | .rows => c.crew.rows.toNat
  | .state => c.st
  | .split => c.splitIdx
  | .defmask => c.g.defMask.toNat
  | .clock => s.clock.toNat
  | .memcap => s.dev.capLive.toNat * 2 ^ 20
  | .mapphase => s.dev.phase.toNat
  | .param => c.crew.param.toNat
  | .trapcause => c.g.cause.toNat
  | .trapinfo => c.g.info.toNat
  | .flags => (c.g.lane l).flags.toNat
  | .prio => s.prio c.crew c.g
  | .block => (c.g.lane l).occ.toNat + (if (c.g.lane l).valid then 65536 else 0)
  | .obbase => if c.crew.obKiB = 0 then 0 else c.crew.obBase
  | .accbase => if c.crew.accN = 0 then 0 else c.crew.accBase

/-- The system register of an operand. -/
def sysOf (o : Opnd) : SysReg :=
  match o with
  | .sys r => r
  | _ => .laneid

/-- SRD (R190). -/
def execSrd (w : Body) (s : State) : Out :=
  s.begin (.srd w) (fun s c =>
    let act := c.active w.hdr 0
    let r := sysOf w.a
    let ws := match w.dst with
      | .v d => (lanesOf act).map (fun l => RegW.v d.toNat l (BitVec.allOnes 64) (BitVec.ofNat 64 (s.sysVal c r l)))
      | .s d => if act = 0 then [] else [RegW.s d.toNat (BitVec.ofNat 64 (s.sysVal c r 0))]
      | _ => []
    .next (s.writeFixed c w.hdr (latency .srd w) 64 act ws []))

/-- SWR (R190, R26, R97). -/
def execSwr (w : Body) (s : State) : Out :=
  s.begin (.swr w) (fun s c =>
    let act := c.active w.hdr 0
    let s1 := match w.dst with
      | .sys .flags => s.modGroup c.m.crew c.m.grp (fun g =>
          (lanesOf act).foldl (fun g l => g.modLane l (fun x => { x with flags := BitVec.ofNat 16 (c.val w.a w.imm.toNat l % 256) })) g)
      | .sys .prio => if act = 0 then s else s.modGroup c.m.crew c.m.grp (fun g => { g with prioW := some (BitVec.ofNat 8 (c.val w.a w.imm.toNat 0)) })
      | _ => s
    .next (s1.issued c w.hdr))

/-! ### Register blocks (R21 to R24, R191) -/

/-- The RACQ requests that wait on a core: entity, count, since, and priority of the group. -/
def State.racqWaits (s : State) (core : Nat) : List (Member × Nat × Nat × Nat) :=
  ((s.crews.filter (fun c => c.core == core && c.phase == .resident)).map (fun c =>
    (c.groups.mapIdx (fun i g =>
      ((g.ents ++ (g.handler.map (·.ent)).toList).filterMap (fun e => match e.wait with
        | some (.racq n since) => some (⟨c.uid, i, e.idx⟩, n, since, s.prio c g)
        | _ => none)))).flatten)).flatten

/-- Granules that a group needs to reach a block count (R22, R191). -/
def needGranules (c : Crew) (g : Group) (n : Nat) : Nat := (n - g.nblk) * (c.width / 8)

/-- Raise a group's block count; the new registers read zero (R23). -/
def Group.raiseBlocks (g : Group) (n : Nat) : Group := { g with nblk := max g.nblk n }

/-- Does a waiting request keep a new one of this priority from being served at once (R22)? -/
def State.racqBlocked (s : State) (core prio : Nat) : Bool := (s.racqWaits core).any (fun r => decide (prio ≤ r.2.2.2))

/-- Can the raise be granted now? -/
def State.racqOk (s : State) (c : Ctx) (n : Nat) : Bool :=
  decide (needGranules c.crew c.g n ≤ s.freeGranules c.crew.core) && !s.racqBlocked c.crew.core (s.prio c.crew c.g)

/-- RACQ, waiting form (R191). -/
def execRacq (w : Body) (s : State) : Out :=
  s.begin (.racq w) (fun s c =>
    if c.active w.hdr 0 = 0 then .next (s.issued c w.hdr)
    else
      let n := c.uval w w.a
      if 16 < n then s.misuse c 63
      else if n ≤ c.g.nblk then .next (s.issued c w.hdr)
      else if s.racqOk c n then .next ((s.modGroup c.m.crew c.m.grp (fun g => g.raiseBlocks n)).issued c w.hdr)
      else .next (s.waits c w.hdr (.racq n c.cyc)))

/-- RACQ.try (R191). -/
def execRacqTry (w : Body) (s : State) : Out :=
  s.begin (.racqTry w) (fun s c =>
    let act := c.active w.hdr 0
    if act = 0 then .next (s.issued c w.hdr)
    else
      let n := c.uval w w.a
      if 16 < n then s.misuse c 63
      else
        let ok := decide (n ≤ c.g.nblk) || s.racqOk c n
        let s1 := if ok then s.modGroup c.m.crew c.m.grp (fun g => g.raiseBlocks n) else s
        let ws := match w.dst with
          | .p d => (lanesOf act).map (fun l => RegW.p d.toNat l 0xFF (if ok then 0xFF else 0))
          | _ => []
        .next (s1.writeInterlocked c w.hdr ws))

/-- The waiting request that R22 serves first: by priority, then the oldest; of requests of one priority and cycle the one of the earlier crew of the list and the lower
group (DESIGN CHOICE, assumption 87). -/
def State.racqFirst (s : State) (core : Nat) : Option (Member × Nat) :=
  ((s.racqWaits core).foldl (fun (b : Option (Member × Nat × Nat × Nat)) r => match b with
    | none => some r
    | some x => if x.2.2.2 < r.2.2.2 ∨ (x.2.2.2 = r.2.2.2 ∧ r.2.2.1 < x.2.2.1) then some r else b) none).map (fun r => (r.1, r.2.1))

/-- RACQ_GRANT: the request is granted once its granules are free (R22, R23). -/
def execRacqGrant (core : Nat) (s : State) : Out :=
  match s.racqFirst core with
  | none => .refused (.notEnabled "RACQ_GRANT")
  | some (m, n) =>
    match s.crew? m.crew, s.group? m.crew m.grp with
    | some c, some g =>
      if needGranules c g n ≤ s.freeGranules core then .next ((s.modGroup m.crew m.grp (fun g => g.raiseBlocks n)).advance m)
      else .refused (.notEnabled "RACQ_GRANT")
    | _, _ => .refused (.notEnabled "RACQ_GRANT")

/-- RREL (R191): nothing for a count that the group does not exceed. -/
def execRrel (w : Body) (s : State) : Out :=
  s.begin (.rrel w) (fun s c =>
    if c.active w.hdr 0 = 0 then .next (s.issued c w.hdr)
    else
      let n := c.uval w w.a
      if 16 < n then s.misuse c 63
      else .next ((if n < c.g.nblk then s.dropBlocks c.crew c.m.grp n false else s).issued c w.hdr))

/-! ### Gang register (R192) -/

/-- The list of a gang value, none where GANG raises ILLEGAL; a nonzero index at or above COUNT is ignored (R192 gives it no outcome; DESIGN CHOICE, assumption 93). -/
def gangOf (x ngroup grp : Nat) : Option (List Nat) :=
  let count := nbits x 24 3
  let l := (List.range count).map (fun i => nbits x (4 * i) 4)
  if x / 2 ^ 27 ≠ 0 ∨ count = 1 ∨ count = 7 then none
  else if count = 0 then some []
  else if l.any (fun i => decide (ngroup ≤ i)) ∨ l.eraseDups.length ≠ l.length ∨ !l.contains grp then none
  else some l

/-- GANG (R192). -/
def execGang (w : Body) (s : State) : Out :=
  s.begin (.gang w) (fun s c =>
    if c.active w.hdr 0 = 0 then .next (s.issued c w.hdr)
    else match gangOf (c.uval w w.a) c.crew.groups.length c.m.grp with
      | none => s.misuse c 63
      | some l => .next ((s.modGroup c.m.crew c.m.grp (fun g => { g with gang := l })).issued c w.hdr))

/-! ### Buffer records (R193) -/

/-- A quarter of a buffer record. -/
def quarter (b : BufRec) (q : Nat) : Word := b.extractLsb' (64 * q) 64

/-- A buffer record with one quarter written and bits 255:151 zero. -/
def setQuarter (b : BufRec) (q : Nat) (x : Word) : BufRec :=
  BitVec.ofNat 256 (setField b.toNat (64 * q) 64 x.toNat % 2 ^ 151)

/-- The number of a B operand. -/
def bufOf (o : Opnd) : Nat :=
  match o with
  | .b n => n.toNat
  | _ => 0

/-- BRRD (R193). -/
def execBrrd (w : Body) (s : State) : Out :=
  s.begin (.brrd w) (fun s c =>
    let act := c.active w.hdr 0
    let x := quarter (c.g.getB (bufOf w.a)) w.ssel
    let ws := match w.dst with
      | .v d => (lanesOf act).map (fun l => RegW.v d.toNat l (BitVec.allOnes 64) x)
      | .s d => if act = 0 then [] else [RegW.s d.toNat x]
      | _ => []
    .next (s.writeFixed c w.hdr (latency .brrd w) 64 act ws []))

/-- BRWR (R193). -/
def execBrwr (w : Body) (s : State) : Out :=
  s.begin (.brwr w) (fun s c =>
    if c.active w.hdr 0 = 0 then .next (s.issued c w.hdr)
    else .next ((s.modGroup c.m.crew c.m.grp (fun g =>
      { g with b := smSet 0 g.b (bufOf w.dst) (setQuarter (g.getB (bufOf w.dst)) w.ssel (BitVec.ofNat 64 (c.val w.a 0 0))) })).issued c w.hdr))

/-! ### Votes and split queries (R194, R195) -/

/-- VOTE (R194). -/
def execVote (w : Body) (s : State) : Out :=
  s.begin (.vote w) (fun s c =>
    let act := c.active w.hdr 0
    let m := maskOf ((lanesOf act).filter (fun l => (c.val w.a 0 l).testBit 0))
    let r : Nat := match w.sub with
      | 0 => if m ≠ 0 then 0xFF else 0
      | 1 => if m = act then 0xFF else 0
      | 2 => m.toNat
      | _ => popcount m.toNat 64
    let ws := match w.dst with
      | .p d => (lanesOf act).map (fun l => RegW.p d.toNat l 0xFF (BitVec.ofNat 8 r))
      | .s d => if act = 0 then [] else [RegW.s d.toNat (BitVec.ofNat 64 r)]
      | _ => []
    .next (s.writeFixed c w.hdr (latency .vote w) 64 act ws []))

/-- The value of a split query. In a binding handler, beside which other splits go on, the deferred and parked sets are those of now (R195; DEDUCED, assumption 94). -/
def Ctx.splitq (c : Ctx) (sel : Nat) : Nat :=
  match sel with
  | 0 => c.ent.lanes.toNat
  | 1 => if c.m.ent = handlerIdx then 1 else max 1 c.g.ents.length
  | 2 => c.g.deferred.length
  | 3 => (lanesIn c.g.parked).toNat
  | _ => ((c.g.deferred.head?).map (·.1)).getD exitBlk

/-- SPLITQ (R195). -/
def execSplitq (w : Body) (s : State) : Out :=
  s.begin (.splitq w) (fun s c =>
    let act := c.active w.hdr 0
    let ws := match w.dst with
      | .s d => if act = 0 then [] else [RegW.s d.toNat (BitVec.ofNat 64 (c.splitq w.sub))]
      | _ => []
    .next (s.writeFixed c w.hdr (latency .splitq w) 64 act ws []))

end Sys2Proof.Machine
end

