-- ==== Sys2Proof/Machine/Tasks.lean ====
section
/-!
DEFINITION. Work and its placement (R20, R25, R27, R127, R128, R256 to R258, R335 to R344, R346, R347, R350): regions, the matcher, SPAWN, host queues, placement, retirement and kills.
-/

namespace Sys2Proof.Machine

/-! ### Region control blocks (R335, R336) -/

def rcbParent (r : BitVec 1024) : Nat := (r.extractLsb' 0 64).toNat
def rcbPrio (r : BitVec 1024) : Nat := (r.extractLsb' 64 8).toNat
def rcbOvr (r : BitVec 1024) (i : Nat) : Bool := r.getLsbD (72 + i)
def rcbFd (r : BitVec 1024) : Bool := r.getLsbD 76
def rcbCheck (r : BitVec 1024) : Bool := r.getLsbD 77
def rcbKilled (r : BitVec 1024) : Bool := r.getLsbD 78
def rcbPartition (r : BitVec 1024) : Nat := (r.extractLsb' 80 5).toNat
def rcbMaxCores (r : BitVec 1024) : Nat := (r.extractLsb' 128 8).toNat
def rcbMaxCrews (r : BitVec 1024) : Nat := (r.extractLsb' 136 12).toNat
def rcbMaxGran (r : BitVec 1024) : Nat := (r.extractLsb' 148 18).toNat
def rcbMaxScr (r : BitVec 1024) : Nat := (r.extractLsb' 166 18).toNat
def rcbMaxTasks (r : BitVec 1024) : Nat := (r.extractLsb' 184 13).toNat
def rcbGrace (r : BitVec 1024) : Nat := (r.extractLsb' 256 32).toNat

/-- A region of a partition as a key of the Keyway cache. -/
def regionKey (part addr : Nat) : Nat := part * 2 ^ 64 + addr

/-- What translating an RCB's address gives the Kradun, which walks the tables itself: A, and D for a write, reach the leaf at once (R356; DESIGN CHOICE, assumption 83). -/
def State.rcbLine (s : State) (part addr : Nat) (write : Bool) : State × Xl :=
  if addr % 128 ≠ 0 then (s, .fault 4)
  else match s.walk part 0 0 0 addr true false with
    | .fault k => (s, .fault k)
    | .wait => (s, .wait)
    | .ok e _ =>
      let pa := e.pbase + (addr - e.vbase)
      match ptePLoc e.pte with
      | .remote m => if s.findsLost m.toNat then ((s.markLost m.toNat).dropModule m.toNat, .lost m.toNat) else (s.orLeaf e.leaf true write, .ok (.remote m) pa)
      | l => if s.lineHeld l pa then (s, .wait) else (s.orLeaf e.leaf true write, .ok l pa)

/-- The place in memory of an RCB, none where its address cannot be translated or is not 128-byte aligned, and while its line waits at the map point. -/
def State.rcbPlace (s : State) (part addr : Nat) : Option Nat :=
  match (s.rcbLine part addr false).2 with
  | .ok l pa => some (plocKey l pa)
  | _ => none

/-- An RCB: from the Keyway cache, else from memory (R335, R338). -/
def State.rcb? (s : State) (part addr : Nat) : Option (BitVec 1024) :=
  match s.rcbs.find? (fun r => r.1 == regionKey part addr) with
  | some r => some r.2
  | none => (s.rcbPlace part addr).map (fun k => BitVec.ofNat 1024 (s.readNum .device (.mem k) 128))

/-- Does the read of an RCB wait at the map point (R84)? -/
def State.rcbWaits (s : State) (part addr : Nat) : Bool :=
  s.rcbs.all (fun r => r.1 != regionKey part addr) && (s.rcbLine part addr false).2 == .wait

/-- The regions from one up to its top-level region, none when 16 steps do not reach it or an RCB cannot be read (R336, R338). -/
def State.pathFrom (s : State) (part addr fuel : Nat) : Option (List (Nat × BitVec 1024)) :=
  match fuel with
  | 0 => none
  | n + 1 =>
    match s.rcb? part addr with
    | none => none
    | some r => if rcbParent r = 0 then some [(addr, r)] else (s.pathFrom part (rcbParent r) n).map (fun l => (addr, r) :: l)

/-- Does the read of a region's path wait at the map point, at one of its first steps? -/
def State.pathWaits (s : State) (part addr fuel : Nat) : Bool :=
  match fuel with
  | 0 => false
  | n + 1 =>
    match s.rcb? part addr with
    | none => s.rcbWaits part addr
    | some r => rcbParent r != 0 && s.pathWaits part (rcbParent r) n

/-- A region's path. -/
def State.path? (s : State) (part addr : Nat) : Option (List (Nat × BitVec 1024)) := s.pathFrom part addr 16

/-- A region's path, empty where it has none. -/
def State.path (s : State) (part addr : Nat) : List (Nat × BitVec 1024) := (s.path? part addr).getD []

/-- The RCBs of a path are held in the Keyway cache from now on (R335); marked lines that they are read from are reported (R401). -/
def State.cachePath (s : State) (part : Nat) (l : List (Nat × BitVec 1024)) : State :=
  l.foldl (fun s e =>
    if s.rcbs.any (fun r => r.1 == regionKey part e.1) then s
    else
      let s0 := (s.rcbLine part e.1 false).1
      let s1 := s0.noteDev (s.walkReads part 0 e.1 true ++ ((s.rcbPlace part e.1).map (fun k => keysFrom k 128)).getD [])
      { s1 with rcbs := s1.rcbs ++ [(regionKey part e.1, e.2)] }) s

/-- The block from which a field that OVR governs is taken: bit 0 PRIO, 1 budget, 2 GRACE, 3 CHECK (R336). -/
def effRcb (l : List (Nat × BitVec 1024)) (bit : Nat) : BitVec 1024 := ((l.find? (fun e => rcbOvr e.2 bit)).map (·.2)).getD ((l.getLast?.map (·.2)).getD 0)

/-- The root of a region's fault domain (R336). -/
def domainRoot (l : List (Nat × BitVec 1024)) : Nat := ((l.find? (fun e => rcbFd e.2)).map (·.1)).getD ((l.getLast?.map (·.1)).getD 0)

/-- Is a region in the subtree of another? -/
def State.under (s : State) (part region root : Nat) : Bool := region == root || (s.path part region).any (fun e => e.1 == root)

/-- The effective budget of each region on a path, with the region. -/
def budgets (l : List (Nat × BitVec 1024)) : List (Nat × BitVec 1024) :=
  match l with
  | [] => []
  | e :: t => (e.1, effRcb (e :: t) 1) :: budgets t

/-! ### Task records (R257) -/

def trEntry (r : BitVec 1024) : Nat := (r.extractLsb' 0 16).toNat
def trGroups (r : BitVec 1024) : Nat := (r.extractLsb' 16 5).toNat
def trWidth (r : BitVec 1024) : Nat := (r.extractLsb' 21 3).toNat
def trPrio (r : BitVec 1024) : Nat := (r.extractLsb' 24 8).toNat
def trRows (r : BitVec 1024) : Nat := (r.extractLsb' 32 32).toNat
def trParam (r : BitVec 1024) : BitVec 64 := r.extractLsb' 128 64
def trRegion (r : BitVec 1024) : Nat := (r.extractLsb' 192 64).toNat
def trGrant (r : BitVec 1024) : BitVec 16 := r.extractLsb' 256 16
def trAccess (r : BitVec 1024) : BitVec 16 := r.extractLsb' 272 16
def trAll (r : BitVec 1024) : Bool := r.getLsbD 288

/-- A grid extent: 0 is taken as 1. -/
def trGrid (r : BitVec 1024) (d : Nat) : Nat := let x := (r.extractLsb' (64 + 21 * d) 21).toNat; if x = 0 then 1 else x

/-- A footprint: address, length and mode. -/
def trFp (r : BitVec 1024) (i : Nat) : Nat × Nat × Nat :=
  ((r.extractLsb' (320 + 96 * i) 64).toNat, (r.extractLsb' (384 + 96 * i) 30).toNat, (r.extractLsb' (414 + 96 * i) 2).toNat)

/-- The crews of a task: one for each grid point, none with ROWS 0. -/
def trCrews (r : BitVec 1024) : Nat := if trRows r = 0 then 0 else trGrid r 0 * trGrid r 1 * trGrid r 2

/-- GRIDIX of the n-th crew, x fastest (R25, R343). -/
def gridOf (r : BitVec 1024) (n : Nat) : BitVec 63 :=
  let x := n % trGrid r 0
  let y := n / trGrid r 0 % trGrid r 1
  let z := n / (trGrid r 0 * trGrid r 1)
  BitVec.ofNat 63 (x + y * 2 ^ 21 + z * 2 ^ 42)

/-- Do two footprints make a dependence (R258)? -/
def fpMeets (a b : Nat × Nat × Nat) : Bool :=
  a.2.2 != 0 && b.2.2 != 0 && (decide (2 ≤ a.2.2) || decide (2 ≤ b.2.2)) && decide (a.1 < b.1 + b.2.1) && decide (b.1 < a.1 + a.2.1) && a.2.1 != 0 && b.2.1 != 0

/-- The unit of an image whose entry block a record names and that carries a crew declaration (R256). -/
def Image.entryUnit (im : Image) (blk : Nat) : Option Nat := (List.range im.units.length).find? (fun u => match im.units[u]? with
  | some x => x.entry == blk && x.crew
  | none => false)

/-- Is a record malformed in itself (R256)? -/
def badRecord (im : Image) (r : BitVec 1024) : Bool :=
  r.getLsbD 127 || r.extractLsb' 289 31 != 0 || r.extractLsb' 896 128 != 0 || (im.entryUnit (trEntry r)).isNone || decide (16 < trGroups r) || decide (4 < trWidth r) ||
  (List.range 6).any (fun i => let f := trFp r i; f.2.2 == 0 && (f.1 != 0 || f.2.1 != 0))

/-! ### What a crew needs (R27, R257) -/

/-- The resources of one crew of a task. -/
structure Need where
  groups : Nat
  width  : Nat
  regs   : Nat
  scr    : Nat
  acc    : Nat
  ob     : Nat
  deriving DecidableEq, Repr, Inhabited

/-- The width of a WIDTHC code. -/
def widthOf (code : Nat) : Nat := 8 * 2 ^ (code - 1)

/-- The unit that a task's record names. -/
def State.taskUnit (s : State) (t : Task) : Nat × UnitD :=
  let im := (s.image? t.img).getD default
  let u := (im.entryUnit (trEntry t.raw)).getD 0
  (u, im.units[u]?.getD default)

/-- What one crew of a task needs: the declaration, with GROUPS and WIDTHC of the record where they are not 0. -/
def State.needOf (s : State) (t : Task) : Need :=
  let u := (s.taskUnit t).2
  ⟨if trGroups t.raw = 0 then u.groups else trGroups t.raw, widthOf (if trWidth t.raw = 0 then u.widthc else trWidth t.raw), u.regs, u.scrKiB, u.accN, u.obKiB⟩

/-- Granules of a crew at launch (R22). -/
def Need.gran (n : Need) : Nat := n.groups * n.regs * (n.width / 8)

/-- The lowest free run of n units among size, given the runs in use (R127, R128). -/
def freeRun (size n : Nat) (used : List (Nat × Nat)) : Option Nat :=
  let ok := fun (b : Nat) => decide (b + n ≤ size) && used.all (fun u => decide (u.1 + u.2 ≤ b) || decide (b + n ≤ u.1))
  if n = 0 then some 0 else ((0 :: used.map (fun u => u.1 + u.2)).filter ok).foldl (fun (r : Option Nat) b => some (match r with
    | none => b
    | some a => min a b)) none

/-- The crews that hold resources of a core: those resident there. -/
def State.onCore (s : State) (core : Nat) : List Crew := s.crews.filter (fun c => c.core == core && c.phase == .resident)

/-- The free operand-buffer run on a core, in KiB. -/
def State.freeOb (s : State) (core n : Nat) : Option Nat := freeRun 256 n ((s.onCore core).map (fun c => (c.obBase / 1024, c.obKiB)))

/-- The free accumulator run on a core, in units. -/
def State.freeAcc (s : State) (core n : Nat) : Option Nat := freeRun 64 n ((s.onCore core).map (fun c => (c.accBase / 4096, c.accN)))

/-- The lowest free crew slot. -/
def State.freeSlot (s : State) (core : Nat) : Option Nat := (List.range 16).find? (fun i => (s.onCore core).all (fun c => c.slot != i))

/-- Is a core enabled and in a partition (R339)? -/
def State.inPart (s : State) (core part : Nat) : Bool :=
  decide (core < 160) && s.dev.coreen.getLsbD core && ((s.dev.partmap[core]?).getD 0x80).toNat == part

/-- Is a partition idle: it has no top-level region (R339)? -/
def State.idlePart (s : State) (part : Nat) : Bool := ((s.dev.parts[part]?).getD Part.init).root == 0

/-- Does a crew fit a core now, its register granules and reservation records given (R27, R128, R343)? -/
def State.fits (s : State) (core : Nat) (n : Need) (gran resv : Nat) : Bool :=
  let here := s.onCore core
  (s.freeSlot core).isSome && decide (here.foldl (fun k c => k + (c.groups.filter (fun g => !g.retired)).length) 0 + n.groups ≤ 32) && decide (gran ≤ s.freeGranules core) &&
  decide (here.foldl (fun k c => k + c.scrKiB) 0 + n.scr ≤ 768) && (s.freeOb core n.ob).isSome && (s.freeAcc core n.acc).isSome &&
  decide (s.resvCount core + resv ≤ 64)

/-- The resident crews of a region's subtree. -/
def State.crewsUnder (s : State) (part root : Nat) : List Crew := s.crews.filter (fun c => c.part == part && c.phase == .resident && s.under part c.region root)

/-- Granules held by a crew's groups. -/
def Crew.gran (c : Crew) : Nat := c.groups.foldl (fun n g => n + g.nblk) 0 * (c.width / 8)

/-- The regions on a path whose budget a crew on a core would break (R337). -/
def State.budgetBreaks (s : State) (part region core : Nat) (n : Need) (gran : Nat) : List Nat :=
  ((budgets (s.path part region)).filter (fun e =>
    let cs := s.crewsUnder part e.1
    decide (rcbMaxCores e.2 < (core :: cs.map (·.core)).eraseDups.length) || decide (rcbMaxCrews e.2 < cs.length + 1) ||
    decide (rcbMaxGran e.2 < cs.foldl (fun k c => k + c.gran) 0 + gran) || decide (rcbMaxScr e.2 < cs.foldl (fun k c => k + c.scrKiB) 0 + n.scr))).map (·.1)

/-- Tasks of a region's subtree in the matcher keep MAXTASKS with one more, on the whole path (R337). -/
def State.tasksOk (s : State) (part region : Nat) : Bool :=
  (budgets (s.path part region)).all (fun e =>
    decide ((s.tasks.filter (fun t => t.part == part && s.under part t.region e.1)).length + 1 ≤ rcbMaxTasks e.2))

/-- Tasks of a partition in the matcher. -/
def State.inflight (s : State) (part : Nat) : Nat := (s.tasks.filter (fun t => t.part == part)).length

/-! ### Priorities (R342) -/

/-- Recompute the effective priorities: each task's base, or that of any later task that depends on it. -/
def effPrios (l : List Task) : List Task :=
  match l with
  | [] => []
  | t :: rest =>
    let r := effPrios rest
    { t with eff := r.foldl (fun n u => if u.preds.contains t.uid then max n u.eff else n) t.base } :: r

/-- The base priorities after a refresh: the lesser of the record's PRIO and the effective PRIO of the task's region (R342, R348). -/
def State.rebase (s : State) : State :=
  { s with tasks := s.tasks.map (fun t => match s.path t.part t.region with
      | [] => t
      | path => { t with base := min (trPrio t.raw) (rcbPrio (effRcb path 0)) }) }

/-- The priorities of every task are recomputed. -/
def State.reprio (s : State) : State := { s with tasks := effPrios s.tasks }

/-! ### Retirement and publication (R341) -/

/-- Change a task. -/
def State.modTask (s : State) (uid : Nat) (f : Task → Task) : State := { s with tasks := s.tasks.map (fun t => if t.uid = uid then f t else t) }

/-- Stores become visible at the device instance, and wake the monitors of their lines (R67, R122). -/
def State.publish (s : State) (l : List Seen) : State :=
  let hit := fun (d : Drained) => decide (d.level < 4) && l.any (fun x => x.has d)
  let new := s.drained.filter hit
  let s1 : State := { s with drained := s.drained.map (fun d => if hit d then { d with level := 4 } else d) }
  ((s1.wake (new.flatMap (fun d => d.cells.map (·.1)))).settleMem).settleFences

/-- Change a submission queue: queue q of function fn. -/
def State.modQueue (s : State) (fn q : Nat) (f : Queue → Queue) : State := { s with dev := { s.dev with queues := s.dev.queues.modify (4 * fn + q) f } }

/-- A submission queue. -/
def State.queue (s : State) (fn q : Nat) : Queue := (s.dev.queues[4 * fn + q]?).getD Queue.init

/-- After a function-level reset the queues' indices return to 0 once the function's tasks have left the matcher (R391). -/
def State.flrSettle (s : State) (fn : Nat) : State :=
  if s.tasks.any (fun t => match t.queue with
    | some q => q.1 == fn
    | none => false) then s
  else (List.range 4).foldl (fun s q => s.modQueue fn q (fun x => if x.flr then { x with head := 0, tail := 0, done := 0, flr := false } else x)) s

/-- A task leaves the matcher: its dependents no longer wait for it. -/
def State.dropTask (s : State) (t : Task) : State :=
  let s1 : State := { s with tasks := (s.tasks.filter (fun u => u.uid != t.uid)).map (fun u =>
    if u.preds.contains t.uid then { u with preds := u.preds.filter (· != t.uid), seen := u.seen ++ t.stores } else u) }
  let s2 := s1.reprio
  match t.queue with
  | some q => s2.flrSettle q.1
  | none => s2

/-- Can no core of a partition ever hold a crew of a task, or does it exceed an effective budget of its own path (R344)? -/
def State.unplaceable (s : State) (t : Task) : Bool :=
  let n := s.needOf t
  decide (trCrews t.raw ≠ 0) &&
  (!(List.range 160).any (fun k => s.inPart k t.part) || decide (1024 < n.gran) || decide (768 < n.scr) || decide (64 < n.acc) || decide (256 < n.ob) || decide (16 < n.groups) ||
   (budgets (s.path t.part t.region)).any (fun e => decide (rcbMaxCores e.2 < 1) || decide (rcbMaxCrews e.2 < 1) || decide (rcbMaxGran e.2 < n.gran) || decide (rcbMaxScr e.2 < n.scr)))

/-- Is a partition draining? -/
def State.draining (s : State) (part : Nat) : Bool := ((s.dev.parts[part]?).getD Part.init).drain

/-- A task has become ready: an unplaceable one has its fault domain killed, unless its partition drains (R344). -/
def State.judge (s : State) (t : Task) : State :=
  if !s.draining t.part && s.unplaceable t then { s with kills := s.kills ++ [⟨t.region, t.part, 3, t.id⟩] } else s

/-- A task retires: what its crews wrote is visible at the device instance, Q_DONE of its queue rises, before a reset that waited for the task clears it, and the next tasks may
become ready (R341, R391, R400). -/
def State.retireOne (s : State) (t : Task) : State :=
  let s1 := s.publish t.stores
  match t.queue with
  | some (fn, q) =>
    let s2 := (s1.modQueue fn q (fun x => { x with done := x.done + 1 })).dropTask t
    if fn = 0 then s2 else s2.vector fn 0
  | none => s1.dropTask t

/-- The tasks that retire of themselves: crewless tasks without predecessors. -/
def State.crewless (s : State) : Option Task := s.tasks.find? (fun t => trCrews t.raw == 0 && t.preds.isEmpty)

/-- Tasks retire as long as one can. -/
def State.retireCrewless (s : State) (fuel : Nat) : State :=
  match fuel with
  | 0 => s
  | n + 1 =>
    match s.crewless with
    | some t => (s.retireOne t).retireCrewless n
    | none => s

/-- A task retires, then those crewless tasks that waited for it; the tasks that have become ready are judged. -/
def State.retireTask (s : State) (t : Task) : State :=
  let waiting := (s.tasks.filter (fun u => !u.preds.isEmpty)).map (·.uid)
  let s1 := (s.retireOne t).retireCrewless (s.tasks.length)
  (s1.tasks.filter (fun u => waiting.contains u.uid && u.preds.isEmpty)).foldl (fun s u => s.judge u) s1

/-! ### Entering the matcher (R256, R258, R338, R341) -/

/-- May a task of one region post into another: it is on the target's path, and nothing on that path is killed (R338)? -/
def postable (l : List (Nat × BitVec 1024)) (from_ : Nat) : Bool := l.any (fun e => e.1 == from_) && l.all (fun e => !rcbKilled e.2)

/-- The tasks on which a new task depends (R258). -/
def State.predsOf (s : State) (part region : Nat) (raw : BitVec 1024) (anc : List Nat) : List Nat :=
  (s.tasks.filter (fun u => u.part == part && u.region == region && !anc.contains u.uid &&
    (trAll raw || (List.range 6).any (fun i => (List.range 6).any (fun j => fpMeets (trFp u.raw i) (trFp raw j)))))).map (·.uid)

/-- A task enters the matcher. -/
def State.enterTask (s : State) (part img : Nat) (raw : BitVec 1024) (region : Nat) (anc : List Nat) (queue : Option (Nat × Nat)) (seen : List Seen) : State × BitVec 64 :=
  let p := (s.dev.parts[part]?).getD Part.init
  let path := s.path part region
  let base := min (trPrio raw) (rcbPrio (effRcb path 0))
  let t : Task := ⟨s.nextTask, p.nextId, part, img, raw, region, anc, queue, base, base, s.predsOf part region raw anc, 0, 0, trCrews raw, seen, []⟩
  let s1 : State := { s with
    tasks := s.tasks ++ [t]
    nextTask := s.nextTask + 1
    dev := { s.dev with parts := s.dev.parts.set part { p with nextId := p.nextId + 1 } } }
  let s2 := s1.reprio
  let s3 := if t.preds = [] then (if trCrews raw = 0 then s2.retireTask t else s2.judge t) else s2
  (s3, p.nextId)

/-! ### SPAWN (R256) -/

/-- An entity-level word reads a record of n bytes at an aligned virtual address: its line's translation, or what stands in the way. -/
inductive RecRes where
  | got (raw : Nat)
  | trap (cause : BitVec 8) (info : Word)
  | ask (addr kind : Nat)
  | wait
  deriving DecidableEq, Repr, Inhabited

/-- The read of a record that lies within one line (R58, R84, R86, R87, R256, R259, R364); a marked line is reported (R401). -/
def State.readRecord (s : State) (c : Crew) (gi va n : Nat) (held : State → PLoc → Nat → Bool) : State × RecRes :=
  let t := s.translate ⟨c.core, c.uid, c.part, false, false, gi⟩ va ((s.freeWord 0).getLsbD 0) ((s.freeWord 0).getLsbD 1)
  match t.2 with
  | .fault k => (t.1, .ask va k)
  | .wait => (s, .wait)
  | .lost _ => (t.1.report c.uid gi va 0x12 7, .trap causeRemotelost 1)
  | .ok l pa =>
    if t.1.aboveCap l pa then (t.1.report c.uid gi va 0x11 7, .trap causeCapacity (faultInfo 0 false va))
    else if held t.1 l pa || t.1.returnedAt (.mem (plocKey l pa)) n then (s, .wait)
    else (t.1.noteMarks c.uid gi 7 (keysFrom (plocKey l pa) n), .got (t.1.readNum .device (.mem (plocKey l pa)) n))

/-- What a SPAWN comes to. -/
inductive SpawnRes where
  | wait
  | ask (kind : Nat)
  | trap (cause : BitVec 8) (info : Word)
  | done (v : BitVec 64)
  deriving DecidableEq, Repr, Inhabited

/-- An earlier SPAWN of a group that still waits, at its word or in the operand log, comes first. -/
def Group.spawnBefore (g : Group) (seq : Nat) : Bool :=
  (g.ents ++ (g.handler.map (·.ent)).toList).any (fun e => match e.wait with
    | some (.spawn _ _ q) => decide (q < seq)
    | _ => false) ||
  g.mws.any (fun m => decide (m.seq < seq) && (match m.op with
    | .spawn _ => true
    | _ => false))

/-- SPAWN reads its record once its group's earlier accesses are visible at the device instance, and posts the task, fails or waits (R256, R258). -/
def State.spawnTry (s : State) (m : Member) (c : Crew) (g : Group) (try_ : Bool) (addr seq : Nat) (held : State → PLoc → Nat → Bool) : State × SpawnRes :=
  if !s.releaseReady c m.grp g seq 4 || g.spawnBefore seq then (s, .wait)
  else
    let r := s.readRecord c m.grp addr 128 held
    match r.2 with
    | .wait => (s, .wait)
    | .trap cause info => (r.1, .trap cause info)
    | .ask _ k => (r.1, .ask k)
    | .got x =>
      let raw := BitVec.ofNat 1024 x
      let im := (s.image? c.img).getD default
      let region := if trRegion raw = 0 then c.region else trRegion raw
      match r.1.path? c.part region with
      | none => if r.1.pathWaits c.part region 16 then (s, .wait) else (r.1, .trap causeBadrec (faultInfo 0 false 0))
      | some path =>
        let s1 := r.1.cachePath c.part path
        if badRecord im raw || !postable path c.region then (s1, .trap causeBadrec (faultInfo 0 false 0))
        else if 4096 ≤ s1.inflight c.part ∨ !s1.tasksOk c.part region then (if try_ then (s1, .done (BitVec.allOnes 64)) else (s1, .wait))
        else
          let anc := match s1.task? c.task with
            | some t => t.uid :: t.anc
            | none => []
          let e := s1.enterTask c.part c.img raw region anc none (g.snapshot c.uid m.grp seq)
          (e.1, .done e.2)

/-- An entity-level word goes to the operand log with a fault that is asked about; its entity may go on (R240, R364). -/
def State.logAsk (s : State) (c : Ctx) (seq : Nat) (op : MemOp) (dst : MDst) (addr size line kind : Nat) : State :=
  let a := s.nextFree.ask (.word ⟨c.m.crew, c.m.grp⟩ seq) c.m.crew c.m.grp line kind 7
  a.1.modGroup c.m.crew c.m.grp (fun g => { g with mws := g.mws ++ [logWord c seq op dst addr size a.2] })

/-- The S register of a word as a destination. -/
def sDst (o : Opnd) : MDst :=
  match o with
  | .s d => .s d.toNat
  | _ => .none

/-- SPAWN: the first attempt, then the wait. -/
def State.spawnWord (s : State) (c : Ctx) (w : Body) (held : State → PLoc → Nat → Bool) : Out :=
  let addr := c.val w.a 0 0
  if addr % 128 ≠ 0 then s.trapWord c causeAlign (faultInfo 0 false addr)
  else
    let seq := s.nextSeq
    let s0 : State := { s with nextSeq := s.nextSeq + 1 }
    let r := s0.spawnTry c.m c.crew ((s.group? c.m.crew c.m.grp).getD c.g) (w.sub == 1) addr seq held
    match r.2 with
    | .wait => .next (r.1.waits c w.hdr (.spawn (w.sub == 1) addr seq))
    | .ask k => .next ((r.1.logAsk c seq (.spawn (w.sub == 1)) (sDst w.dst) addr 128 addr k).issued c w.hdr)
    | .trap cause info => r.1.trapWord c cause info
    | .done v => .next (r.1.writeInterlocked c w.hdr (sWrite w.dst v.toNat))

/-- A SPAWN of the operand log whose fault is answered tries again; it leaves the log when it posts, fails or is delivered a fault. -/
def State.spawnLogged (s : State) (g : GRef) (seq : Nat) (held : State → PLoc → Nat → Bool) : Option State :=
  match s.crew? g.crew, s.group? g.crew g.grp, (s.group? g.crew g.grp).bind (fun x => x.word? seq) with
  | some c, some gr, some m =>
    match m.op with
    | .spawn try_ =>
      if c.phase ≠ .resident ∨ m.atRest then none
      else
        let addr := (m.accs.headD default).va
        let r := s.spawnTry ⟨g.crew, g.grp, m.ent⟩ c gr try_ addr seq held
        match r.2 with
        | .wait => none
        | .ask k =>
          let a := r.1.nextFree.ask (.word g seq) g.crew g.grp addr k 7
          some (a.1.modGroup g.crew g.grp (fun x => x.modWord seq (fun m => { m with stat := .asked a.2 })))
        | .trap cause info => some (r.1.deliverWord g.crew g.grp seq cause info)
        | .done v => some (r.1.modGroup g.crew g.grp (fun x =>
            ({ x with mws := x.mws.filter (fun m => m.seq != seq) } : Group).deliverTo 0 false (loadWrites m.dst 0 v.toNat)))
    | _ => none
  | _, _, _ => none

/-- A waiting SPAWN tries again, at its word or in the operand log: a task enters, or the word's fault is raised. -/
def State.spawnAgain (s : State) (m : Member) (held : State → PLoc → Nat → Bool) : Option State :=
  match (s.ent? m).bind (·.wait), s.crew? m.crew, s.group? m.crew m.grp, s.waiting m with
  | some (.spawn try_ addr seq), some c, some g, some (cx, .spawn, w) =>
    if c.phase ≠ .resident then none
    else
      let r := s.spawnTry m c g try_ addr seq held
      match r.2 with
      | .wait => none
      | .ask k => if g.logFull then none else some ((r.1.logAsk cx seq (.spawn try_) (sDst w.dst) addr 128 addr k).advance m)
      | .trap cause info => some ((r.1.modEnt m (fun e => { e with wait := none })).raise m cause info)
      | .done v => some (r.1.endWait m (sWrite w.dst v.toNat))
  | _, _, some g, _ =>
    (g.mws.find? (fun x => x.ent == m.ent && !x.atRest && (match x.op with
      | .spawn _ => true
      | _ => false))).bind (fun x => s.spawnLogged ⟨m.crew, m.grp⟩ x.seq held)
  | _, _, _, _ => none

/-! ### Host queues (R338, R340) -/

/-- The partition that serves a queue: the one whose root region stands at the top of the queue's default region. -/
def State.queuePart (s : State) (fn q : Nat) : Option Nat :=
  let x := s.queue fn q
  (List.range 32).find? (fun p =>
    let root := ((s.dev.parts[p]?).getD Part.init).root.toNat
    decide (root ≠ 0) && (match s.path? p x.region.toNat with
      | some l => (l.getLast?.map (·.1)) == some root
      | none => false))

/-- Does a queue hold a record that is to be read: none is in hand? -/
def Queue.waiting (x : Queue) : Bool := x.en && x.hand.isNone && x.head != x.tail && !x.flr

/-- The region that a record of a queue names. -/
def Queue.target (x : Queue) (raw : BitVec 1024) : Nat := if trRegion raw = 0 then x.region.toNat else trRegion raw

/-- Would a host record make SPAWN raise BADREC (R338, R340)? -/
def State.hostBad (s : State) (part img : Nat) (x : Queue) (raw : BitVec 1024) : Bool :=
  badRecord ((s.image? img).getD default) raw || (match s.path? part (x.target raw) with
    | some path => !postable path x.region.toNat
    | none => true)

/-- May the record in hand of a queue enter now, or be skipped: the matcher and its region's budget have room (R337, R339)? -/
def State.handReady (s : State) (part i : Nat) : Bool :=
  let x := s.queue (i / 4) (i % 4)
  match x.hand with
  | some (img, raw) => x.en && s.queuePart (i / 4) (i % 4) == some part && !s.pathWaits part (x.target raw) 16 &&
      (s.hostBad part img x raw || (decide (s.inflight part < 4096) && s.tasksOk part (x.target raw)))
  | none => false

/-- The queues in the order in which a partition serves them: round-robin from the one after the last served (R340). -/
def State.queueOrder (s : State) (part : Nat) : List Nat := (List.range 128).map (fun i => (((s.dev.parts[part]?).getD Part.init).turn + 1 + i) % 128)

/-- The queue whose record in hand enters next. -/
def State.nextHand (s : State) (part : Nat) : Option Nat := (s.queueOrder part).find? (s.handReady part)

/-- The queue that its partition reads next, one record at a time: none while a record in hand can enter. -/
def State.nextQueue (s : State) (part : Nat) : Option Nat :=
  if (s.nextHand part).isSome then none
  else (s.queueOrder part).find? (fun i => (s.queue (i / 4) (i % 4)).waiting && s.queuePart (i / 4) (i % 4) == some part)

/-- A partition has served a queue. -/
def State.serveQueue (s : State) (part i : Nat) : State := { s with dev := { s.dev with parts := s.dev.parts.modify part (fun p => { p with turn := i }) } }

/-- The host address of an entry of a ring. -/
def Queue.entryAddr (x : Queue) : Nat := x.base.toNat / 4096 * 4096 + 128 * (x.head.toNat % 2 ^ x.log2n.toNat)

/-- A record is skipped (R340). -/
def Queue.skipOne (x : Queue) : Queue :=
  { x with
    head := x.head + 1
    erridx := if x.skip then x.erridx else x.head
    skip := true
    nskip := if x.nskip = 0xFFFF then x.nskip else x.nskip + 1 }

/-- A queue's record is skipped, and vector 1 of its function tells it (R340, R391). -/
def State.skipRecord (s : State) (fn q : Nat) : State :=
  let s1 := s.modQueue fn q Queue.skipOne
  if fn = 0 then s1 else s1.vector fn 1

/-- QUEUE_RECORD_READ: the record at Q_HEAD is read; one that would make SPAWN raise BADREC is skipped. -/
def execQueueRecordRead (fn q img : Nat) (s : State) : Out :=
  match s.queuePart fn q, s.image? img with
  | some part, some im =>
    if fn < 32 ∧ q < 4 ∧ s.nextQueue part = some (4 * fn + q) ∧ im.part = part then
      let x := s.queue fn q
      let raw := BitVec.ofNat 1024 (s.readNum .device (.mem (hostKey x.entryAddr)) 128)
      let region := if trRegion raw = 0 then x.region.toNat else trRegion raw
      let s1 := s.serveQueue part (4 * fn + q)
      match s1.path? part region with
      | none => if s1.pathWaits part region 16 then .refused (.notEnabled "QUEUE_RECORD_READ") else .next (s1.skipRecord fn q)
      | some path =>
        let s2 := s1.cachePath part path
        if badRecord im raw || !postable path x.region.toNat then .next (s2.skipRecord fn q)
        else .next (s2.modQueue fn q (fun x => { x with hand := some (img, raw) }))
    else .refused (.notEnabled "QUEUE_RECORD_READ")
  | _, _ => .refused (.notEnabled "QUEUE_RECORD_READ")

/-- A record in hand enters the matcher of its partition, or is skipped where it may no longer be posted (R338, R350). -/
def State.hostEnter (s : State) (fn q : Nat) : Option State :=
  match (s.queue fn q).hand, s.queuePart fn q with
  | some (img, raw), some part =>
    if s.nextHand part ≠ some (4 * fn + q) then none
    else
      let x := s.queue fn q
      let s1 := s.serveQueue part (4 * fn + q)
      if s.hostBad part img x raw then some ((s1.skipRecord fn q).modQueue fn q (fun x => { x with hand := none }))
      else
        let e := (s1.cachePath part (s1.path part (x.target raw))).enterTask part img raw (x.target raw) [] (some (fn, q)) []
        some (e.1.modQueue fn q (fun x => { x with head := x.head + 1, hand := none }))
  | _, _ => none

/-! ### Placement (R343) -/

/-- Is a task ready: it waits for no predecessor, and a grid point has no crew yet (R341)? -/
def Task.ready (t : Task) : Bool := t.preds.isEmpty && decide (t.placed < trCrews t.raw)

/-- Does the next crew of a task fit a core, resources and budgets together? -/
def State.taskFits (s : State) (t : Task) (core : Nat) : Bool :=
  let n := s.needOf t
  !s.idlePart t.part && s.inPart core t.part && s.fits core n n.gran 0 && (s.budgetBreaks t.part t.region core n n.gran).isEmpty

/-- The regions whose budgets hold a task's next crew back: on every core that has the resources for it, or on every core where none has, some budget of its path would break
(R343; DEDUCED, assumption 89). -/
def State.heldRegions (s : State) (t : Task) : List Nat :=
  let n := s.needOf t
  let cores := (List.range 160).filter (fun k => s.inPart k t.part)
  let free := cores.filter (fun k => s.fits k n n.gran 0)
  let broken := (if free = [] then cores else free).map (fun k => s.budgetBreaks t.part t.region k n n.gran)
  if broken.any (·.isEmpty) then [] else broken.flatten.eraseDups

/-- A blocking task keeps tasks of its own or lower priority from being placed; one that budgets hold back does so only within the regions that do (R343). -/
def State.blockedBy (s : State) (t u : Task) : Bool :=
  u.uid != t.uid && u.part == t.part && u.ready && decide (2 ^ 16 ≤ u.age) && decide (t.eff ≤ u.eff) &&
    (s.heldRegions u).all (fun r => s.under t.part t.region r)

/-- The task whose crew is placed next in a partition (R343). -/
def State.nextPlaced (s : State) (part : Nat) : Option Task :=
  (s.tasks.filter (fun t => t.part == part && t.ready && (List.range 160).any (s.taskFits t) && !s.tasks.any (s.blockedBy t))).foldl (fun b t => match b with
    | none => some t
    | some u => if u.eff < t.eff then some t else some u) none

/-- The crew that a placement makes (R16, R20, R25, R27). -/
def State.newCrew (s : State) (t : Task) (core : Nat) : Crew :=
  let n := s.needOf t
  let u := s.taskUnit t
  let im := (s.image? t.img).getD default
  let entry := u.2.entry
  let path := s.path t.part t.region
  let groups := (List.range n.groups).map (fun i =>
    { Group.launch n.width (trRows t.raw) n.regs entry (descHome (im.blk entry)) i (s.cyc core) with acq := t.seen.map (fun x => (0, x)), recMark := s.nextSeq })
  { uid := s.nextUid, task := t.uid, taskId := t.id, part := t.part, img := t.img, unit := u.1, core := core, slot := (s.freeSlot core).getD 0, order := s.nextSeq
    grid := gridOf t.raw t.placed, width := n.width, rows := BitVec.ofNat 32 (trRows t.raw), param := trParam t.raw, region := t.region, grant := trGrant t.raw
    access := trAccess t.raw, scrKiB := n.scr, obKiB := n.ob, obBase := 1024 * (s.freeOb core n.ob).getD 0, accN := n.acc, accBase := 4096 * (s.freeAcc core n.acc).getD 0
    depth := u.2.depth, bars := u.2.bars, groups := groups, resv := [], kicks := [], rdv := [], check := rcbCheck (effRcb path 3), phase := .resident
    preempt := none, image := none, wbUsed := false, wbSnap := [], stopped := false }

/-- Every live group of a crew enters the home state of its entry block. -/
def State.enterAll (s : State) (uid : Nat) (home : Nat) : State :=
  let gs := ((s.crew? uid).map (·.groups)).getD []
  (gs.mapIdx (fun i g => (i, g))).foldl (fun s e => if e.2.ents = [] then s else s.enter ⟨uid, e.1, 0⟩ home) s

/-- A crew of a task is placed on a core. -/
def State.place (s : State) (t : Task) (core : Nat) : State :=
  let c := s.newCrew t core
  let im := (s.image? t.img).getD default
  let held := fun (u : Task) => (s.heldRegions u).isEmpty
  let s1 : State := { s with
    crews := s.crews ++ [c]
    nextUid := s.nextUid + 1
    nextSeq := s.nextSeq + 1
    tasks := s.tasks.map (fun u =>
      if u.uid = t.uid then { u with placed := u.placed + 1, age := if 2 ^ 16 ≤ u.age then 0 else u.age }
      else if u.part = t.part ∧ u.ready ∧ t.eff ≤ u.eff ∧ held u then { u with age := u.age + 1 } else u) }
  (s1.enterAll c.uid (descHome (im.blk (trEntry t.raw)))).repartition core

/-! ### A crew's end (R341) -/

/-- Does a crew wait for engine work that it issued? -/
def State.crewBusy (s : State) (c : Crew) : Bool :=
  !c.kicks.isEmpty || s.cores.any (fun k => k.copies.any (fun x => x.crew == c.uid) || k.reqs.any (fun x => x.crew == c.uid) ||
    k.matrix.any (fun x => x.crew == c.uid) || k.beryl.any (fun x => x.crew == c.uid)) ||
  s.xreds.any (fun x => x.parts.any (fun p => p.crew == c.uid && !p.dead)) || c.groups.any (fun g => !g.mws.isEmpty)

/-- A crew's place on its core is free: translations, sets and resources. -/
def State.leaveCore (s : State) (c : Crew) : State :=
  let s1 := s.dropCrewTlb c.uid
  ({ s1 with crews := s1.crews.filter (fun x => x.uid != c.uid) } : State).repartition c.core

/-- The stores of a crew's groups and engines that not every agent of the device sees yet. -/
def State.storesOf (s : State) (uid : Nat) : List Seen := (s.drained.filter (fun d => d.writer.crew? == some uid)).map (fun d => .store d.id)

/-- CREW_RETIRE: a crew whose groups have retired and whose engine work is done retires, and with the last of its crews its task. -/
def execCrewRetire (crew : Nat) (s : State) : Out :=
  match s.crew? crew with
  | none => .refused (.notEnabled "CREW_RETIRE")
  | some c =>
    if c.phase = .resident ∧ c.groups.all (·.retired) ∧ !s.crewBusy c then
      let ids := s.storesOf crew
      let s1 := (s.leaveCore c).modTask c.task (fun t => { t with left := t.left - 1, stores := t.stores ++ ids })
      match s1.task? c.task with
      | some t => .next (if t.left = 0 then s1.retireTask t else s1)
      | none => .next s1
    else .refused (.notEnabled "CREW_RETIRE")

/-! ### Kills (R347) -/

/-- The place of a byte's end for a copy, none where it has none. -/
def State.killEnd (s : State) (cr : Crew) (e : End) (write : Bool) : Option Place :=
  match e with
  | .at_ p => some p
  | .virt va | .half va =>
    (match s.peek ⟨cr.core, cr.uid, cr.part, write, false, 0⟩ (va / 256 * 256) with
     | .ok l pa => some (.mem (plocKey l (pa + va % 256)))
     | _ => none)
  | _ => none

/-- The lines of a copy as they were checked, or as they translate now. -/
def State.killLines (s : State) (cr : Crew) (c : Copy) (ends : List (End × End)) : List ((Nat × Bool) × LineRes) :=
  (pieceLines ends).map (fun ln => (ln, match ((c.lines.find? (fun e => e.1 == ln)).map (·.2) : Option LineRes) with
    | some (LineRes.ok l pa) => LineRes.ok l pa
    | _ => match s.peek ⟨cr.core, cr.uid, cr.part, ln.2, false, 0⟩ (256 * ln.1) with
      | .ok l pa => .ok l pa
      | _ => .err 1))

/-- Writes of a copy in flight each land or do not land, byte by byte (R347). -/
def State.killCopy (s : State) (c : Copy) : State :=
  match s.crew? c.crew with
  | none => s
  | some cr =>
    let me := cr.agent c.grp
    let left := (List.range c.body.total).filter (fun i => c.runs.all (fun r => decide (i < r.1) || decide (r.1 + r.2.1 ≤ i)) && (s.freeWord (2 ^ 20 + i)).getLsbD 0)
    let ws := left.filterMap (fun i =>
      let e := s.moveEnds c.body i
      match s.moveByte me c (s.killLines cr c [e]) c.body.shape e i with
      | .write p b => if c.overtaken i p then none else some (p, b)
      | _ => none)
    let cells := ws.filterMap (fun w => match w.1 with
      | .mem k => some (k, w.2)
      | _ => none)
    ws.foldl (fun s w => s.pokeReg w.1 w.2) ((s.nextFree).append cr.engine c.seq 1 cells [])

/-- Stores of a group still in its store buffer, translated or not, each land or do not land, byte by byte. -/
def State.killStores (s : State) (c : Crew) (gi : Nat) (g : Group) : State :=
  (g.mws.filter (fun m => m.op == .store && !m.blank)).foldl (fun s m =>
    (m.accs.filter (fun a => !a.done)).foldl (fun s a =>
      match if a.place.isNone && a.virt then s.killEnd c (.virt a.va) true else a.place with
      | none => s
      | some p =>
        ((List.range a.size).filter (fun i => (s.freeWord (a.lane * 64 + i)).getLsbD 0)).foldl (fun s i =>
          s.storeAt (c.agent gi) m.seq 1 (p.add i) [BitVec.ofNat 8 (a.data / 256 ^ i)] []) s.nextFree) s) s

/-- Accepted matrix operations of a crew: each byte lands or does not; one that fails before its first product writes nothing (R138). -/
def State.killMatrix (s : State) (c : Crew) (x : MatOp) : State :=
  let r := if x.fail.isSome || (s.opFails c.core x).isSome then ([], 0) else s.matCells c x
  let cells := (r.1.mapIdx (fun i e => (i, e))).filterMap (fun e => if (s.freeWord (2 ^ 38 + e.1)).getLsbD 0 then some e.2 else none)
  (s.nextFree).append c.engine 0 x.op.level cells []

/-- A crew of a killed subtree: its stores and engine writes are cut short, and its resources return. -/
def State.killCrew (s : State) (c : Crew) : State :=
  let s1 := (c.groups.mapIdx (fun i g => (i, g))).foldl (fun s e => s.killStores c e.1 e.2) s
  let s2 := (s1.cores.flatMap (fun k => k.copies.filter (fun x => x.crew == c.uid))).foldl (fun s x => s.killCopy x) s1
  let s3 := ((s2.core c.core).matrix.filter (fun x => x.crew == c.uid)).foldl (fun s x => s.killMatrix c x) s2
  let s4 : State := { s3 with
    cores := s3.cores.map (fun k => { k with
      copies := k.copies.filter (fun x => x.crew != c.uid), reqs := k.reqs.filter (fun x => x.crew != c.uid)
      matrix := k.matrix.filter (fun x => x.crew != c.uid), beryl := k.beryl.filter (fun x => x.crew != c.uid)
      shadow := k.shadow.filter (fun x => x.1 != c.uid) })
    xreds := s3.xreds.map (fun x => { x with parts := x.parts.map (fun p => if p.crew = c.uid then { p with dead := true } else p) })
    asked := s3.asked.filter (fun a => match a.2.1 with
      | .word g _ => g.crew != c.uid
      | .copy core slot _ len => if slot = 128 then len != c.uid else (s3.core core).copies.all (fun x => x.slot != slot || x.crew != c.uid)
      | .fetch m => m.crew != c.uid
      | .xred u => u != c.uid) }
  (s4.leaveCore c).settleMem.settleLatches

/-- An RCB that the Kradun writes: its cached copy, and its memory at system scope. -/
def State.writeRcb (s : State) (part addr : Nat) (f : BitVec 1024 → BitVec 1024) : State :=
  let r := s.rcbLine part addr true
  let s1 := match r.2 with
    | .ok l pa =>
      let k := plocKey l pa
      r.1.storeAll k (bytesOf 128 (f (BitVec.ofNat 1024 (r.1.readNum .device (.mem k) 128))).toNat)
    | _ => r.1
  { s1 with rcbs := s1.rcbs.map (fun r => if r.1 = regionKey part addr then (r.1, f r.2) else r) }

/-- KILLED and KILLCAUSE, and at the root KILLTASK. -/
def markKilled (cause : BitVec 8) (task : Option (BitVec 64)) (r : BitVec 1024) : BitVec 1024 :=
  let x := setField (setField r.toNat 78 1 1) 320 8 cause.toNat
  BitVec.ofNat 1024 (match task with
    | some t => setField x 384 64 t.toNat
    | none => x)

/-- The domain that a kill strikes. -/
def State.killRoot (s : State) (k : KillReq) : Nat :=
  let p := s.path k.part k.region
  if p = [] then k.region else domainRoot p

/-- The descendants of a domain's root that the Kradun has read: those in the Keyway cache and those that a task names (R347). -/
def State.killNamed (s : State) (part root : Nat) : List Nat :=
  let cached : List Nat := (s.rcbs.filter (fun r => r.1 / 2 ^ 64 == part)).map (fun r => r.1 % 2 ^ 64)
  (cached ++ (s.tasks.filter (fun t => t.part == part)).map (fun (t : Task) => t.region)).eraseDups.filter (fun r => r != root && s.under part r root)

/-- Does the write of a region record at a kill wait at the map point (R84)? -/
def State.killWaits (s : State) (k : KillReq) : Bool := (s.killRoot k :: s.killNamed k.part (s.killRoot k)).any (fun r => (s.rcbLine k.part r true).2 == .wait)

/-- A fault domain is killed (R347). -/
def State.killDomain (s : State) (k : KillReq) : State :=
  let root := s.killRoot k
  let inTree : Nat → Nat → Bool := fun (region part : Nat) => part == k.part && s.under k.part region root
  let crews := s.crews.filter (fun c => inTree c.region c.part)
  let tasks := s.tasks.filter (fun t => inTree t.region t.part)
  let named := s.killNamed k.part root
  let s1 := crews.foldl (fun s c => s.killCrew c) s
  let s2 := tasks.foldl (fun s t => s.dropTask t) s1
  let s3 : State := named.foldl (fun (s : State) (r : Nat) => s.writeRcb k.part r (markKilled k.cause none)) (s2.writeRcb k.part root (markKilled k.cause (some (if k.cause = 4 then 0 else k.task))))
  let s4 : State := { s3 with
    kills := s3.kills.filter (fun (x : KillReq) => !inTree x.region x.part)
    dev := { s3.dev with killCnt := s3.dev.killCnt + 1 } }
  ((s4.vector 0 1).settleMem).settleFences

/-- KILL: the oldest decided kill is carried out. -/
def execKill (s : State) : Out :=
  match s.kills with
  | [] => .refused (.notEnabled "KILL")
  | k :: _ => if s.killWaits k then .refused (.notEnabled "KILL") else .next (s.killDomain k)

end Sys2Proof.Machine
end

