-- ==== Sys2Proof/Machine/Tiers.lean ====
section
/-!
DEFINITION. The memory tiers (R84 to R88, R374 to R386, R405): which stack line holds which address, the Tumbler's sweep, frozen stacks and CAP_LIVE.

Data is addressed by physical address, so the Tumbler, which preserves every byte and every error mark, moves nothing here; the map decides which stack a line lies in.
-/

namespace Sys2Proof.Machine

/-! ### The lines of a stack (R376) -/

/-- The first-tier capacity under n live stacks, in granules. -/
def capOf (n : Nat) : Nat := if n = 0 then 0 else 2 ^ 28 / slice n

/-- The first-tier address of line l of the stack of table index k, none for a line that holds no data (R376). -/
def lineAddr (n k l : Nat) : Option Nat :=
  let g := l / slice n
  let i := l % slice n * n + wrapMod ((k : Int) - foldGran g) n
  if i < 4096 ∧ g < capOf n then some (2 ^ 20 * g + 256 * i) else none
where
  /-- An integer modulo n, from 0 to n − 1. -/
  wrapMod (x : Int) (n : Nat) : Nat := (x % (n : Int)).toNat

/-! ### Errors in lines (R376, R401) -/

/-- The first-tier address of a stack line under the map in force. -/
def State.lineOf (s : State) (k l : Nat) : Option Nat :=
  let old := s.dev.table_
  let new := s.newTable
  let a := (old.findIdx? (· == k)).bind (fun j => lineAddr old.length j l)
  let b := (new.findIdx? (· == k)).bind (fun j => lineAddr new.length j l)
  if !s.sweeping then a
  else match a with
    | some pa => if granule pa ≤ s.dev.watermark.toNat then some pa else b
    | none => b

/-- A line is marked as uncorrectable. -/
def State.poisonLine (s : State) (k : Nat) : State :=
  let x := k / 2048 * 8 + k % 8
  if s.poison.contains x then s else { s with poison := s.poison ++ [x] }

/-! ### The counters of a stack (R405) -/

/-- REC of a stack follows its counters, and vector 4 tells of its change (R405). -/
def State.recommend (s : State) (k : Nat) : State :=
  let x := s.stack k
  if !x.rec_ && x.state != 3 && (decide (32 ≤ x.lrow.toNat) || decide (8 ≤ x.unc.toNat) || decide (3 ≤ x.froze.toNat)) then
    (s.modStack k (fun x => { x with rec_ := true })).vector0 4
  else s

/-- A freeze is counted once it has lasted longer than 10 s (R385, R405). -/
def State.countFreeze (s : State) (k : Nat) : State :=
  if (s.stack k).since.any (fun t => decide (t + 10 ^ 10 < s.clock.toNat)) then
    (s.modStack k (fun x => { x with froze := if x.froze = 15 then 15 else x.froze + 1, since := none })).recommend k
  else s

/-! ### CAP_LIVE (R378) -/

/-- CAP_LIVE_WRITE: between sweeps and up to Cap(N); any other write is refused. -/
def execCapLiveWrite (v : Word) (s : State) : Out :=
  let m := v.extractLsb' 20 28
  if !s.dev.ready then .next s
  else if !s.sweeping && decide (m.toNat ≤ capOf s.dev.table_.length) then .next { s with dev := { s.dev with capLive := m } }
  else .next { s with dev := { s.dev with tmbErr := true } }

/-! ### The sweep (R381 to R383, R406) -/

/-- First-tier bytes at or above a granule are lost: what they read is a free value from then on (R378). -/
def State.loseAbove (s : State) (g : Nat) : State :=
  let gone := fun (k : Nat) => k % 8 == 0 && decide (g ≤ granule (k / 8))
  let keys := ((s.mem.map (·.1)) ++ s.drained.flatMap (fun d => d.cells.map (·.1))).eraseDups.filter gone
  { s with
    mem := Memory.setAll (s.mem.filter (fun e => !gone e.1)) (keys.map (fun k => (k, (s.freeWord k).setWidth 8)))
    drained := s.drained.map (fun d => { d with cells := d.cells.filter (fun c => !gone c.1) })
    poison := s.poison.filter (fun x => !(x % 8 == 0 && decide (g ≤ granule (x / 8 * 256))))
    free := s.free + 1 }

/-- The sweep ends: live map, table and phase change together, and the retired stack is dead; a recommendation of it ends, which vector 4 tells (R401, R405). -/
def State.endSweep (s : State) (k : Nat) : State :=
  let s1 := (s.loseAbove s.dev.capLive.toNat).modStack k (fun x => { x with state := 3, rec_ := false, since := none })
  let s2 : State := { s1 with
    dev := { s1.dev with table_ := s1.newTable, phase := s1.dev.phase + 1, sweep := none }
    flash := { s1.flash with dead := s1.flash.dead ++ [k], bad := s1.flash.bad.filter (fun e => (e.extractLsb' 28 4).toNat != k), unc := s1.flash.unc.set k [] } }
  let s3 := if (s.stack k).rec_ then s2.vector0 4 else s2
  s3.vector0 2

/-- TMB_RETIRE: the sweep that retires a stack starts, or the command is refused (R381). -/
def execTmbRetire (stack : BitVec 4) (s : State) : Out :=
  let k := stack.toNat
  let n := s.dev.table_.length
  let g := s.dev.capLive.toNat
  if !s.dev.ready then .next s
  else if s.dev.sweep.isSome || s.sweeping || !s.dev.table_.contains k || (s.stack k).state != 0 || decide (n ≤ 8) || decide (capOf (n - 1) < g) then
    .next { s with dev := { s.dev with tmbErr := true } }
  else
    let s1 := s.modStack k (fun x => { x with state := 2 })
    let s2 : State := { s1 with dev := { s1.dev with phase := s1.dev.phase + 1, watermark := BitVec.ofNat 20 g, sweep := some ⟨k, g⟩ } }
    .next (if g = 0 then s2.endSweep k else s2)

/-- Does the sweep pause: every granule touches every stack of the old map (R385)? -/
def State.sweepPaused (s : State) : Bool := s.dev.sweep.isSome && s.dev.table_.any (fun k => (s.stack k).state == 1)

/-- The unperformed lines of a granule return to the map point (R85). -/
def State.returnLines (s : State) (g : Nat) : State :=
  let back := fun (a : Acc) => match a.place with
    | some (.mem k) => if k % 8 == 0 && granule (k / 8) == g && a.passed && !a.done then { a with passed := false, back := true } else a
    | _ => a
  { s with crews := s.crews.map (fun c => { c with groups := c.groups.map (fun x => { x with mws := x.mws.map (fun m => { m with accs := m.accs.map back }) }) }) }

/-- Does a self-test work on a line of a granule (R403)? -/
def State.granTested (s : State) (g : Nat) : Bool := (List.range 4096).any (fun i => s.tested .tier1 (2 ^ 20 * g + 256 * i))

/-- TUMBLER_GRANULE_MOVE: the watermark moves to the next granule, its lines return, and the granule moves from the old map to the new (R382);
marked lines that it reads are logged and posted (R387, R401). -/
def execTumblerGranuleMove (s : State) : Out :=
  match s.dev.sweep with
  | none => .refused (.notEnabled "TUMBLER_GRANULE_MOVE")
  | some w =>
    if s.sweepPaused ∨ w.next = 0 ∨ s.granTested (w.next - 1) then .refused (.notEnabled "TUMBLER_GRANULE_MOVE")
    else
      let g := w.next - 1
      let s1 : State := { s with dev := { s.dev with watermark := BitVec.ofNat 20 g, sweep := some ⟨w.stack, g⟩ } }
      let marks := (s.poison.filter (fun x => x % 8 == 0 && granule (x / 8 * 256) == g)).map (fun x => x / 8 * 256)
      let s2 := (s1.noteDev (marks.map tier1Key)).returnLines g
      .next (if g = 0 then s2.endSweep w.stack else s2).settleOwed

/-! ### Temperature and refresh (R385, R386, R405) -/

/-- A stack that reaches 105 °C is forced into self-refresh. -/
def State.freezeStack (s : State) (k : Nat) (temp : BitVec 8) : State := s.modStack k (fun x => { x with state := 1, temp := temp, since := some s.clock.toNat })

/-- A stack resumes, live or retiring; a freeze longer than 10 s is counted by now (R405). -/
def State.resumeStack (s : State) (k : Nat) (temp : BitVec 8) : State :=
  let retiring := (s.dev.sweep.map (·.stack)) == some k
  ((s.countFreeze k).modStack k (fun x => { x with state := if retiring then 2 else 0, temp := temp, since := none })).settleOwed

/-- STACK_FREEZE: a stack that reaches 105 °C. -/
def execStackFreeze (k : Nat) (temp : BitVec 8) (s : State) : Out :=
  let x := s.stack k
  if k < 12 ∧ 105 ≤ temp.toNat ∧ (x.state = 0 ∨ x.state = 2) then .next (s.freezeStack k temp) else .refused (.notEnabled "STACK_FREEZE")

/-- STACK_RESUME: the stack has fallen to 95 °C. -/
def execStackResume (k : Nat) (temp : BitVec 8) (s : State) : Out :=
  if k < 12 ∧ temp.toNat ≤ 95 ∧ (s.stack k).state = 1 then .next (s.resumeStack k temp) else .refused (.notEnabled "STACK_RESUME")

/-- A temperature of a stack is taken: it may freeze or resume by it (R385). -/
def State.stackTemp (s : State) (k : Nat) (temp : BitVec 8) : State :=
  let x := s.stack k
  if k < 12 ∧ 105 ≤ temp.toNat ∧ (x.state = 0 ∨ x.state = 2) then s.freezeStack k temp
  else if k < 12 ∧ temp.toNat ≤ 95 ∧ x.state = 1 then s.resumeStack k temp
  else s.modStack k (fun x => { x with temp := temp })

/-- FREEZE_TIMEOUT: a freeze longer than 10 s is counted once, and may recommend retirement. -/
def execFreezeTimeout (k : Nat) (s : State) : Out :=
  let x := s.stack k
  if k < 12 ∧ x.state = 1 ∧ x.since.any (fun t => decide (t + 10 ^ 10 < s.clock.toNat)) = true then .next (s.countFreeze k)
  else .refused (.notEnabled "FREEZE_TIMEOUT")

/-- REFRESH_INTERRUPT: a burst is interrupted and resumes; no byte, fault or order changes. -/
def execRefreshInterrupt (k : Nat) (s : State) : Out :=
  if k < 12 ∧ (s.stack k).state ≠ 3 then .next s else .refused (.notEnabled "REFRESH_INTERRUPT")

end Sys2Proof.Machine
end

