-- ==== Sys2Proof/Machine/Reduce.lean ====
section
/-!
DEFINITION. The steps that pass the map point for engines and entity-level words (R106 to R108, R256, R258), and XRED with its collective path (R83, R103, R259, R260).
-/

namespace Sys2Proof.Machine

/-! ### Copies and SPAWN -/

/-- The marked lines that a piece of a copy reads. -/
def State.badOfPiece (s : State) (core slot off len : Nat) : List Nat :=
  match s.copy? core slot with
  | none => []
  | some c =>
    match s.crew? c.crew with
    | none => []
    | some cr =>
      (List.range len).filterMap (fun j => match (s.copyEnds c.body (off + j)).1 with
        | .at_ p => s.badPlace (some p) 1
        | e => s.badPlace (s.killEnd cr e false) 1)

/-- COPY_LINE_ARRIVE: a piece of a copy is read and written, or asks about a fault; the marked lines that it reads are logged (R401). -/
def execCopyLineArrive (core slot off len : Nat) (s : State) : Out :=
  match s.movePiece core slot off len State.lineHeld with
  | some t => .next ((s.badOfPiece core slot off len).foldl (fun s k => s.logLine k) t).settleLatches
  | none => .refused (.notEnabled "COPY_LINE_ARRIVE")

/-- COPY_ACCEPT: the next request of a core is accepted, fails, or asks about the fault of its shape record. -/
def execCopyAccept (core : Nat) (s : State) : Out :=
  match s.nextReq core with
  | none => .refused (.notEnabled "COPY_ACCEPT")
  | some r =>
    match s.crew? r.crew with
    | none => .refused (.notEnabled "COPY_ACCEPT")
    | some cr => endEvent "COPY_ACCEPT" (s.acceptReq core cr r State.lineHeld)

/-- SPAWN (R256). -/
def execSpawn (w : Body) (s : State) : Out := entityWord .spawn w (fun s c => s.spawnWord c w State.lineHeld) s

/-- TASK_ENTER: a waiting SPAWN posts its task, or a host record in hand enters. -/
def execTaskEnter (src : PostSrc) (s : State) : Out :=
  match src with
  | .spawn m => endEvent "TASK_ENTER" (s.spawnAgain m State.lineHeld)
  | .host fn q => endEvent "TASK_ENTER" (s.hostEnter fn q)

/-! ### XRED (R259) -/

def xdSrc (x : Nat) : Nat := nbits x 0 64
def xdSscale (x : Nat) : Nat := nbits x 64 64
def xdDst (x : Nat) : Nat := nbits x 128 64
def xdDscale (x : Nat) : Nat := nbits x 192 64
def xdNblk (x : Nat) : Nat := nbits x 256 32
def xdE5 (x : Nat) : Bool := x.testBit 288
def xdNpart (x : Nat) : Nat := nbits x 296 7
def xdSelf (x : Nat) : Nat := nbits x 303 7
def xdBar (x : Nat) : Nat := nbits x 320 20
def xdTag (x : Nat) : BitVec 32 := BitVec.ofNat 32 (nbits x 352 32)
def xdPlist (x : Nat) : Nat := nbits x 384 64

/-- Is a descriptor malformed before its list is read: reserved bits, ranges, SELF, the barrier's place (R259)? -/
def badDesc (c : Crew) (x : Nat) : Bool :=
  nbits x 289 7 != 0 || nbits x 310 10 != 0 || nbits x 340 12 != 0 || nbits x 448 64 != 0 ||
  xdNblk x == 0 || decide (0x100000 < xdNblk x) || decide (xdNpart x < 2) || decide (64 < xdNpart x) || decide (xdNpart x ≤ xdSelf x) ||
  xdBar x % 16 != 0 || decide (1024 * c.scrKiB < xdBar x + 16)

/-- The entries of a participant list. -/
def listOf (n x : Nat) : List Nat := (List.range n).map (fun i => nbits x (16 * i) 16)

/-- Is a list malformed: bits 15:9 nonzero, a repeated entry, or an entry SELF that does not name the issuing die (R259, R393)? -/
def State.badList (s : State) (c : Crew) (self : Nat) (l : List Nat) : Bool :=
  l.any (fun e => decide (512 ≤ e)) || l.eraseDups.length != l.length || l[self]? != some (2 * s.dev.self.toNat + dieOf c.core)

/-- The read of n bytes that may span two lines. -/
def State.readSpan (s : State) (c : Crew) (gi va n : Nat) : State × RecRes :=
  let first := min n (256 - va % 256)
  let r := s.readRecord c gi va first State.lineHeld
  if first = n then r
  else match r.2 with
    | .got x =>
      let q := r.1.readRecord c gi ((va + first) % 2 ^ 64) (n - first) State.lineHeld
      (match q.2 with
       | .got y => (q.1, .got (x + y * 2 ^ (8 * first)))
       | o => (q.1, o))
    | o => (r.1, o)

/-- The descriptor and its participants as one number, the list above bit 512. -/
def State.readDescr (s : State) (c : Crew) (gi va : Nat) : State × RecRes :=
  let r := s.readRecord c gi va 64 State.lineHeld
  match r.2 with
  | .got x =>
    if badDesc c x then r
    else
      let q := r.1.readSpan c gi (xdPlist x) (2 * xdNpart x)
      (match q.2 with
       | .got y => (q.1, .got (x + y * 2 ^ 512))
       | o => (q.1, o))
  | _ => r

/-- A participant as its XRED states it. -/
def partOf (c : Crew) (gi seq x : Nat) : XPart :=
  ⟨xdSelf x, c.uid, c.core, seq, gi, xdSrc x, xdSscale x, xdDst x, xdDscale x, xdBar x, c.part, false⟩

/-- An error kind on a participant's barrier (R112). -/
def State.partError (s : State) (p : XPart) (kind : Nat) : State :=
  match s.crew? p.crew with
  | some cr => if p.dead then s else s.copyError cr p.seq (tbKey p.crew p.bar) kind
  | none => s

/-- Count a block's 33 bytes on a participant's barrier; the writes they stand for are noted first (R77, R260). -/
def State.partCount (s : State) (p : XPart) (ids : List Nat) : State :=
  match s.crew? p.crew with
  | some cr => if p.dead then s else s.copyCount cr p.seq (tbKey p.crew p.bar) 33 ids
  | none => s

/-- Change a reduction. -/
def State.modReduction (s : State) (i : Nat) (f : Reduction → Reduction) : State := { s with xreds := s.xreds.modify i f }

/-- The module of an entry of a participant list. -/
def entryModule (e : Nat) : Nat := e / 2

/-- The participant of this module at an index of the list. -/
def Reduction.part? (x : Reduction) (i : Nat) : Option XPart := x.parts.find? (fun p => p.self == i)

/-- Has a die of this module issued its XRED for a reduction? Entry SELF of every list names the issuing die (R259). -/
def Reduction.fromDie (x : Reduction) (die : Nat) : Bool := x.parts.any (fun p => dieOf p.core == die)

/-- Have the participants of this module all issued? -/
def State.allIssued (s : State) (x : Reduction) : Bool :=
  x.plist.all (fun e => entryModule e != s.dev.self.toNat || x.fromDie (e % 2))

/-- A reduction whose blocks are all over, or of which nothing moves, leaves the path once the participants of this module have all issued. -/
def State.retireReduction (s : State) (i : Nat) : State :=
  match s.xreds[i]? with
  | some x => if (x.mixed ∨ x.nblk ≤ x.dones.length) ∧ s.allIssued x then ({ s with xreds := s.xreds.eraseIdx i } : State).settleMem else s
  | none => s

/-- Descriptors differ: nothing moves, and every participant records kind 5, those of this module that issue later as well (R260). -/
def State.mixReduction (s : State) (i : Nat) : State :=
  match s.xreds[i]? with
  | none => s
  | some x => ((x.parts.foldl (fun s p => s.partError p 5) s).modReduction i (fun r => { r with mixed := true })).retireReduction i

/-- The reduction that an XRED joins: one of its TAG in which its participant has not yet issued. -/
def State.joins (s : State) (tag : BitVec 32) (die : Nat) : Option Nat := s.xreds.findIdx? (fun x => x.tag == tag && !x.fromDie die)

/-- A participant joins its reduction or begins one; blocks that have failed before it issued are counted for it and record kind 4,
and where descriptors differ it records kind 5 (R260). -/
def State.joinReduction (s : State) (c : Crew) (gi seq x : Nat) (l : List Nat) : State :=
  let p := partOf c gi seq x
  match s.joins (xdTag x) (dieOf c.core) with
  | none => { s with xreds := s.xreds ++ [⟨xdTag x, xdNblk x, xdE5 x, l, [p], [], [], [], [], false⟩] }
  | some i =>
    let s1 := s.modReduction i (fun r => { r with parts := r.parts ++ [p] })
    (match s.xreds[i]? with
     | some r =>
       if r.mixed then (s1.partError p 5).retireReduction i
       else if r.nblk = xdNblk x ∧ r.e5 = xdE5 x ∧ r.plist = l then
         if r.dones = [] then s1 else (r.dones.foldl (fun s _ => (s.partError p 4).partCount p []) s1).retireReduction i
       else s1.mixReduction i
     | none => s1)

/-- XRED. -/
def execXred (w : Body) (s : State) : Out :=
  entityWord .xred w (fun s c =>
    let addr := c.val w.a 0 0
    if addr % 64 ≠ 0 then s.trapWord c causeAlign (faultInfo 0 false addr)
    else
      let r := s.readDescr c.crew c.m.grp addr
      match r.2 with
      | .wait => .next (s.setWait c.m .held)
      | .trap cause info => r.1.trapWord c cause info
      | .ask line k =>
        let s1 : State := { r.1 with nextSeq := r.1.nextSeq + 1 }
        .next ((s1.logAsk c r.1.nextSeq .xred .none addr 64 line k).issued c w.hdr)
      | .got y =>
        let x := y % 2 ^ 512
        let l := listOf (xdNpart x) (y / 2 ^ 512)
        if badDesc c.crew x || s.badList c.crew (xdSelf x) l then r.1.trapWord c causeBadrec (faultInfo 0 false 0)
        else
          let s1 : State := { r.1 with nextSeq := r.1.nextSeq + 1 }
          .next ((s1.joinReduction c.crew c.m.grp r.1.nextSeq x l).issued c w.hdr)) s

/-- An XRED of the operand log whose fault is answered reads its descriptor again: it joins its reduction, asks again or is delivered a fault (R240, R364). -/
def State.xredLogged (s : State) (g : GRef) (seq : Nat) : Option State :=
  match s.crew? g.crew, (s.group? g.crew g.grp).bind (fun x => x.word? seq) with
  | some c, some m =>
    if m.op ≠ .xred ∨ c.phase ≠ .resident ∨ m.atRest ∨ 64 ≤ s.xreds.length then none
    else
      let r := s.readDescr c g.grp (m.accs.headD default).va
      match r.2 with
      | .wait => none
      | .trap cause info => some (r.1.deliverWord g.crew g.grp seq cause info)
      | .ask line k =>
        let a := r.1.nextFree.ask (.word g seq) g.crew g.grp line k 7
        some (a.1.modGroup g.crew g.grp (fun x => x.modWord seq (fun m => { m with stat := .asked a.2 })))
      | .got y =>
        let x := y % 2 ^ 512
        let l := listOf (xdNpart x) (y / 2 ^ 512)
        if badDesc c x || s.badList c (xdSelf x) l then some (r.1.deliverWord g.crew g.grp seq causeBadrec (faultInfo 0 false 0))
        else some ((r.1.modGroup g.crew g.grp (fun x => { x with mws := x.mws.filter (fun m => m.seq != seq) })).joinReduction c g.grp seq x l)
  | _, _ => none

/-! ### The collective path (R103, R260) -/

/-- A block as 33 bytes: its elements, then its scale. -/
def blockOf (e5 : Bool) (b : BitVec 264) : List Num :=
  mxDecode e5 (b.extractLsb' 256 8).toNat ((List.range 32).map (fun i => (b.extractLsb' (8 * i) 8).toNat))

/-- A number rounded to binary32. -/
def toF32 (x : Num) : Num := numOf .f32 (roundTo .f32 .rne false x).1

/-- Hop: the sums in FP32, requantised (R103). -/
def hop (e5 : Bool) (x y : BitVec 264) : BitVec 264 :=
  let v := ((blockOf e5 x).zip (blockOf e5 y)).map (fun e => toF32 (addNum .rne e.1 e.2))
  let r := mxQuant e5 .rne v
  BitVec.ofNat 264 (ofBytes (r.2.1.map (BitVec.ofNat 8)) + r.1 * 2 ^ 256)

/-- The virtual addresses of the 33 bytes of a block of a participant. -/
def blockVas (elems scales b : Nat) : List Nat := (List.range 32).map (fun i => (elems + 32 * b + i) % 2 ^ 64) ++ [(scales + b) % 2 ^ 64]

/-- A block that a participant reads or writes: its lines, checked as an engine's. -/
def State.partLines (s : State) (x : Reduction) (p : XPart) (vas : List Nat) (write : Bool) : State × List ((Nat × Bool) × LineRes) :=
  ((vas.map (· / 256)).eraseDups).foldl (fun r ln =>
    let y := r.1.engineLine ⟨p.core, p.crew, p.part, write, false, p.grp⟩ (256 * ln) ((x.bad.filter (fun e => e.1 == p.self)).map (·.2)) State.lineHeld
    (y.1, r.2 ++ [((ln, write), y.2)])) (s, [])

/-- What a hop of a block comes to at one participant. -/
inductive HopRes where
  | wait
  | ask (line kind : Nat)
  | err (kind : Nat)
  | ok (places : List Place)
  deriving DecidableEq, Repr, Inhabited

/-- The outcome of checked lines. -/
def hopRes (rs : List ((Nat × Bool) × LineRes)) (vas : List Nat) (write : Bool) : HopRes :=
  match rs.findSome? (fun r => match r.2 with
    | .ask k => some (r.1.1, k)
    | _ => none) with
  | some (ln, k) => .ask ln k
  | none =>
    if rs.any (fun r => r.2 == .wait) then .wait
    else match rs.findSome? (fun r => match r.2 with
      | .err k => some k
      | _ => none) with
    | some k => .err k
    | none => .ok (vas.filterMap (fun va => match linePlace rs va write with
      | .ok p => some p
      | .error _ => none))

/-- Does a returned access to a byte of a block perform first (R86)? -/
def State.returnedHop (s : State) (h : HopRes) : Bool :=
  match h with
  | .ok places => places.any (fun p => s.returnedAt p 1)
  | _ => false

/-- Records for the failing lines of a participant (R112). -/
def State.reportPart (s : State) (p : XPart) (rs : List ((Nat × Bool) × LineRes)) : State :=
  rs.foldl (fun s r => match r.2 with
    | .err 3 => s.report p.crew p.grp (256 * r.1.1) 0x11 (if r.1.2 then 5 else 4)
    | .err 4 => s.report p.crew p.grp (256 * r.1.1) 0x12 (if r.1.2 then 5 else 4)
    | _ => s) s

/-- A block is over. -/
def State.endBlock (s : State) (i b : Nat) : State :=
  (s.modReduction i (fun x => { x with dones := x.dones ++ [b], partials := x.partials.filter (fun e => e.1 != b) })).retireReduction i

/-- A block that cannot complete is left unwritten, is counted, and records an error at every participant (R112, R260). -/
def State.failBlock (s : State) (i b kind : Nat) : State :=
  match s.xreds[i]? with
  | none => s
  | some x => (x.parts.foldl (fun s p => (s.partError p kind).partCount p []) s).endBlock i b

/-- The bytes of a participant's block: as its crew reads them at some time since its XRED was issued (R260). -/
def State.partBlock (s : State) (p : XPart) (places : List Place) : BitVec 264 :=
  let me := Agent.group p.crew p.grp p.core
  let keys := places.flatMap (fun q => q.keys 1)
  let bytes := keys.mapIdx (fun i k => (s.spanRead me (fun d => d.earlyTo me p.seq p.seq) [k] (s.freeWord (8 + i)).toNat).headD 0)
  BitVec.ofNat 264 (ofBytes bytes)

/-- The final block is written at one participant: a byte stored since its XRED was issued may keep the store's value (R260); at a killed one each byte lands or does not (R347). -/
def State.writePart (s : State) (p : XPart) (places : List Place) (v : BitVec 264) : State :=
  let w := Agent.engine p.crew p.core
  let cells := (places.mapIdx (fun i q => (i, q))).filterMap (fun e => match e.2 with
    | .mem k =>
      let later := s.drained.any (fun d => decide (p.seq ≤ d.id) && !d.writer.isEngine && (cellAt d.cells k).isSome)
      if (later || p.dead) && (s.freeWord (2 ^ 21 + 64 * p.self + e.1)).getLsbD 0 then none else some (k, (v.extractLsb' (8 * e.1) 8))
    | _ => none)
  let id := s.nextSeq
  ((s.append w p.seq 4 cells []).wake (cells.map (·.1))).partCount p (if cells = [] then [] else [id])

/-- The result is written at every participant of this module; none while a line of one waits or is asked about. -/
def State.finishBlock (s : State) (i : Nat) (x : Reduction) (b : Nat) (v : BitVec 264) : Option State :=
  let r := x.parts.foldl (fun (r : State × List (XPart × List ((Nat × Bool) × LineRes))) p =>
    let y := r.1.partLines x p (blockVas p.dst p.dsc b) true
    (y.1, r.2 ++ [(p, y.2)])) (s, [])
  let outs := r.2.map (fun e => (e.1, e.2, hopRes e.2 (blockVas e.1.dst e.1.dsc b) true))
  match outs.findSome? (fun o => match o.2.2 with
    | .ask ln k => if o.1.dead then none else some (o.1, ln, k)
    | _ => none) with
  | some (p, ln, k) =>
    let a := r.1.nextFree.ask (.xred p.crew) p.crew p.grp (256 * ln) k 5
    some (a.1.modReduction i (fun x => { x with asked := x.asked ++ [(p.self, ln, a.2)] }))
  | none =>
    if outs.any (fun o => o.2.2 == .wait || r.1.returnedHop o.2.2) then none
    else
      let s1 := outs.foldl (fun (s : State) o => match o.2.2 with
        | .ok places => s.writePart o.1 places v
        | .err k => ((s.reportPart o.1 o.2.1).partError o.1 k).partCount o.1 []
        | _ => s) r.1
      some ((s1.nextFree).endBlock i b)

/-- One hop of a block with the block of its next participant. -/
def State.hopWith (s : State) (i : Nat) (x : Reduction) (b j : Nat) (old y : BitVec 264) : Option State :=
  let v := if j = 0 then y else hop x.e5 old y
  if j + 1 = x.plist.length then s.finishBlock i x b v
  else some (s.modReduction i (fun x => { x with partials := x.partials.filter (fun e => e.1 != b) ++ [(b, j + 1, v)] }))

/-- A hop at a participant of this module. -/
def State.hopHere (s : State) (i : Nat) (x : Reduction) (b j : Nat) (old : BitVec 264) (p : XPart) : Option State :=
  if p.dead then (s.nextFree).hopWith i x b j old ((s.freeWord 1 ++ s.freeWord 2 ++ s.freeWord 3 ++ s.freeWord 4 ++ s.freeWord 5).setWidth 264)
  else
    let vas := blockVas p.src p.ssc b
    let r := s.partLines x p vas false
    match hopRes r.2 vas false with
    | .wait => none
    | .ask ln k =>
      let a := r.1.nextFree.ask (.xred p.crew) p.crew p.grp (256 * ln) k 4
      some (a.1.modReduction i (fun x => { x with asked := x.asked ++ [(p.self, ln, a.2)] }))
    | .err k => some ((r.1.reportPart p r.2).failBlock i b k)
    | .ok places =>
      if r.1.returnedHop (.ok places) then none
      else match places.findSome? (fun q => r.1.badPlace (some q) 1) with
      | some k => some (((r.1.logLine k).reportPhys p.crew p.grp k 4).failBlock i b 6)
      | none => (r.1.nextFree).hopWith i x b j old (s.partBlock p places)

/-- XRED_HOP: one block takes its next hop; a block number beyond the reduction's stands for a remote participant whose descriptor differs. -/
def execXredHop (rid blk : Nat) (remote : BitVec 264) (s : State) : Out :=
  match s.xreds[rid]? with
  | none => .refused (.notEnabled "XRED_HOP")
  | some x =>
    let n := x.plist.length
    if x.mixed then .refused (.notEnabled "XRED_HOP")
    else if x.nblk ≤ blk then
      if x.plist.any (fun e => entryModule e != s.dev.self.toNat) ∧ x.dones = [] ∧ x.partials = [] then .next (s.mixReduction rid) else .refused (.notEnabled "XRED_HOP")
    else if x.dones.contains blk || !x.asked.isEmpty || !s.allIssued x then .refused (.notEnabled "XRED_HOP")
    else
      let cur := x.partials.find? (fun e => e.1 == blk)
      let j := (cur.map (·.2.1)).getD 0
      let old := (cur.map (·.2.2)).getD 0
      let k := (blk + j) % n
      match x.part? k with
      | some p => endEvent "XRED_HOP" (s.hopHere rid x blk j old p)
      | none =>
        let m := entryModule ((x.plist[k]?).getD 0)
        if s.outOfReach m then .next (((s.markLost m).dropModule m).failBlock rid blk 4)
        else endEvent "XRED_HOP" (s.hopWith rid x blk j old remote)

/-- Blocks that a lost module keeps from completing fail at once (R260, R372). -/
def State.failLost (s : State) (m : Nat) : State :=
  let l := (s.xreds.mapIdx (fun i x => (i, x))).reverse
  l.foldl (fun s e =>
    let x := e.2
    let n := x.plist.length
    if !x.mixed && x.plist.any (fun y => entryModule y == m) then
      ((List.range x.nblk).filter (fun b =>
        let j := ((x.partials.find? (fun q => q.1 == b)).map (·.2.1)).getD 0
        !x.dones.contains b && (List.range (n - j)).any (fun i => entryModule ((x.plist[(b + j + i) % n]?).getD 0) == m))).foldl
          (fun s b => s.failBlock e.1 b 4) s
    else s) s

end Sys2Proof.Machine
end

