-- ==== Sys2Proof/Machine/Cam.lean ====
section
/-!
DEFINITION. The Cam sequencer, TRET and the choice of what issues (R10, R12 to R15, R31 to R44, R47, R51, R53, R160, R161, R315, R345, R360).
-/

namespace Sys2Proof.Machine

/-! ### Pending votes (R34, R322) -/

/-- May an entity of a group act at all: it is not stopped, no trap of its own is held, no word is to be replayed first, and no handler stops it (R48 to R50, R53, R240)? -/
def Group.free? (g : Group) (e : Ent) : Bool :=
  !e.stopped &&
  (if e.idx = handlerIdx then true
   else match g.handler with
     | none => g.traps.isEmpty && !g.replays
     | some h => h.cause == causeBinding && h.trapped.isSome && h.trapped != some e.idx && g.traps.all (fun t => t.ent != some e.idx))

/-- Has an entity a pending vote at a cycle: its state's last word has issued, its count has elapsed, and its fixed-latency results have landed? -/
def Group.votes (g : Group) (cyc : Nat) (e : Ent) : Bool :=
  !g.preDone && g.free? e && e.wait.isNone && e.pos == e.code.length && decide (e.readyAt ≤ cyc) &&
    g.pend.all (fun p => decide (p.due ≤ cyc) || (p.lanes &&& e.lanes) == 0)

/-- A lane's next block before forwarding: what it wrote, else the fall-through of the occupied block (R31). -/
def State.target (s : State) (c : Crew) (x : Lane) : State × Nat :=
  if x.marked then (s, x.blk.toNat)
  else
    let d := s.desc c x.occ.toNat
    (d.1, descFall d.2)

/-- The lanes' next blocks at a vote; a resolved stub forwards (R31, R315). -/
def State.nexts (s : State) (c : Crew) (g : Group) (lanes : Word) : State × List (Nat × Nat) :=
  (lanesOf lanes).foldl (fun r l =>
    let a := r.1.target c (g.lane l)
    if a.2 = exitBlk then (a.1, r.2 ++ [(l, exitBlk)])
    else
      let d := a.1.desc c a.2
      (d.1, r.2 ++ [(l, if descFwd d.2 then descFwdBlk d.2 else a.2)])) (s, [])

/-- The vote: the next blocks of the live lanes, ascending, EXIT excluded (R33). -/
def voteOf (l : List (Nat × Nat)) : List Nat := sortBy (fun a b => decide (a ≤ b)) ((l.map (·.2)).filter (fun b => b != exitBlk)).eraseDups

/-- The lanes whose next block is given. -/
def lanesTo (l : List (Nat × Nat)) (b : Nat) : Word := maskOf ((l.filter (fun e => e.2 == b)).map (·.1))

/-- Lanes take their next blocks; those that exit are live no more (R32). A lane keeps its mark, so that a vote held by BINDING finds its block again (R47). -/
def Group.takeBlocks (g : Group) (l : List (Nat × Nat)) : Group :=
  l.foldl (fun g e => g.modLane e.1 (fun x =>
    if e.2 = exitBlk then { x with valid := false, blk := 0xFFFF, marked := false, called := false, stack := [], spilled := 0 }
    else { x with blk := BitVec.ofNat 16 e.2, marked := true, called := false })) g

/-- The lanes of a vote take their next blocks, and those that exit leave their entity. -/
def Group.takeNexts (g : Group) (l : List (Nat × Nat)) : Group := (g.takeBlocks l).prune

/-- May a word of the group still fault: it is not yet translated and checked, or it is held (R240)? -/
def Group.mayFault (g : Group) : Bool := g.mws.any (fun m => m.stat != .ready)

/-- Does the vote of some lanes wait at the map point for a block descriptor (R84)? -/
def State.descHeld (s : State) (c : Crew) (g : Group) (lanes : Word) : Bool :=
  (lanesOf lanes).any (fun l =>
    let x := g.lane l
    let b := (s.target c x).2
    (!x.marked && s.descWaits c x.occ.toNat) || (b != exitBlk && s.descWaits c b)) ||
  (s.nexts c g lanes).2.any (fun e => e.2 != exitBlk && s.descWaits c e.2)

/-- Does a vote of these lanes wait? A descriptor waits at the map point, or the vote would leave the group without a live lane while a word may still fault:
it waits, so that the fault finds its lanes (R48, R84, R240; DEDUCED, assumption 30). -/
def State.lastHeld (s : State) (c : Crew) (g : Group) (lanes : Word) : Bool :=
  s.descHeld c g lanes ||
  (g.mayFault && g.deferred.isEmpty && g.parked.isEmpty && g.liveMask == lanes && ((s.nexts c g lanes).2.all (fun e => e.2 == exitBlk)))

/-- A group without a live lane retires (R32), and the rendezvous of its crew notices it (R135). -/
def State.retireGroup (s : State) (uid gi : Nat) : State := (s.retireNow uid gi).settleRdv uid

/-- TRET (R187, R51); the rendezvous notices a group that retires by it (R135). -/
def execTret (w : Body) (s : State) : Out :=
  s.begin (.tret w) (fun s c =>
    if c.active w.hdr 0 = 0 then .next (s.issued c w.hdr)
    else if c.m.ent ≠ handlerIdx then s.misuse c 0
    else
      let t := s.tret c.m
      .next (if ((t.group? c.m.crew c.m.grp).getD default).retired then t.settleRdv c.m.crew else t))

/-! ### Overflow (R35, R36) -/

/-- Lanes are deferred to a block: they join it, or it is the youngest. -/
def deferTo (l : List (Nat × Word)) (b : Nat) (m : Word) : List (Nat × Word) :=
  if l.any (fun d => d.1 == b) then l.map (fun d => if d.1 = b then (b, d.2 ||| m) else d) else l ++ [(b, m)]

/-- A merge block of an image as the fetch unit reads it. -/
def State.isMerge (s : State) (c : Crew) (b : Nat) : Bool := descMerge (s.desc c b).2

/-- An unresolved stub. -/
def State.isStub (s : State) (c : Crew) (b : Nat) : Bool := descStub (s.desc c b).2

/-- The home state of a block. -/
def State.homeOf (s : State) (c : Crew) (b : Nat) : Nat := descHome (s.desc c b).2

/-- The block that is served for a block: the one a resolved stub forwards to (R315; DEDUCED, assumption 84). -/
def State.fwdOf (s : State) (c : Crew) (b : Nat) : Nat := if descFwd (s.desc c b).2 then descFwdBlk (s.desc c b).2 else b

/-- The first word of a successor state issues no earlier than the cycle after the vote (R34). -/
def State.afterVote (s : State) (m : Member) (cyc : Nat) : State := s.modEnt m (fun e => { e with readyAt := cyc + 1 })

/-- A cycle of the Cam under way: the state, the splits that are to trap BINDING with their stubs, and the pending splits that others have absorbed. -/
structure CamRun where
  s     : State
  binds : List (Nat × Nat)
  gone  : List Nat
  kept  : List Nat
  deriving Repr, Inhabited

/-- Change the state of a cycle under way. -/
def CamRun.map (r : CamRun) (f : State → State) : CamRun := { r with s := f r.s }

/-- The group of a cycle under way. -/
def CamRun.group (r : CamRun) (uid gi : Nat) : Group := (r.s.group? uid gi).getD default

/-- A set of lanes begins service for a block as a split that is given but for its state: in the block's home state, or to trap at an unresolved stub (R35, R47);
lanes that were deferred meet there, or in the state that they enter next (R75). -/
def CamRun.serve (r : CamRun) (c : Crew) (uid gi : Nat) (e : Ent) (b : Nat) (met : Bool) : CamRun :=
  let m : Member := ⟨uid, gi, e.idx⟩
  let home := r.s.homeOf c b
  let s1 := r.s.modGroup uid gi (fun g =>
    { g with
      lanes := g.lanes.mapIdx (fun i l => if e.lanes.getLsbD i then { l with blk := BitVec.ofNat 16 b, marked := true } else l)
      ents := sortBy (fun a b => decide (a.idx ≤ b.idx)) (g.ents ++ [{ e with st := home, code := [], pos := 0 }]) })
  let s2 := if met then s1.modEnt m (fun e => { e with met := true }) else s1
  if r.s.isStub c b then { r with s := s2, binds := r.binds ++ [(e.idx, b)] } else { r with s := s2.enter m home }

/-- The free split indices. -/
def Group.freeSlots (g : Group) : List Nat := (List.range 4).filter (fun i => g.ents.all (fun e => e.idx != i))

/-- Take the deferred lanes of some blocks. -/
def Group.undefer (g : Group) (l : List Nat) : Group × Word :=
  ({ g with deferred := g.deferred.filter (fun d => !l.contains d.1) }, lanesIn (g.deferred.filter (fun d => l.contains d.1)))

/-- A split serves a block with its own lanes and every lane deferred to it (R36). -/
def CamRun.serveWith (r : CamRun) (c : Crew) (uid gi : Nat) (e : Ent) (b : Nat) : CamRun :=
  let b' := r.s.fwdOf c b
  let u := (r.group uid gi).undefer [b, b']
  (r.map (fun s => s.modGroup uid gi (fun _ => u.1))).serve c uid gi
    { e with lanes := e.lanes ||| u.2, mark := e.mark || (u.2 != 0 && decide (1024 ≤ e.entries)), entries := if u.2 = 0 then e.entries else 0 } b' (u.2 != 0)

/-- The lowest free slot serves a block. -/
def CamRun.serveNew (r : CamRun) (c : Crew) (uid gi b : Nat) (lanes : Word) (cyc : Nat) : CamRun :=
  r.serveWith c uid gi (newEnt ((r.group uid gi).freeSlots.headD 0) lanes (cyc + 1)) b

/-- Fallback of a vote that has no successor (R35, R37): merge blocks park, blocks take slots, the rest are deferred.
The voting entity keeps its slot, its mark and its count for the lowest block that takes one. -/
def CamRun.fallback (r : CamRun) (c : Crew) (uid gi : Nat) (e : Ent) (l : List (Nat × Nat)) (cyc : Nat) : CamRun :=
  let n := voteOf l
  let merges := n.filter (r.s.isMerge c)
  let rest := n.filter (fun b => !r.s.isMerge c b)
  let r1 := r.map (fun s => s.modGroup uid gi (fun g =>
    { g with
      parked := merges.foldl (fun p b => deferTo p b (lanesTo l b)) g.parked
      ents := g.ents.filter (fun x => x.idx != e.idx) }))
  match rest with
  | [] => r1
  | b0 :: more =>
    let r2 := r1.serveWith c uid gi { e with lanes := lanesTo l b0, readyAt := cyc + 1, wait := none, join := 0 } b0
    more.foldl (fun r b =>
      match (r.group uid gi).freeSlots with
      | [] => r.map (fun s => s.modGroup uid gi (fun g => { g with deferred := deferTo g.deferred b (lanesTo l b) }))
      | _ => r.serveNew c uid gi b (lanesTo l b) cyc) { r2 with kept := r2.kept ++ [e.idx] }

/-- The traps BINDING of a cycle, in ascending split index, once every split of the cycle stands in its slot: the first enters the handler, the others are held (R47, R49, R55). -/
def CamRun.bind (r : CamRun) (uid gi : Nat) : State :=
  (sortBy (fun a b => decide (a.1 ≤ b.1)) r.binds).foldl (fun s b => s.raise ⟨uid, gi, b.1⟩ causeBinding (BitVec.ofNat 64 b.2)) r.s

/-! ### Boundaries (R53, R108) -/

/-- Has a split a trap that is held, or does its own binding handler run? -/
def Group.trapped (g : Group) (i : Nat) : Bool := g.traps.any (fun t => t.ent == some i) || (g.handler.map (fun h => h.trapped == some i)).getD false

/-- What happens at a state boundary of a group: a BOUNDS of a dropped request is raised (R108), and under PREEMPT the entities that have voted stop (R53); one that traps
at its vote votes again (R47). -/
def State.atBoundary (s : State) (uid gi : Nat) (voted : List Nat) : State :=
  let g := (s.group? uid gi).getD default
  if g.retired then s
  else
    let s1 := if g.atVote = [] then s else
      (s.modGroup uid gi (fun g => { g with traps := g.traps ++ g.atVote, atVote := [] })).deliver uid gi
    let s2 := if s1.preempting uid gi then
        s1.modGroup uid gi (fun g => { g with ents := g.ents.map (fun e => if voted.contains e.idx && !g.trapped e.idx then { e with stopped := true } else e) })
      else s1
    (s2.deliver uid gi).tryPreempt uid gi

/-! ### The vote of an unsplit group or of a handler (R33, R35, R50) -/

/-- The vote of an unsplit group. -/
def State.voteWhole (s : State) (c : Crew) (uid gi : Nat) (g : Group) (e : Ent) (cyc : Nat) : State :=
  let m : Member := ⟨uid, gi, e.idx⟩
  let r := s.nexts c g e.lanes
  let n := voteOf r.2
  let im := (s.image? c.img).getD default
  let s1 := r.1.modGroup uid gi (fun g => (g.land cyc).takeNexts r.2)
  let split := fun (s : State) (e : Ent) =>
    ((CamRun.mk s [] [] []).fallback c uid gi { e with idx := 0, mark := false, entries := 0, yh := false, yhOther := false, skips := 0 } r.2 cyc).bind uid gi
  match n with
  | [] => s1.retireGroup uid gi
  | _ =>
    let succ := if n.length ≤ 7 then im.succ? n else none
    match succ with
    | some t => (((s1.modEnt m (fun e => { e with mark := false })).enter m t).afterVote m cyc).atBoundary uid gi [e.idx]
    | none =>
      match n with
      | [b] =>
        if s1.isStub c b then s1.raise m causeBinding (BitVec.ofNat 64 b)
        else if s1.isMerge c b then (split (s1.modGroup uid gi (fun g => { g with ents := g.ents.map (fun x => { x with idx := 0 }) })) e).atBoundary uid gi [0, 1, 2, 3]
        else (((s1.modEnt m (fun e => { e with mark := false })).enter m (s1.homeOf c b)).afterVote m cyc).atBoundary uid gi [e.idx]
      | _ => (split (s1.modGroup uid gi (fun g => { g with ents := g.ents.map (fun x => { x with idx := 0 }) })) e).atBoundary uid gi [0, 1, 2, 3]

/-- The vote of a handler's lanes: an overflow is fatal, and when all exit what the Cam held of them is discarded (R50, R51). -/
def State.voteHandler (s : State) (c : Crew) (uid gi : Nat) (g : Group) (e : Ent) (cyc : Nat) : State :=
  let m : Member := ⟨uid, gi, handlerIdx⟩
  let r := s.nexts c g e.lanes
  let n := voteOf r.2
  let im := (s.image? c.img).getD default
  let s1 := r.1.modGroup uid gi (fun g =>
    let g1 := (g.land cyc).takeNexts r.2
    { g1 with handler := g1.handler.map (fun h => { h with ent := { h.ent with lanes := maskOf ((lanesOf h.ent.lanes).filter (fun l => (g1.lane l).valid)) } }) })
  match n with
  | [] =>
    let s2 := ({ s1 with nextSeq := s1.nextSeq + 1 } : State).modGroup uid gi (fun g => (g.endHandler s1.nextSeq).whole)
    if ((s2.group? uid gi).getD default).liveMask = 0 then s2.retireGroup uid gi else (s2.deliver uid gi).abandonGroup uid gi
  | _ =>
    match (if n.length ≤ 7 then im.succ? n else none) with
    | some t => (s1.enter m t).afterVote m cyc
    | none => s1.fatal uid 1

/-- STATE_VOTE: the pending vote of a handler, or of a group that is not split. -/
def execStateVote (g : GRef) (s : State) : Out :=
  match s.crew? g.crew, s.group? g.crew g.grp with
  | some c, some gr =>
    let cyc := s.cyc c.core
    if c.phase ≠ .resident ∨ c.stopped ∨ gr.retired then .refused (.notEnabled "STATE_VOTE")
    else match gr.handler with
      | some h => if gr.votes cyc h.ent && !s.descHeld c gr h.ent.lanes then .next (s.voteHandler c g.crew g.grp gr h.ent cyc) else .refused (.notEnabled "STATE_VOTE")
      | none =>
        (match gr.ents with
         | [e] => if !gr.isSplit && gr.votes cyc e && !s.lastHeld c gr e.lanes then .next (s.voteWhole c g.crew g.grp gr e cyc) else .refused (.notEnabled "STATE_VOTE")
         | _ => .refused (.notEnabled "STATE_VOTE"))
  | _, _ => .refused (.notEnabled "STATE_VOTE")

/-! ### The cycle of a split group (R37 to R42) -/

/-- The votes of a cycle: split, its lanes' next blocks, and the set. -/
abbrev Ballot := Nat × List (Nat × Nat) × List Nat

/-- Form every pending vote. -/
def State.ballots (s : State) (c : Crew) (g : Group) (cyc : Nat) : State × List Ballot :=
  (g.ents.filter (g.votes cyc)).foldl (fun r e =>
    let x := r.1.nexts c g e.lanes
    (x.1, r.2 ++ [(e.idx, x.2, voteOf x.2)])) (s, [])

/-- The lanes of every pending vote take their next blocks; a split keeps its slot until its own vote is taken, with or without a live lane. -/
def Group.takeBallots (g : Group) (l : List Ballot) : Group :=
  let g1 := l.foldl (fun g b => g.takeBlocks b.2.1) g
  let live := maskOf ((List.range g1.lanes.length).filter (fun l => (g1.lane l).valid))
  { g1 with ents := g1.ents.map (fun e => { e with lanes := e.lanes &&& live }) }

/-- The union of sets of blocks, ascending. -/
def unionOf (l : List (List Nat)) : List Nat := sortBy (fun a b => decide (a ≤ b)) l.flatten.eraseDups

/-- A split enters a successor and takes every pending split and deferred block that it includes; lanes that meet there are ordered as R75 says, and a mark stays (R42). -/
def CamRun.enterUnion (r : CamRun) (uid gi idx st : Nat) (u : List Nat) (pend : List Ballot) (cyc : Nat) : CamRun :=
  let m : Member := ⟨uid, gi, idx⟩
  let gone := (pend.filter (fun b => b.2.2 != [] && b.2.2.all (fun x => u.contains x))).map (·.1)
  let g := r.group uid gi
  let taken := lanesIn (g.deferred.filter (fun d => u.contains d.1)) ||| (g.ents.filter (fun e => gone.contains e.idx)).foldl (fun m e => m ||| e.lanes) 0
  let s1 := r.s.modGroup uid gi (fun g =>
    { g with
      deferred := g.deferred.filter (fun d => !u.contains d.1)
      ents := (g.ents.filter (fun e => !gone.contains e.idx)).map (fun e =>
        if e.idx = idx ∧ taken ≠ 0 then { e with lanes := e.lanes ||| taken, mark := e.mark || decide (1024 ≤ e.entries), entries := 0, met := true } else e) })
  { r with s := (s1.enter m st).afterVote m cyc, gone := r.gone ++ gone, kept := r.kept ++ [idx] }

/-- A split leaves its slot. -/
def CamRun.free (r : CamRun) (uid gi idx : Nat) : CamRun := r.map (fun s => s.modGroup uid gi (fun g => { g with ents := g.ents.filter (fun e => e.idx != idx) }))

/-- One pending vote of a split, with the votes that are still pending beside it (step 1 of R37). -/
def CamRun.castVote (r : CamRun) (c : Crew) (uid gi : Nat) (b : Ballot) (pend : List Ballot) (cyc : Nat) : CamRun :=
  let m : Member := ⟨uid, gi, b.1⟩
  let g := r.group uid gi
  let im := (r.s.image? c.img).getD default
  match b.2.2 with
  | [] => r.free uid gi b.1
  | n =>
    let one := match n with
      | [x] => some x
      | _ => none
    if (one.map (r.s.isMerge c)).getD false then
      (r.free uid gi b.1).map (fun s => s.modGroup uid gi (fun g => { g with parked := deferTo g.parked (n.headD 0) (lanesTo b.2.1 (n.headD 0)) }))
    else if (one.map (r.s.isStub c)).getD false then { r with binds := r.binds ++ [(b.1, n.headD 0)] }
    else
      let cv := unionOf (pend.map (fun x => x.2.2))
      let dv := g.deferred.map (·.1)
      let try_ := fun (u : List Nat) => if u.length ≤ 7 then (im.succ? u).map (fun t => (u, t)) else none
      match [unionOf [n, cv, dv], unionOf [n, cv], unionOf [n, dv], n].findSome? try_ with
      | some (u, t) => r.enterUnion uid gi b.1 t u pend cyc
      | none =>
        (match one, g.ents.find? (fun e => e.idx == b.1) with
         | some x, _ => { r with s := (r.s.enter m (r.s.homeOf c x)).afterVote m cyc, kept := r.kept ++ [b.1] }
         | none, some e => r.fallback c uid gi e b.2.1 cyc
         | none, none => r)

/-- Every pending vote in ascending split index; a split absorbed in this cycle is skipped. -/
def CamRun.castVotes (r : CamRun) (c : Crew) (uid gi : Nat) (l : List Ballot) (cyc : Nat) : CamRun :=
  match l with
  | [] => r
  | b :: rest => (if r.gone.contains b.1 then r else r.castVote c uid gi b (rest.filter (fun x => !r.gone.contains x.1)) cyc).castVotes c uid gi rest cyc

/-- Parked lanes are released when nothing is active or deferred (R40): together as split 0, which votes with its merge block; lanes that meet again are ordered (R75). -/
def CamRun.release (r : CamRun) (c : Crew) (uid gi cyc : Nat) : CamRun :=
  let g := r.group uid gi
  if g.ents = [] ∧ g.deferred = [] then
    match g.parked.foldl (fun (b : Option (Nat × Word)) d => match b with
      | none => some d
      | some x => if d.1 < x.1 then some d else some x) none with
    | none => r
    | some (b, lanes) =>
      let im := (r.s.image? c.img).getD default
      let st := (im.succ? [b]).getD (r.s.homeOf c b)
      { r with s := (r.s.modGroup uid gi (fun g =>
        { g with parked := g.parked.filter (fun d => d.1 != b), ents := [{ newEnt 0 lanes (cyc + 1) with met := true }] })).enter ⟨uid, gi, 0⟩ st }
  else r

/-- Free slots, ascending, take the oldest deferred blocks (step 3 of R37). -/
def CamRun.fillSlots (r : CamRun) (c : Crew) (uid gi cyc : Nat) : CamRun :=
  (List.range 4).foldl (fun r i =>
    let g := r.group uid gi
    match g.deferred with
    | [] => r
    | d :: _ => if g.ents.all (fun e => e.idx != i) then r.serveWith c uid gi (newEnt i 0 (cyc + 1)) d.1 else r) r

/-- A marked split: by a word, or by its 1,024th entry (R42). -/
def Ent.marked (e : Ent) : Bool := e.mark || decide (1024 ≤ e.entries)

/-- Rotations of the marked splits that have voted (step 4 of R37, R42). -/
def CamRun.rotate (r : CamRun) (c : Crew) (uid gi cyc : Nat) : CamRun :=
  (sortBy (fun a b => decide (a ≤ b)) r.kept).foldl (fun r i =>
    let g := r.group uid gi
    match g.ents.find? (fun e => e.idx == i), g.deferred with
    | some e, d :: _ =>
      if e.marked && r.binds.all (fun b => b.1 != i) then
        let l := (lanesOf e.lanes).map (fun x => (x, (g.lane x).blk.toNat))
        (r.map (fun s => s.modGroup uid gi (fun g =>
          { g with
            ents := g.ents.filter (fun x => x.idx != i)
            deferred := (voteOf l).foldl (fun q b => deferTo q b (lanesTo l b)) g.deferred }))).serveWith c uid gi (newEnt i 0 (cyc + 1)) d.1
      else r
    | _, _ => r) r

/-- Does the Cam work on the splits of a group: no handler runs and no trap is held, or a binding handler of one split runs beside the others (R47 to R50)? -/
def Group.camRuns (g : Group) : Bool :=
  match g.handler with
  | none => g.traps.isEmpty
  | some h => h.cause == causeBinding && h.trapped.isSome

/-- Has a split group something to do without a vote: a free slot and deferred lanes, or parked lanes alone (steps 2 and 3 of R37)? -/
def Group.camIdle (g : Group) : Bool :=
  g.camRuns && ((!g.deferred.isEmpty && !g.freeSlots.isEmpty) || (g.ents.isEmpty && g.deferred.isEmpty && !g.parked.isEmpty))

/-- Do the votes of a cycle of the Cam wait: for a descriptor of theirs or of a block that may be served, or for a word that may fault? -/
def State.camHeld (s : State) (c : Crew) (g : Group) (voters : List Ent) : Bool :=
  (g.deferred ++ g.parked).any (fun d => s.descWaits c d.1 || s.descWaits c (s.fwdOf c d.1)) || s.lastHeld c g (voters.foldl (fun m e => m ||| e.lanes) 0)

/-- The Cam's steps of a cycle on a split group, before its traps (R37). -/
def State.camCycle (s : State) (c : Crew) (uid gi : Nat) (g : Group) (cyc : Nat) : CamRun :=
  let r := s.ballots c g cyc
  let s1 := r.1.modGroup uid gi (fun x => (x.land cyc).takeBallots r.2)
  let r1 := (CamRun.mk s1 [] [] []).castVotes c uid gi r.2 cyc
  ((r1.release c uid gi cyc).fillSlots c uid gi cyc).rotate c uid gi cyc

/-- SPLIT_GROUP_CYCLE: the Cam's steps of a cycle on a split group (R37). -/
def execSplitGroupCycle (g : GRef) (s : State) : Out :=
  match s.crew? g.crew, s.group? g.crew g.grp with
  | some c, some gr =>
    let cyc := s.cyc c.core
    let voters := gr.ents.filter (gr.votes cyc)
    if c.phase ≠ .resident ∨ c.stopped ∨ gr.retired ∨ !gr.isSplit ∨ (voters = [] ∧ !gr.camIdle) ∨ s.camHeld c gr voters then .refused (.notEnabled "SPLIT_GROUP_CYCLE")
    else
      let r := s.camCycle c g.crew g.grp gr cyc
      if (r.group g.crew g.grp).liveMask = 0 then .next (r.s.retireGroup g.crew g.grp)
      else
        let still := gr.ents.map (·.idx)
        let fresh := ((r.group g.crew g.grp).ents.map (·.idx)).filter (fun i => !still.contains i || (voters.map (·.idx)).contains i)
        .next (((r.map (fun s => s.modGroup g.crew g.grp Group.whole)).bind g.crew g.grp).atBoundary g.crew g.grp fresh)
  | _, _ => .refused (.notEnabled "SPLIT_GROUP_CYCLE")

/-- STATE_ENTRY_COUNT_LIMIT: a split that has entered states 1,024 times since its lane set changed is marked for rotation (R42). -/
def execStateEntryCountLimit (m : Member) (s : State) : Out :=
  match s.group? m.crew m.grp, s.ent? m with
  | some g, some e =>
    if g.isSplit && m.ent != handlerIdx && decide (1024 ≤ e.entries) && !e.mark then .next (s.modEnt m (fun e => { e with mark := true }))
    else .refused (.notEnabled "STATE_ENTRY_COUNT_LIMIT")
  | _, _ => .refused (.notEnabled "STATE_ENTRY_COUNT_LIMIT")

/-! ### Results (R318) -/

/-- RESULT_LAND: the results of a group that are due land. -/
def execResultLand (g : GRef) (s : State) : Out :=
  match s.crew? g.crew, s.group? g.crew g.grp with
  | some c, some gr =>
    if gr.pend.any (fun p => decide (p.due ≤ s.cyc c.core)) then .next (s.modGroup g.crew g.grp (fun x => x.land (s.cyc c.core)))
    else .refused (.notEnabled "RESULT_LAND")
  | _, _ => .refused (.notEnabled "RESULT_LAND")

/-! ### Code (R10, R82, R360) -/

/-- The entities of a crew, each with its group. -/
def Crew.entities (c : Crew) : List (Nat × Ent) :=
  (c.groups.mapIdx (fun i g => (g.ents ++ (g.handler.map (·.ent)).toList).map (fun e => (i, e)))).flatten

/-- Is any entity of a core in a state of an image? -/
def State.occupied (s : State) (core img st : Nat) : Bool :=
  (s.onCore core).any (fun c => c.img == img && c.entities.any (fun e => e.2.st == st))

/-- Segments leave a code window in least-recently-entered order until a new one fits; those whose state is occupied stay (R10). -/
def makeRoom (l : List Seg) (keep : Seg → Bool) (need fuel : Nat) : Option (List Seg) :=
  if (l.map segBytes).foldl (· + ·) 0 + need ≤ 65536 then some l
  else match fuel with
    | 0 => none
    | n + 1 =>
      match (l.filter (fun g => !keep g)).foldl (fun (b : Option Seg) g => match b with
        | none => some g
        | some x => if g.last < x.last then some g else some x) none with
      | none => none
      | some g => makeRoom (l.erase g) keep need n

/-- When a state was last entered by a group or split of a core that is in it, or when its segment of the window was (R10). -/
def State.enteredAt (s : State) (core img st : Nat) : Nat :=
  let old := ((s.core core).segs.filter (fun x => x.img == img && x.st == st)).foldl (fun n x => max n x.last) 0
  (s.onCore core).foldl (fun n c => if c.img = img then (c.entities.filter (fun e => e.2.st == st)).foldl (fun n e => max n e.2.since) n else n) old

/-- A segment is put into the code window of a core, where it takes its place in the order of entries; none where it has no room (R10). -/
def State.putSeg (s : State) (core : Nat) (g : Seg) : Option State :=
  let k := s.core core
  let l := k.segs.filter (fun x => !(x.img == g.img && x.st == g.st))
  (makeRoom l (fun x => s.occupied core x.img x.st) (segBytes g) l.length).map
    (fun l => s.modCore core (fun k => { k with segs := l ++ [{ g with last := s.enteredAt core g.img g.st }] }))

/-- The pages of a segment, each fetched through its translation: the words' bytes, or the first page that fails; every line of a page passes the map point (R84). -/
def State.fetchPages (s : State) (c : Crew) (gi va pages : Nat) : State × Except (Nat × LineRes) (List Byte) :=
  (List.range pages).foldl (fun (r : State × Except (Nat × LineRes) (List Byte)) i =>
    match r.2 with
    | .error _ => r
    | .ok bytes =>
      let a := (va + 4096 * i) % 2 ^ 64
      let q := r.1.engineLine ⟨c.core, c.uid, c.part, false, true, gi⟩ a [] (fun s l pa => (List.range 16).any (fun j => s.lineStops l (pa + 256 * j) 256))
      match q.2 with
      | .ok l pa =>
        let keys := keysFrom (plocKey l pa) 4096
        (q.1.noteMarks c.uid gi 3 keys, .ok (bytes ++ keys.map (fun k => q.1.readPlace .device (.mem k))))
      | e => (q.1, .error (a, e))) (s, .ok [])

/-- The words of a segment's bytes. -/
def codeOf (bytes : List Byte) (n : Nat) : List Code := (List.range n).map (fun i => BitVec.ofNat 96 (ofBytes ((bytes.drop (12 * i)).take 12)))

/-- The entities of a cluster that wait for a state of an image receive its code on the cores that hold the segment. -/
def State.deliverCode (s : State) (cluster img st : Nat) (code : List Code) : State :=
  { s with crews := s.crews.map (fun c =>
      if c.img = img ∧ clusterOf c.core = cluster ∧ c.phase = .resident ∧ ((s.core c.core).seg? img st).isSome then
        let up := fun (e : Ent) => if e.st = st ∧ e.wait = some .fetch then { e with code := code, wait := none } else e
        { c with groups := c.groups.map (fun g => { g with ents := g.ents.map up, handler := g.handler.map (fun h => { h with ent := up h.ent }) }) }
      else c) }

/-- CODE_SEGMENT_DELIVER: the segment that an entity waits for reaches every core of the cluster that has a group in its state; a fault is asked about, and is taken at the boundary. -/
def execCodeSegmentDeliver (m : Member) (s : State) : Out :=
  match s.crew? m.crew, s.ent? m with
  | some c, some e =>
    if e.wait ≠ some .fetch ∨ c.phase ≠ .resident ∨ c.stopped ∨ !((s.group? m.crew m.grp).map (fun g => g.free? e)).getD false then .refused (.notEnabled "CODE_SEGMENT_DELIVER")
    else
      let im := (s.image? c.img).getD default
      let d := (im.states[e.st]?).getD default
      let va := (im.base + im.codeOff + d.seg) % 2 ^ 64
      let r := s.fetchPages c m.grp va (ceilDiv (12 * d.nword) 4096)
      match r.2 with
      | .error (_, .wait) => .refused (.notEnabled "CODE_SEGMENT_DELIVER")
      | .error (a, .ask k) =>
        let q := r.1.nextFree.ask (.fetch m) m.crew m.grp a k 3
        .next (q.1.modEnt m (fun e => { e with wait := some (.fetchAsked q.2) }))
      | .error (a, .err k) =>
        if k = 4 then .next ((r.1.report m.crew m.grp a 0x12 3).raise m causeRemotelost 1)
        else .next ((r.1.report m.crew m.grp a 0x11 3).raise m causeCapacity (faultInfo 0 false a))
      | .error (_, _) => .refused (.notEnabled "CODE_SEGMENT_DELIVER")
      | .ok bytes =>
        let code := codeOf bytes d.nword
        let g : Seg := ⟨c.img, e.st, code, s.nextSeq, false⟩
        match r.1.putSeg c.core g with
        | none => .refused (.notEnabled "CODE_SEGMENT_DELIVER")
        | some s1 =>
          let cl := clusterOf c.core
          let others := (List.range 8).map (fun i => 8 * cl + i) |>.filter (fun k => k != c.core && s1.occupied k c.img e.st)
          let s2 := others.foldl (fun s k => (s.putSeg k g).getD s) ({ s1 with nextSeq := s1.nextSeq + 1 } : State)
          .next (s2.deliverCode cl c.img e.st code)
  | _, _ => .refused (.notEnabled "CODE_SEGMENT_DELIVER")

/-! ### The choice of what issues (R12 to R14, R41, R44, R345) -/

/-- What an entity is ranked by. -/
structure Cand where
  m      : Member
  prio   : Nat
  yh     : Bool
  issued : Nat
  order  : Nat
  width  : Nat
  img    : Nat
  st     : Nat
  pos    : Nat
  code   : Code
  turn   : Nat
  skips  : Nat
  deriving DecidableEq, Repr, Inhabited

/-- The word at which an entity stands that might issue at a cycle, with its context: what R345 asks but for its interlocks; none for a word that is no instruction. -/
def State.atWord (s : State) (c : Crew) (gi : Nat) (g : Group) (e : Ent) (cyc : Nat) : Option (Option (Ctx × Instr)) :=
  if c.phase == .resident && !c.stopped && !g.retired && !g.preDone && g.free? e && decide (g.issued ≤ cyc) && decide (e.readyAt ≤ cyc) &&
      (e.wait.isNone || e.wait == some .held) then
    match (e.code[e.pos]?).map decode with
    | some (.ok i) => (s.ctxOf ⟨c.uid, gi, e.idx⟩ cyc (instrHdr i).slot).map (fun x => some (s.view x i, i))
    | some (.error _) => some none
    | none => none
  else none

/-- Is an entity ready at a cycle (R345)? -/
def State.readyEnt (s : State) (c : Crew) (gi : Nat) (g : Group) (e : Ent) (cyc : Nat) : Bool :=
  match s.atWord c gi g e cyc with
  | some (some (x, i)) => !s.heldBy x i
  | some none => true
  | none => false

/-- Does an entity come to a wait that PREEMPT abandons at once (R53)? -/
def State.abandons (s : State) (c : Crew) (gi : Nat) (g : Group) (e : Ent) (cyc : Nat) : Bool :=
  s.preempting c.uid gi && e.idx != handlerIdx && (match s.atWord c gi g e cyc with
    | some (some (x, i)) => s.longHeld x i
    | _ => false)

/-- The entities of a core whose waits PREEMPT ends. -/
def State.abandoning (s : State) (core cyc : Nat) : List Member :=
  (s.onCore core).flatMap (fun c => if c.preempt.isNone then [] else
    (c.groups.mapIdx (fun i g => (g.ents.filter (fun e => s.abandons c i g e cyc)).map (fun e => (⟨c.uid, i, e.idx⟩ : Member)))).flatten)

/-- May a split of a group issue now, so that each ready split of the group still issues within four of the group's opportunities (R41)?
A split that was passed over k times must be one of the next 3 − k after this one. -/
def Cand.inTurn (x : Cand) (l : List Cand) : Bool :=
  (List.range 4).all (fun k => decide ((l.filter (fun y => y.m != x.m && decide (3 ≤ y.skips + k))).length ≤ k))

/-- Is a yield hint pending at a pipe for an entity: the one that its last word left, at the pipe that issued it, or an earlier one at the other pipe (R161)? -/
def Ent.hint (e : Ent) (pipe : Nat) : Bool := if e.pipe = pipe then e.yh else e.yhOther

/-- A pipe's choice uses up the hints that are pending there (R161). -/
def Ent.useHint (e : Ent) (pipe : Nat) : Ent := if e.pipe = pipe then { e with yh := false } else { e with yhOther := false }

/-- The entity issues at a pipe in a cycle: a hint of its last word that the other pipe has not used stays pending there (R161). -/
def Ent.win (e : Ent) (pipe cyc : Nat) : Ent :=
  { e with skips := 0, issued := cyc + 1, yh := false, yhOther := if e.pipe = pipe then e.yhOther else e.yh, pipe := pipe }

/-- The candidates of a group at a pipe: those of its ready entities whose turn it may be (R41); a yield hint binds the pipe that issued its word (R161). -/
def State.candsOf (s : State) (c : Crew) (gi : Nat) (g : Group) (pipe cyc : Nat) : List Cand :=
  let l := ((g.ents ++ (g.handler.map (·.ent)).toList).filter (fun e => s.readyEnt c gi g e cyc)).map (fun e =>
    (⟨⟨c.uid, gi, e.idx⟩, s.prio c g, e.hint pipe, e.issued, c.order, c.width, c.img, e.st, e.pos, (e.code[e.pos]?).getD 0, g.turn, e.skips⟩ : Cand))
  let due := l.filter (fun x => x.inTurn l)
  if due = [] then l else due

/-- The ready entities of a core, as a pipe ranks them. -/
def State.cands (s : State) (core pipe cyc : Nat) : List Cand :=
  ((s.onCore core).map (fun c => (c.groups.mapIdx (fun i g => s.candsOf c i g pipe cyc)).flatten)).flatten

/-- Least recent issue first, then the crew placed or restored earlier, the lower group, the lower split (R14). -/
def Cand.before (a b : Cand) : Bool :=
  decide (a.issued < b.issued) || (a.issued == b.issued && (decide (a.order < b.order) || (a.order == b.order &&
    (decide (a.m.grp < b.m.grp) || (a.m.grp == b.m.grp && decide (a.m.ent < b.m.ent))))))

/-- The lead's order: priority, then the entities without a yield hint, then as above (R14, R161); the hint ranks the lead alone, and no other member of a pack
(assumption 49). -/
def Cand.leads (a b : Cand) : Bool :=
  decide (b.prio < a.prio) || (a.prio == b.prio && ((!a.yh && b.yh) || (a.yh == b.yh && a.before b)))

/-- The first of a list by an order. -/
def firstBy (lt : Cand → Cand → Bool) (l : List Cand) : Option Cand :=
  l.foldl (fun b x => match b with
    | none => some x
    | some y => if lt x y then some x else some y) none

/-- The lead: a group that has waited for 223 opportunities comes first, since a core holds at most 32 groups and each must issue within 256 (R44; DESIGN CHOICE, assumption 12). -/
def leadOf (l : List Cand) : Option Cand :=
  match l.filter (fun x => decide (223 ≤ x.turn)) with
  | [] => firstBy Cand.leads l
  | late => firstBy (fun a b => decide (b.turn < a.turn) || (a.turn == b.turn && a.before b)) late

/-- May an entity join a pack (R13)? -/
def Cand.fits (x lead : Cand) (pack : List Cand) : Bool :=
  x.img == lead.img && x.st == lead.st && x.pos == lead.pos && x.code == lead.code && decide (pack.foldl (fun n y => n + y.width) 0 + x.width ≤ 64) &&
    pack.all (fun y => !(y.m.crew == x.m.crew && y.m.grp == x.m.grp))

/-- The pack of a lead: candidates by least recent issue, whatever their yield hints (R14; DESIGN CHOICE, assumption 49). -/
def packOf (lead : Cand) (l : List Cand) : List Cand :=
  (sortBy (fun a b => !(b.before a)) (l.filter (fun x => x.m != lead.m))).foldl (fun p x => if x.fits lead p then p ++ [x] else p) [lead]

/-- An issue opportunity of a pipe has passed: every member of the pack counts as issued in this cycle (R12, R14), the pipe's yield hints are used up (R161),
and the groups that were ready count the opportunities and issues that have passed them (R41, R44). A group that has issued in this cycle has no further
opportunity in it: its splits keep their counts. -/
def State.countTurn (s : State) (core pipe cyc : Nat) (pack : List Cand) : State :=
  { s with crews := s.crews.map (fun c =>
      if c.core = core ∧ c.phase = .resident then
        { c with groups := c.groups.mapIdx (fun i g =>
            let ready := ((g.ents ++ (g.handler.map (·.ent)).toList).filter (fun e => s.readyEnt c i g e cyc)).map (·.idx)
            let won := (pack.filter (fun x => x.m.crew == c.uid && x.m.grp == i)).map (fun x => x.m.ent)
            let up := fun (e : Ent) =>
              if won.contains e.idx then e.win pipe cyc
              else if won = [] then (if ready.contains e.idx || decide (cyc < g.issued) then e.useHint pipe else { e.useHint pipe with skips := 0 })
              else { e.useHint pipe with skips := if ready.contains e.idx then e.skips + 1 else 0 }
            { g with
              turn := if won = [] ∧ ready ≠ [] then g.turn + 1 else 0
              issued := if won = [] then g.issued else cyc + 1
              ents := g.ents.map up
              handler := g.handler.map (fun h => { h with ent := up h.ent }) }) }
      else c) }

/-- ISSUE_CHOICE: a pipe chooses its lead and pack, whose words issue next; waits that PREEMPT abandons end first, and take no issue (R53, R345). -/
def execIssueChoice (core pipe : Nat) (s : State) : Out :=
  let cyc := s.cyc core
  let k := s.core core
  if 2 ≤ pipe ∨ 160 ≤ core ∨ cyc < (k.pipes[pipe]?).getD 0 then .refused (.notEnabled "ISSUE_CHOICE")
  else match s.abandoning core cyc with
    | m :: rest => .next ((m :: rest).foldl (fun s m => s.abandon m) s)
    | [] =>
      let all := s.cands core pipe cyc
      match leadOf all with
      | none => .refused (.notEnabled "ISSUE_CHOICE")
      | some lead =>
        let pack := packOf lead all
        let s1 := s.countTurn core pipe cyc pack
        .next { s1.modCore core (fun k => { k with pipes := k.pipes.set pipe (cyc + 1) }) with issue := pack.map (·.m) }

end Sys2Proof.Machine
end

