-- ==== Sys2Proof/Machine/Order.lean ====
section
/-!
DEFINITION. The steps of the ordering machine (R58, R67, R84 to R88, R239, R240, R356, R364): translating the lines of a word, the map point, PERFORM, DRAIN, PROPAGATE, REPLAY.
-/

namespace Sys2Proof.Machine

/-! ### Lines of a word (R58) -/

/-- The lines of a word that have no translation yet, ascending. -/
def MemWord.openLines (m : MemWord) : List Nat :=
  sortBy (fun a b => decide (a ≤ b)) ((m.accs.filter (fun a => a.virt && a.place.isNone)).map (·.line)).eraseDups

/-- The translated lines of a word that lie at or above CAP_LIVE, ascending (R87). -/
def State.capLines (s : State) (m : MemWord) : List Nat :=
  sortBy (fun a b => decide (a ≤ b)) ((m.accs.filter (fun a => a.virt && (match a.place with
    | some (.mem k) => k % 8 == 0 && decide (s.dev.capLive.toNat ≤ granule (k / 8))
    | _ => false))).map (·.line)).eraseDups

/-- The lowest lane with an access in one of some lines. -/
def MemWord.laneIn (m : MemWord) (lines : List Nat) : Nat :=
  ((m.accs.filter (fun a => a.virt && lines.contains a.line)).map (·.lane)).foldl (fun (b : Option Nat) l => some (match b with
    | none => l
    | some x => min x l)) none |>.getD 0

/-- TRAPINFO of the lowest failing line: its address, and the lowest lane that fails, in whichever failing line (R239). -/
def MemWord.lineInfo (m : MemWord) (line : Nat) (failing : List Nat) : Word := faultInfo (m.laneIn (line :: failing)) m.op.writes (256 * line)

/-- The lines of a word without a translation that would fault as their addresses translate now. -/
def State.pageLines (s : State) (c : Crew) (m : MemWord) : List Nat :=
  m.openLines.filter (fun ln => match s.peek ⟨c.core, c.uid, c.part, m.op.writes, false, 0⟩ (256 * ln) with
    | .fault _ => true
    | _ => false)

/-- Does an access of a word address a module: through its place, or through what its address translates to now? -/
def State.accOn (s : State) (c : Crew) (m : MemWord) (a : Acc) (mod : Nat) : Bool :=
  a.virt && (match a.place with
    | some _ => a.module? == some mod
    | none => s.peek ⟨c.core, c.uid, c.part, m.op.writes, false, 0⟩ (a.va / 256 * 256) == .lost mod)

/-- TRAPINFO of REMOTELOST: the lanes whose accesses address the lost module (R239). -/
def State.lostMask (s : State) (c : Crew) (m : MemWord) (mod : Nat) : Word := maskOf ((m.accs.filter (fun a => s.accOn c m a mod)).map (·.lane))

/-- A line above CAP_LIVE makes the word fault as a whole (R58, R87). -/
def State.capFault (s : State) (uid gi : Nat) (m : MemWord) (line : Nat) : State :=
  (s.report uid gi (256 * line) 0x11 m.op.accCode).deliverWord uid gi m.seq causeCapacity (m.lineInfo line (s.capLines m))

/-- A word on a lost module faults as a whole. -/
def State.lostFault (s : State) (c : Crew) (gi : Nat) (m : MemWord) (line mod : Nat) : State :=
  (s.report c.uid gi (256 * line) 0x12 m.op.accCode).deliverWord c.uid gi m.seq causeRemotelost (s.lostMask c m mod)

/-- The line is translated. When none is left, a word that touches the first tier goes on to the map point, and any other is ready. -/
def MemWord.resolve (m : MemWord) (line : Nat) (l : PLoc) (pa : Nat) : MemWord :=
  let accs := m.accs.map (fun a => if a.virt ∧ a.line = line then { a with place := some (.mem (plocKey l (pa + a.va % 256))) } else a)
  let m1 := { m with accs := accs }
  if m1.openLines ≠ [] then m1
  else if accs.any (fun a => a.virt && (match a.place with
    | some (.mem k) => k % 8 == 0
    | _ => false)) then { m1 with stat := .resolved }
  else { m1 with stat := .ready, accs := accs.map (fun a => { a with passed := true }) }

/-- Does a translation put its word into the operand log? -/
def Xl.bars (x : Xl) : Bool :=
  match x with
  | .ok _ _ | .wait => false
  | _ => true

/-- Would a fault of this word overfill the operand log of its group, so that it must wait (R240)? -/
def Group.logBars (g : Group) (m : MemWord) : Bool := g.logFull && !m.held

/-- PAGE_WALK for a word: its lowest line without a translation gets one; a fault is asked about, and of several failing lines the lowest is reported (R58, R364). -/
def State.walkWord (s : State) (c : Crew) (gi : Nat) (m : MemWord) (line : Nat) (useCache contigFirst : Bool) : State :=
  let r := s.translate ⟨c.core, c.uid, c.part, m.op.writes, false, gi⟩ (256 * line) useCache contigFirst
  let fails := match r.2 with
    | .ok _ _ => false
    | _ => true
  match if fails then (s.capLines m).head? else none with
  | some low => s.capFault c.uid gi m low
  | none =>
    match r.2 with
    | .ok l pa => r.1.modGroup c.uid gi (fun g => g.modWord m.seq (fun m => m.resolve line l pa))
    | .lost mod => r.1.lostFault c gi m line mod
    | .wait => s
    | .fault k =>
      let a := r.1.ask (.word ⟨c.uid, gi⟩ m.seq) c.uid gi (256 * line) k m.op.accCode
      a.1.modGroup c.uid gi (fun g => g.modWord m.seq (fun m => { m with stat := .asked a.2 }))

/-- Does a copy need a line that it has not translated yet, to read or to write it (R354)? -/
def State.copyNeeds (s : State) (x : Copy) (line : Nat × Bool) : Bool :=
  x.lines.all (fun y => y.1 != line) && (List.range x.body.total).any (fun i => !x.moved i && (pieceLines [s.copyEnds x.body i]).contains line)

/-- The translation that a walk is asked for, with the line: of an engine or of a fetch one that it needs; those of a memory word are its own. -/
def State.walkOf (s : State) (r : WalkReq) : Option (XReq × Nat) :=
  match r with
  | .word g seq lane =>
    (match s.crew? g.crew, (s.group? g.crew g.grp).bind (fun x => x.word? seq) with
     | some c, some m => if c.phase = .resident ∧ m.stat = .walking then
         (match m.openLines with
          | line :: _ => if m.accs.any (fun a => a.virt && a.place.isNone && a.lane == lane && a.line == line) then
              some (⟨c.core, c.uid, c.part, m.op.writes, false, g.grp⟩, 256 * line) else none
          | [] => none) else none
     | _, _ => none)
  | .copy core slot va write =>
    (s.copy? core slot).bind (fun x => (s.crew? x.crew).bind (fun c =>
      if c.phase = .resident ∧ s.copyNeeds x (va / 256, write) then some (⟨c.core, c.uid, c.part, write, false, x.grp⟩, va / 256 * 256) else none))
  | .record m =>
    (match s.crew? m.crew, (s.ent? m).bind (·.wait) with
     | some c, some (.spawn _ addr _) => if c.phase = .resident then some (⟨c.core, c.uid, c.part, false, false, m.grp⟩, addr / 256 * 256) else none
     | _, _ => none)
  | .fetch m =>
    (match s.crew? m.crew, s.ent? m with
     | some c, some e =>
       let im := (s.image? c.img).getD default
       if e.wait = some .fetch ∧ c.phase = .resident then
         some (⟨c.core, c.uid, c.part, false, true, m.grp⟩, (im.base + im.codeOff + ((im.states[e.st]?).getD default).seg) % 2 ^ 64 / 256 * 256) else none
     | _, _ => none)

/-- PAGE_WALK: a translation that an access needs (R351, R354, R356). Engines and fetches translate again when they use the line. -/
def execPageWalk (r : WalkReq) (useCache contigFirst : Bool) (s : State) : Out :=
  let no : Out := .refused (.notEnabled "PAGE_WALK")
  match s.walkOf r with
  | none => no
  | some (q, va) =>
    let t := s.translate q va useCache contigFirst
    if t.2 = .wait then no
    else match r with
      | .word g seq _ =>
        (match s.crew? g.crew, s.group? g.crew g.grp, (s.group? g.crew g.grp).bind (fun x => x.word? seq) with
         | some c, some gr, some m =>
           if gr.lineWaits m (va / 256) || (gr.logBars m && t.2.bars) then no else .next (s.walkWord c g.grp m (va / 256) useCache contigFirst)
         | _, _, _ => no)
      | _ => .next t.1

/-! ### The map point (R84 to R88) -/

/-- The checks of a word whose lines are all translated: above CAP_LIVE it faults, else its lines may pass, those of other tiers at once. -/
def State.checkWord (s : State) (uid gi : Nat) (m : MemWord) : State :=
  match s.capLines m with
  | line :: _ => s.capFault uid gi m line
  | [] => s.modGroup uid gi (fun g => g.modWord m.seq (fun m =>
      { m with
        stat := .ready
        accs := m.accs.map (fun a => match a.place with
          | some (.mem k) => if k % 8 = 0 then a else { a with passed := true }
          | _ => { a with passed := true }) }))

/-- A line passes the map point with every access of the word to it; the first passage is noted, since returned lines keep its order (R86). -/
def State.passLine (s : State) (uid gi seq line : Nat) : State :=
  ({ s with nextSeq := s.nextSeq + 1 } : State).modGroup uid gi (fun g => g.modWord seq (fun m =>
    { m with accs := m.accs.map (fun a => if a.virt ∧ a.line = line ∧ !a.passed then { a with passed := true, first := if a.first = 0 then s.nextSeq else a.first } else a) }))

/-- MAP_POINT_PASS: the checks of the word's lines, then the passage of one of them, which waits at the watermark's granule and at a frozen stack. -/
def execMapPointPass (g : GRef) (seq lane : Nat) (s : State) : Out :=
  let no : Out := .refused (.notEnabled "MAP_POINT_PASS")
  let pass := fun (s : State) => match (s.group? g.crew g.grp).bind (fun x => x.word? seq) with
    | some m =>
      if m.stat ≠ .ready then none
      else match m.accs.find? (fun a => a.lane == lane && a.virt && !a.passed) with
        | some a => (match a.place with
          | some (.mem k) => if s.mapHeld (k / 8) then none else some (s.passLine g.crew g.grp seq a.line)
          | _ => none)
        | none => none
    | none => none
  match (s.group? g.crew g.grp).bind (fun x => x.word? seq) with
  | none => no
  | some m =>
    if m.stat = .resolved then
      if ((s.group? g.crew g.grp).map (fun x => x.logBars m)).getD false && s.capLines m != [] then no else
      let s1 := s.checkWord g.crew g.grp m
      .next ((pass s1).getD s1)
    else endEvent "MAP_POINT_PASS" (pass s)

/-! ### Perform, drain, propagate (R67) -/

/-- The word and the access of a lane that may act now, with its group as its locations stand (R68, R69). -/
def State.actor (s : State) (g : GRef) (seq lane : Nat) : Option (Crew × Group × MemWord × Acc) :=
  match s.crew? g.crew, s.group? g.crew g.grp with
  | some c, some gr =>
    let gp := s.placed c gr
    (gr.word? seq).bind (fun m => (m.acc? lane).bind (fun a => if s.mayAct c g.grp gp m a then some (c, gp, m, a) else none))
  | _, _ => none

/-- A SPAWN or an XRED of the operand log acts once its record can be read (R364). -/
def State.performLogged (s : State) (g : GRef) (seq : Nat) : Option State :=
  match (s.group? g.crew g.grp).bind (fun x => x.word? seq) with
  | some m => (match m.op with
    | .spawn _ => s.spawnLogged g seq State.lineHeld
    | .xred => s.xredLogged g seq
    | _ => none)
  | none => none

/-- PERFORM: a load of the outstanding-load set reads its value and leaves the set. -/
def execPerform (g : GRef) (seq lane : Nat) (s : State) : Out :=
  match s.actor g seq lane with
  | some (c, gr, m, a) =>
    if m.op.reads then
      let s1 := if m.op.readsData then s.logBad a.place a.size else s
      .next (s1.nextFree.performAcc g.crew g.grp c gr m a (s1.accLoad c g.grp gr m a))
    else .refused (.notEnabled "PERFORM")
  | none => endEvent "PERFORM" (s.performLogged g seq)

/-- DRAIN: a store leaves the store buffer for the end of its location's coherence order. -/
def execDrain (g : GRef) (seq lane : Nat) (s : State) : Out :=
  match s.actor g seq lane with
  | some (c, gr, m, a) => if m.op.reads then .refused (.notEnabled "DRAIN") else .next (s.drainAcc g.crew g.grp c gr m a)
  | none => .refused (.notEnabled "DRAIN")

/-- PROPAGATE: a drained store becomes visible at the next larger instance that contains its writer; at the device instance it sets the latches of its lines (R122). -/
def execPropagate (id : Nat) (s : State) : Out :=
  match s.drained.find? (fun d => d.id == id) with
  | some d =>
    if d.level < 5 then
      let up : State := { s with drained := s.drained.map (fun x => if x.id = id then { x with level := x.level + 1 } else x) }
      let s1 := if d.level = 3 then up.wake (d.cells.map (·.1)) else up
      .next (s1.settleMem.settleFences)
    else .refused (.notEnabled "PROPAGATE")
  | none => .refused (.notEnabled "PROPAGATE")

/-! ### Replay (R240) -/

/-- What a word has not performed is translated and checked again. -/
def MemWord.again (m : MemWord) : MemWord :=
  let accs := m.accs.map (fun a => if a.virt ∧ !a.done then { a with place := none, passed := false, back := false, first := 0 } else a)
  { m with accs := accs, stat := if accs.any (fun a => a.virt && !a.done) then .walking else .ready }

/-- A word starts over from its log entry, which it holds until it completes. -/
def MemWord.restart (m : MemWord) : MemWord := { m.again with logged := true }

/-- REPLAY: after TRET a word whose fault was delivered is replayed from its log entry. -/
def execReplay (g : GRef) (seq : Nat) (s : State) : Out :=
  match s.crew? g.crew, (s.group? g.crew g.grp).bind (fun x => (x.word? seq).map (fun m => (x, m))) with
  | some c, some (gr, m) =>
    if m.stat = .delivered ∧ gr.handler.isNone ∧ gr.traps = [] ∧ c.phase = .resident then
      .next (s.modGroup g.crew g.grp (fun x => (x.modWord seq MemWord.restart).raiseCnt m.cnt))
    else .refused (.notEnabled "REPLAY")
  | _, _ => .refused (.notEnabled "REPLAY")

end Sys2Proof.Machine
end

