-- ==== Sys2Proof/Machine/Context.lean ====
section
/-!
DEFINITION. Pre-emption and context (R54, R122, R155, R346, R366 to R371): raising PREEMPT, the grace budget, the bank flip, the drain of shadow halves, the restore.

Scratch, operand buffer and accumulator memory are addressed by crew, so saving and restoring moves none of their bytes here; the weight buffer is addressed by core.
-/

namespace Sys2Proof.Machine

/-! ### The save arena (R368) -/

/-- KiB of a crew's image. -/
def Crew.imageKiB (c : Crew) : Nat := roundUp (448 + c.scrKiB + c.obKiB + 4 * c.accN) 4

/-- KiB of a partition's arena. -/
def State.arenaKiB (s : State) (part : Nat) : Nat := ((((s.dev.parts[part]?).getD Part.init).savesize.extractLsb' 12 28).toNat) * 4

/-- KiB of the arena that images take. -/
def State.arenaUsed (s : State) (part : Nat) : Nat := (s.crews.filter (fun c => c.part == part)).foldl (fun n c => n + c.image.getD 0) 0

/-- Does a crew's image fit? -/
def State.imageFits (s : State) (c : Crew) : Bool := decide (s.arenaUsed c.part + c.imageKiB ≤ s.arenaKiB c.part)

/-- May PREEMPT be raised in a crew: it is resident, its image declares a preempt handler, none is raised yet, and its image fits (R52, R346, R368)? -/
def State.canPreempt (s : State) (c : Crew) : Bool :=
  c.phase == .resident && c.preempt.isNone && !c.stopped && (s.handlerEntry c 0).isSome && s.imageFits c

/-- The image is reserved and PREEMPT is raised; the grace budget starts (R346, R368). -/
def State.preemptCrew (s : State) (c : Crew) : State :=
  let grace := rcbGrace (effRcb (s.path c.part c.region) 2)
  (s.modCrew c.uid (fun x => { x with image := some x.imageKiB })).raisePreempt c.uid (s.clock.toNat + grace)

/-! ### Whom the scheduler pre-empts (R346) -/

/-- Does a saved crew fit a core (R128, R343, R346)? -/
def State.restoreFits (s : State) (c : Crew) (core : Nat) : Bool :=
  let n : Need := ⟨(c.groups.filter (fun g => !g.retired)).length, c.width, 0, c.scrKiB, c.accN, c.obKiB⟩
  !s.idlePart c.part && s.inPart core c.part && s.fits core n 0 c.resv.length && (s.budgetBreaks c.part c.region core n 0).isEmpty

/-- The crews that wait for a core of a partition: the next crew of each ready task that no blocking task holds back, and the saved crews; each with its priority and where it fits. -/
def State.waitingCrews (s : State) (part : Nat) : List (Nat × (State → Nat → Bool)) :=
  ((s.tasks.filter (fun t => t.part == part && t.ready && !s.tasks.any (s.blockedBy t))).map (fun t => (t.eff, fun (x : State) k => x.taskFits t k))) ++
  ((s.crews.filter (fun c => c.part == part && c.phase == .saved)).map (fun c => (s.taskPrio c, fun (x : State) k => x.restoreFits c k)))

/-- The crews of a core in the order in which they are saved: lowest effective priority first, then the most recently placed. -/
def State.saveOrder (s : State) (l : List Crew) : List Crew :=
  sortBy (fun a b => decide (s.taskPrio a < s.taskPrio b) || (s.taskPrio a == s.taskPrio b && decide (b.order ≤ a.order))) l

/-- The state as it would be without some crews on their cores. -/
def State.without (s : State) (l : List Nat) : State := { s with crews := s.crews.map (fun c => if l.contains c.uid then { c with phase := .saved } else c) }

/-- The crews that must be saved from a list, in order, for a waiting crew to fit a core; none when even all do not make room. -/
def State.victims (s : State) (fits : State → Nat → Bool) (core : Nat) (gone : List Nat) (l : List Crew) : Option (List Nat) :=
  if fits (s.without gone) core then some gone
  else match l with
    | [] => none
    | c :: t => if c.preempt.isSome || s.canPreempt c then s.victims fits core (gone ++ [c.uid]) t else s.victims fits core gone t

/-- Does a waiting crew of priority p call for the save of this crew? -/
def State.callsFor (s : State) (c : Crew) (p : Nat) (fits : State → Nat → Bool) : Bool :=
  let cores := (List.range 160).filter (fun k => s.inPart k c.part)
  let leaving := (s.crews.filter (fun x => x.part == c.part && x.preempt.isSome)).map (·.uid)
  decide (s.taskPrio c + 16 ≤ p) && !cores.any (fun k => fits (s.without leaving) k) &&
    (match s.victims fits c.core (leaving.filter (fun u => (s.onCore c.core).any (fun x => x.uid == u)))
        (s.saveOrder ((s.onCore c.core).filter (fun x => x.preempt.isNone && decide (s.taskPrio x + 16 ≤ p)))) with
     | some l => l.contains c.uid
     | none => false)

/-- PREEMPT_RAISE: the scheduler raises PREEMPT in a crew for a waiting crew of higher priority, or while its partition drains. -/
def execPreemptRaise (crew : Nat) (s : State) : Out :=
  match s.crew? crew with
  | none => .refused (.notEnabled "PREEMPT_RAISE")
  | some c =>
    if s.canPreempt c && (s.draining c.part || (s.waitingCrews c.part).any (fun w => s.callsFor c w.1 w.2)) then .next (s.preemptCrew c)
    else .refused (.notEnabled "PREEMPT_RAISE")

/-- Have all groups of a crew reached PMDONE or retired? -/
def Crew.allDone (c : Crew) : Bool := c.groups.all (fun g => g.retired || g.preDone)

/-- GRACE_EXPIRY: the grace budget has run out first, and the fault domain is killed with cause 2. -/
def execGraceExpiry (crew : Nat) (s : State) : Out :=
  match s.crew? crew with
  | none => .refused (.notEnabled "GRACE_EXPIRY")
  | some c =>
    (match c.preempt with
     | some d => if d ≤ s.clock.toNat ∧ !c.allDone ∧ !c.stopped then .next (s.fatal crew 2) else .refused (.notEnabled "GRACE_EXPIRY")
     | none => .refused (.notEnabled "GRACE_EXPIRY"))

/-! ### The flip (R366, R371) -/

/-- Has a group that has executed PMDONE come to rest: its loads have performed, its counters have drained, and what remains is held or has its translation (R54, R370)? -/
def Group.atRest (g : Group) : Bool :=
  g.retired || (g.preDone && g.mws.all (fun m => m.atRest || m.op.posts || (m.op == .store && !m.blank && m.stat != .walking)) &&
    (List.range 16).all (fun a => g.getA a == 0))

/-- Does traffic to a partition's save arena wait at the map point (R84, R387)? Where in the arena an image lies is not said: the whole arena counts
(DESIGN CHOICE, assumption 85). -/
def State.arenaHeld (s : State) (part : Nat) : Bool :=
  let p := (s.dev.parts[part]?).getD Part.init
  let lo := (p.savebase.extractLsb' 12 40).toNat * 4096
  let n := (p.savesize.extractLsb' 12 28).toNat * 4096
  p.savebase.extractLsb' 52 2 == 0 && n != 0 &&
    ((s.sweeping && decide (granule lo ≤ s.dev.watermark.toNat) && decide (s.dev.watermark.toNat ≤ granule (lo + n - 1))) ||
     s.dev.table_.any (fun k => (s.stack k).state == 1))

/-- Does a crew's place on a core meet a shadow half that has not drained (R367)? Which halves of scratch a crew holds is not said: the sum decides. -/
def State.shadowMeets (s : State) (core obBase obKiB accBase accN scrKiB : Nat) : Bool :=
  let l := (s.core core).shadow.map (fun x => (x, (s.crew? x.1).getD default))
  l.any (fun x => (decide (x.1.2.2.1 < obBase + 1024 * obKiB) && decide (obBase < x.1.2.2.1 + 1024 * x.2.obKiB)) ||
    (decide (x.1.2.2.2 < accBase + 4096 * accN) && decide (accBase < x.1.2.2.2 + 4096 * x.2.accN))) ||
  decide (768 < l.foldl (fun n x => n + x.1.2.1) 0 + scrKiB)

/-- Does a range lie in a window of a crew? -/
def Range.ofCrew (r : Range) (uid : Nat) : Bool :=
  match r with
  | .scratch c _ _ | .opbuf c _ _ | .acc c _ _ | .regs c _ _ _ => c == uid
  | .virt _ _ _ => false

/-- May a crew flip: its groups have all come to rest, its engine work is over and the shadow halves it takes are free (R366, R367)? -/
def State.flipReady (s : State) (c : Crew) : Bool :=
  let k := s.core c.core
  c.phase == .resident && c.preempt.isSome && !c.stopped && c.groups.all (·.atRest) && c.groups.any (fun g => !g.retired) &&
    k.matrix.all (fun x => x.crew != c.uid) && k.beryl.all (fun x => x.crew != c.uid) && !s.shadowMeets c.core c.obBase c.obKiB c.accBase c.accN c.scrKiB

/-- A crew leaves its core; its scoreboard entries are released (R366, R371). -/
def State.flipCrew (s : State) (c : Crew) : State :=
  let snap := (s.wbufListed c.core).foldl (fun (m : SMap Byte) o => smSet 0 m o (s.latestKey (wbufKey c.core o))) []
  let s1 := (s.dropCrewTlb c.uid).modCrew c.uid (fun x => { x with phase := .saved, preempt := none, wbSnap := snap, groups := x.groups.map Group.landAll })
  let s2 : State := { s1 with cores := s1.cores.map (fun k => { k with copies := k.copies.map (fun x => { x with ranges := x.ranges.filter (fun r => !r.2.ofCrew c.uid) }) }) }
  (s2.modCore c.core (fun k => { k with shadow := k.shadow ++ [(c.uid, c.scrKiB, c.obBase, c.accBase)] })).repartition c.core

/-- CREW_FLIP: a crew whose groups have all come to rest leaves its core. -/
def execCrewFlip (crew : Nat) (s : State) : Out :=
  match s.crew? crew with
  | none => .refused (.notEnabled "CREW_FLIP")
  | some c => if s.flipReady c then .next (s.flipCrew c) else .refused (.notEnabled "CREW_FLIP")

/-- SHADOW_DRAIN: the shadow halves of a saved crew have drained to its image and are free (R367), past the map point (R387). -/
def execShadowDrain (core crew : Nat) (s : State) : Out :=
  if (s.core core).shadow.any (fun x => x.1 == crew) && !((s.crew? crew).map (fun c => s.arenaHeld c.part)).getD false then
    .next (s.modCore core (fun k => { k with shadow := k.shadow.filter (fun x => x.1 != crew) }))
  else .refused (.notEnabled "SHADOW_DRAIN")

/-! ### The restore (R369, R370) -/

/-- The crew of a place. -/
def Place.crew? (p : Place) : Option Nat :=
  match p with
  | .mem k => if 4 ≤ k % 8 ∧ k % 8 ≤ 6 then some (k / 8 / 2 ^ 20) else none
  | .vreg c _ _ _ _ => some c

/-- Does a side of n bytes lie with a crew? -/
def State.sideMeets (s : State) (x : Side) (n uid : Nat) : Bool :=
  (List.range n).any (fun i => ((s.sidePlace x i 1).bind Place.crew?) == some uid)

/-- Does a copy target a crew: its destination or a barrier that it counts on? -/
def State.copyTargets (s : State) (c : Copy) (uid : Nat) : Bool :=
  ((c.dbar.bind Place.crew?) == some uid) ||
  (match c.body with
   | .linear _ dst len => s.sideMeets dst len uid
   | .tile toMem _ _ side => !toMem && s.sideMeets side c.body.total uid
   | .multi _ dsts len => dsts.any (fun d => s.sideMeets d.2.1 len uid || (d.2.2.bind Place.crew?) == some uid)
   | .lanes l => l.any (fun x => match x.dst with
     | some (.at_ p) => p.crew? == some uid
     | _ => false))

/-- An entity of a restored crew on its new core: its code from the core's window, or to be fetched. -/
def Ent.reenter (e : Ent) (k : Core) (img cyc : Nat) : Ent :=
  let e1 := { e with readyAt := cyc, issued := 0 }
  match e.wait with
  | some _ => e1
  | none => match k.seg? img e.st with
    | some g => { e1 with code := g.code }
    | none => { e1 with wait := some .fetch }

/-- A group of a restored crew: it goes on after PMDONE, and a restore wakes its armed lines (R54, R122). -/
def Group.reenter (g : Group) (k : Core) (img cyc : Nat) : Group :=
  if g.retired then g
  else
    { g with
      preDone := false
      issued := cyc
      turn := 0
      ents := g.ents.map (fun e => e.reenter k img cyc)
      handler := g.handler.map (fun h => { h with ent := h.ent.reenter k img cyc })
      latch := if g.monitors = [] then g.latch else some { g.latch.getD ⟨none, none, false⟩ with restore := true } }

/-- The faults and verdicts that were recorded while the crew was saved take effect (R370). -/
def State.recorded (s : State) (uid : Nat) : State :=
  let l := ((s.crew? uid).map (fun c => (c.groups.mapIdx (fun i g => (g.mws.map (fun m => (i, m))))).flatten)).getD []
  l.foldl (fun s e => match e.2.stat with
    | .faulted cause info => s.deliverWord uid e.1 e.2.seq cause info
    | _ => s) s

/-- Where a crew's operand-buffer and accumulator allocations would lie on a core. -/
def State.restoreAt (s : State) (c : Crew) (core : Nat) : Nat × Nat := (1024 * (s.freeOb core c.obKiB).getD 0, 4096 * (s.freeAcc core c.accN).getD 0)

/-- Would a crew's groups still see on a core every store that they see now (R76)? -/
def State.keepsSight (s : State) (c : Crew) (core : Nat) : Bool :=
  (List.range c.groups.length).all (fun i => s.drained.all (fun d => !d.visible (.group c.uid i c.core) || d.visible (.group c.uid i core)))

/-- May a saved crew return to a core beside the shadow halves of some crew: it fits, its partition is not draining, its copies and those that target it have retired,
its image is read past the map point, it loses sight of no store, and the other shadow halves it takes are free? -/
def State.mayReturn (s : State) (c : Crew) (core : Nat) (beside : Option Nat) : Bool :=
  let a := s.restoreAt c core
  let s' := s.modCore core (fun k => { k with shadow := k.shadow.filter (fun x => some x.1 != beside) })
  c.phase == .saved && !c.stopped && !s.draining c.part && s.restoreFits c core &&
    s.cores.all (fun k => k.copies.all (fun x => x.crew != c.uid && !s.copyTargets x c.uid) && k.reqs.all (fun r => r.crew != c.uid) && k.shadow.all (fun x => x.1 != c.uid)) &&
    !s.arenaHeld c.part && s.keepsSight c core && !s'.shadowMeets core a.1 c.obKiB a.2 c.accN c.scrKiB

/-- May a saved crew return to a core? -/
def State.canRestore (s : State) (c : Crew) (core : Nat) : Bool := s.mayReturn c core none

/-- Is a saved crew of higher priority ready in a partition: a saved crew is ready at its task's effective priority (R346)? -/
def State.savedAbove (s : State) (part p : Nat) : Bool :=
  s.crews.any (fun c => c.part == part && c.phase == .saved && decide (p < s.taskPrio c) && (List.range 160).any (s.canRestore c))

/-- A saved crew returns to a core (R369, R370). -/
def State.restoreCrew (s : State) (c : Crew) (core : Nat) : State :=
  let a := s.restoreAt c core
  let s1 := (s.dropCrewTlb c.uid).modCrew c.uid (fun x =>
    { x with
      core := core
      slot := (s.freeSlot core).getD 0
      order := s.nextSeq
      obBase := a.1
      accBase := a.2
      phase := .resident
      image := none
      groups := x.groups.map (fun g => g.reenter (s.core core) x.img (s.cyc core)) })
  let s2 := ({ s1 with nextSeq := s1.nextSeq + 1 } : State).repartition core
  let s3 := if c.wbUsed then s2.modCore core (fun k => { k with matrix := k.matrix ++ [⟨c.uid, [], [], .restoreWb, [], [], [], false, none, [], s1.nextSeq, []⟩] }) else s2
  s3.recorded c.uid

/-- Is it a saved crew's turn: no ready crew of higher priority can be placed or restored (R346)? -/
def State.restoreTurn (s : State) (c : Crew) : Bool :=
  !s.savedAbove c.part (s.taskPrio c) && ((s.nextPlaced c.part).map (fun t => decide (t.eff ≤ s.taskPrio c))).getD true

/-- The crew of a core that one flip saves while it restores another, whose image has been read into the shadow halves (R369). -/
def State.exchange (s : State) (c : Crew) (core : Nat) : Option State :=
  (s.onCore core).findSome? (fun o =>
    let s1 := s.flipCrew o
    if s.flipReady o && s1.mayReturn c core (some o.uid) && s1.restoreTurn c then some (s1.restoreCrew c core) else none)

/-- CREW_RESTORE: a saved crew returns to a core that fits it, unless a ready crew of higher priority can be placed or restored; the same flip may save a crew of that core. -/
def execCrewRestore (crew core : Nat) (s : State) : Out :=
  match s.crew? crew with
  | none => .refused (.notEnabled "CREW_RESTORE")
  | some c =>
    if s.canRestore c core && s.restoreTurn c then .next (s.restoreCrew c core)
    else match s.exchange c core with
      | some t => .next t
      | none => .refused (.notEnabled "CREW_RESTORE")

/-! ### Placement beside saved crews (R343, R346) -/

/-- PLACEMENT_DECISION: one crew of the chosen task is placed on one core that fits, unless a saved crew of higher priority can be restored. -/
def execPlacementDecision (part core : Nat) (s : State) : Out :=
  match s.nextPlaced part with
  | none => .refused (.notEnabled "PLACEMENT_DECISION")
  | some t =>
    if !s.draining part && s.taskFits t core && !s.savedAbove part t.eff then .next (s.place t core) else .refused (.notEnabled "PLACEMENT_DECISION")

end Sys2Proof.Machine
end

