-- ==== Sys2Proof/Machine/Translate.lean ====
section
/-!
DEFINITION. The fault-address queue with the driver's verdicts (R361 to R365, R370), flushes (R357) and shootdowns (R358 to R360).
-/

namespace Sys2Proof.Machine

/-! ### Posting records (R361, R362, R365) -/

/-- The 256 bits of a record. -/
def FaqRec.bits (r : FaqRec) : BitVec 256 :=
  (0 : BitVec 32) ++ r.token ++ r.task ++ (0 : BitVec 16) ++ r.grp ++ r.crew ++ r.core ++ (0 : BitVec 11) ++ r.part ++ (0 : BitVec 1) ++ r.loc ++
    (if r.phys then (1 : BitVec 1) else 0) ++ (if r.wait then (1 : BitVec 1) else 0) ++ r.acc ++ r.kind ++ r.addr

/-- Is the ring full? -/
def Dev.faqFull (d : Dev) : Bool := decide (2 ^ d.faqLog.toNat ≤ (d.faqTail - d.faqHead).toNat)

/-- The host address of the next record. -/
def Dev.faqAddr (d : Dev) : Nat := d.faqBase.toNat / 4096 * 4096 + 32 * (d.faqTail.toNat % 2 ^ d.faqLog.toNat)

/-- FAQ_RECORD_POST: the oldest record is posted and its vector raised; in a full ring a record that waits holds its access, and one that does not is dropped. -/
def execFaqRecordPost (s : State) : Out :=
  if !s.dev.faqEn then .refused (.notEnabled "FAQ_RECORD_POST")
  else match s.faq with
    | [] => .refused (.notEnabled "FAQ_RECORD_POST")
    | r :: rest =>
      if !s.dev.faqFull then
        let s1 := s.storeAll (hostKey s.dev.faqAddr) (bytesOf 32 r.1.bits.toNat)
        .next (({ s1 with faq := rest, dev := { s1.dev with faqTail := s1.dev.faqTail + 1 } } : State).vector0 0)
      else match s.faq.find? (fun x => !x.1.wait) with
        | some x => .next { s with
            faq := s.faq.erase x
            dev := { s.dev with faqOvf := true, faqDrop := if s.dev.faqDrop = 0xFFFF then s.dev.faqDrop else s.dev.faqDrop + 1 } }
        | none => if s.dev.faqOvf then .refused (.notEnabled "FAQ_RECORD_POST") else .next { s with dev := { s.dev with faqOvf := true } }

/-! ### Verdicts (R364) -/

/-- TRAPINFO of PAGE for a fetch. -/
def pageInfo (addr : Nat) : Word := faultInfo 0 false addr

/-- The lines of a crew's access leave the translation caches: a resolved access walks the tables afresh (R364, R373). -/
def State.forgetLines (s : State) (uid : Nat) (lines : List Nat) : State :=
  match s.crew? uid with
  | some c => lines.foldl (fun s l => s.forget c.part (256 * l)) s
  | none => s

/-- The lines that a restarted word translates again. -/
def MemWord.restartLines (m : MemWord) : List Nat := ((m.accs.filter (fun a => a.virt && !a.done)).map (·.line)).eraseDups

/-- The verdict on a word's line: it walks the tables afresh, or PAGE is delivered (R240). -/
def State.answerWord (s : State) (g : GRef) (seq token addr : Nat) (ok : Bool) : State :=
  match (s.group? g.crew g.grp).bind (fun x => x.word? seq) with
  | some m =>
    if m.stat ≠ .asked token then s
    else if ok then (s.forgetLines g.crew (addr / 256 :: m.restartLines)).modGroup g.crew g.grp (fun x => x.modWord seq MemWord.restart)
    else s.deliverWord g.crew g.grp seq causePage (m.lineInfo (addr / 256) (((s.crew? g.crew).map (fun c => s.pageLines c m)).getD []))
  | none => s

/-- The crew whose copy or request a verdict concerns. -/
def State.copyCrew (s : State) (core slot len : Nat) : Nat := if slot = 128 then len else ((s.copy? core slot).map (·.crew)).getD 0

/-- The verdict on a line of a copy, or on the shape record of a request (slot 128): a declined line records kind 1 when it is tried again
for the same access, a read or a write (R112). -/
def State.answerCopy (s : State) (core slot off len token addr : Nat) (ok : Bool) : State :=
  if slot = 128 then
    s.modCore core (fun k => { k with reqs := k.reqs.map (fun r => if r.ask = some token ∧ r.crew = len ∧ r.off = off then { r with ask := none, bad := r.bad || !ok } else r) })
  else
    s.modCore core (fun k => { k with copies := k.copies.map (fun c =>
      match if c.slot = slot then c.asked.find? (fun a => a.1 == off && a.2.1 == len && a.2.2.1 == token) else none with
      | some a => { c with asked := c.asked.erase a, bad := if ok then c.bad else c.bad ++ [(addr / 256, a.2.2.2)] }
      | none => c) })

/-- The verdict on a code fetch: it is fetched again, or PAGE is taken at the boundary; the entry is retried after TRET. -/
def State.answerFetch (s : State) (m : Member) (token addr : Nat) (ok : Bool) : State :=
  match (s.ent? m).bind (·.wait) with
  | some (.fetchAsked t) =>
    if t ≠ token then s
    else
      let s1 := s.modEnt m (fun e => { e with wait := some .fetch })
      if ok then s1.forgetLines m.crew [addr / 256] else s1.raise m causePage (pageInfo addr)
  | _ => s

/-- The verdict on a line of a reduction. -/
def State.answerXred (s : State) (token addr : Nat) (ok : Bool) : State :=
  { s with xreds := s.xreds.map (fun x =>
      match x.asked.find? (fun a => a.2.2 == token) with
      | some a => { x with asked := x.asked.erase a, bad := if ok then x.bad else x.bad ++ [(a.1, addr / 256)] }
      | none => x) }

/-- A verdict on the pending record of a token; one that names none is ignored. -/
def State.answer (s : State) (token : BitVec 32) (ok : Bool) : State :=
  match s.asked.find? (fun a => a.1 == token.toNat) with
  | none => s
  | some (t, who, addr) =>
    if s.faq.any (fun r => r.1.wait && r.1.token == token) then s
    else
      let s1 : State := { s with asked := s.asked.filter (fun a => a.1 != t) }
      match who with
      | .word g seq => s1.answerWord g seq t addr ok
      | .copy core slot off len => (if ok then s1.forgetLines (s1.copyCrew core slot len) [addr / 256] else s1).answerCopy core slot off len t addr ok
      | .fetch m => s1.answerFetch m t addr ok
      | .xred u => (if ok then s1.forgetLines u [addr / 256] else s1).answerXred t addr ok

/-- FAQ_RESP_RESOLVED. -/
def execFaqRespResolved (token : BitVec 32) (s : State) : Out := .next (if s.dev.ready then s.answer token true else s)

/-- FAQ_RESP_DECLINED. -/
def execFaqRespDeclined (token : BitVec 32) (s : State) : Out := .next (if s.dev.ready then s.answer token false else s)

/-! ### Flushes (R355, R357) -/

/-- TLB_FLUSH: an entry of a core's first-level TLB or of a cluster's second-level TLB is evicted. -/
def execTlbFlush (second : Bool) (unit idx : Nat) (s : State) : Out :=
  match ((if second then s.tlb2 else s.tlb1).filter (fun e => e.unit == unit))[idx]? with
  | none => .refused (.notEnabled "TLB_FLUSH")
  | some e =>
    let s1 := s.flushEntry e
    .next (if second then { s1 with tlb2 := s1.tlb2.erase e } else { s1 with tlb1 := s1.tlb1.erase e })

/-! ### Shootdowns (R358 to R360) -/

/-- A command of MAP_SDCMD; while one is in progress another is ignored. -/
def State.sdCommand (s : State) (part : BitVec 5) (harvest : Bool) : State :=
  if !s.dev.ready then s
  else if s.dev.sdCmd.isSome then { s with dev := { s.dev with sdErr := true } }
  else { s with dev := { s.dev with sdCmd := some (part, harvest) } }

/-- MAP_SHOOTDOWN. -/
def execMapShootdown (part : BitVec 5) (s : State) : Out := .next (s.sdCommand part false)

/-- MAP_HARVEST. -/
def execMapHarvest (part : BitVec 5) (s : State) : Out := .next (s.sdCommand part true)

/-- Has a copy a line of some pages that was translated and has bytes left to move? -/
def State.copyOpen (s : State) (x : Copy) (inside : Nat → Bool) : Bool :=
  let lines := (x.lines.filter (fun l => inside (256 * l.1.1) && (match l.2 with
    | .ok _ _ => true
    | _ => false))).map (·.1)
  lines != [] && (List.range x.body.total).any (fun i => !x.moved i && (pieceLines [s.copyEnds x.body i]).any (fun l => lines.contains l))

/-- Does a line that was translated from the range, or from a large page that it covers, still have to perform, and is not returned to its issuer under a fault (R358, R359)? -/
def State.linesOpen (s : State) (part addr pages : Nat) : Bool :=
  let spans := s.shootSpans part addr pages
  s.crews.any (fun c => c.part == part && (c.groups.any (fun g => g.mws.any (fun m => !m.atRest && m.accs.any (fun a =>
      a.virt && a.place.isSome && !a.done && inSpans addr pages spans (a.va / 256 * 256) 256))) ||
    s.cores.any (fun k => k.copies.any (fun x => x.crew == c.uid && s.copyOpen x (fun va => inSpans addr pages spans va 256)))))

/-- Code, block descriptors and records that were read from the range, or from a large page that it covers, are read again (R358 to R360). -/
def State.shootCode (s : State) (part addr pages : Nat) (spans : List (Nat × Nat)) : State :=
  let segIn := fun (g : Seg) => match s.image? g.img with
    | some im => im.part == part && (match im.states[g.st]? with
      | some d => inSpans addr pages spans (im.base + im.codeOff + d.seg) (12 * d.nword)
      | none => false)
    | none => false
  let descIn := fun (d : Nat × Nat × Nat × BitVec 64) => match s.image? d.2.1 with
    | some im => im.part == part && inSpans addr pages spans (im.base + im.blockOff + 8 * d.2.2.1) 8
    | none => false
  { s with
    descs := s.descs.filter (fun d => !descIn d)
    cores := s.cores.map (fun k => { k with
      segs := k.segs.map (fun g => if segIn g then { g with stale := true } else g)
      recs := k.recs.filter (fun r => !(r.part == part && inSpans addr pages spans r.va 192)) }) }

/-- The armed lines of a range move with their pages: each stands for the line that its address names now, if any, and does not wake (R121). -/
def State.shootMonitors (s : State) (part addr pages : Nat) (spans : List (Nat × Nat)) : State :=
  { s with crews := s.crews.map (fun c => if c.part = part then
      { c with groups := c.groups.map (fun g => { g with monitors := g.monitors.map (fun m =>
        if inSpans addr pages spans (256 * m.line) 256 then { m with key := s.tableKey c.part (256 * m.line) } else m) }) }
      else c) }

/-- Have A and D that were collected for pages of a range still to reach the tables: their lines wait at the map point (R84, R357)? -/
def State.owesIn (s : State) (part addr pages : Nat) : Bool := s.owed.any (fun e => e.part == part && inRange addr pages e.vbase e.size)

/-- SHOOTDOWN_COMPLETE: the command in progress completes and DONE rises, once what was collected for the range has reached the tables (R357). -/
def execShootdownComplete (s : State) : Out :=
  match s.dev.sdCmd with
  | none => .refused (.notEnabled "SHOOTDOWN_COMPLETE")
  | some (p, harvest) =>
    let part := p.toNat
    let addr := s.dev.sdAddr.toNat / 4096 * 4096
    let pages := s.dev.sdLen.toNat
    let done := fun (s : State) => ({ s with dev := { s.dev with sdCmd := none, sdDone := s.dev.sdDone + 1 } } : State)
    if (s.harvest part addr pages).owesIn part addr pages then .refused (.notEnabled "SHOOTDOWN_COMPLETE")
    else if harvest then .next (done (s.harvest part addr pages))
    else if s.linesOpen part addr pages then .refused (.notEnabled "SHOOTDOWN_COMPLETE")
    else
      let spans := s.shootSpans part addr pages
      .next (done ((((s.shoot part addr pages).shootCode part addr pages spans).shootMonitors part addr pages spans).dropSpans part addr pages))

end Sys2Proof.Machine
end

