-- ==== Sys2Proof/Machine/Keyway.lean ====
section
/-!
DEFINITION. The registers of submission queues, partitions and the Keyway, and the Keyway's commands (R336, R339, R340, R348, R349).
-/

namespace Sys2Proof.Machine

/-- Change the device's registers. -/
def State.modDev (s : State) (f : Dev → Dev) : State := { s with dev := f s.dev }

/-- A field of a written word. -/
def fld (v : Word) (lo n : Nat) : Nat := nbits v.toNat lo n

/-! ### Queues (R340) -/

/-- The existing queue numbers. -/
def queueOk (fn q : Nat) : Bool := decide (fn < 32) && decide (q < 4)

/-- Q_TAIL_WRITE: a tail that would take in more than the ring holds is refused. -/
def State.writeTail (s : State) (fn q : Nat) (v : Word) : State :=
  let x := s.queue fn q
  let t : BitVec 32 := v.setWidth 32
  s.modQueue fn q (fun y => if 2 ^ x.log2n.toNat < (t - x.head).toNat then { y with ovf := true } else { y with tail := t })

/-- Q_CFG: a LOG2N out of range leaves LOG2N as it is. -/
def State.writeQcfg (s : State) (fn q : Nat) (v : Word) : State :=
  let n := fld v 0 5
  s.modQueue fn q (fun x => { x with en := v.getLsbD 8, log2n := if 4 ≤ n ∧ n ≤ 16 then BitVec.ofNat 5 n else x.log2n })

/-- A write of a queue register at an offset of its page. -/
def State.writeQueue (s : State) (fn q off : Nat) (v : Word) : State :=
  if !queueOk fn q then s
  else match off with
  | 0x00 => s.modQueue fn q (fun x => { x with base := v &&& ~~~(0xFFF : Word) })
  | 0x08 => s.writeQcfg fn q v
  | 0x10 => s.modQueue fn q (fun x => { x with region := v })
  | 0x20 => s.writeTail fn q v
  | 0x30 => s.modQueue fn q (fun x =>
      { x with
        skip := x.skip && !v.getLsbD 0
        nskip := if v.getLsbD 0 then 0 else x.nskip
        ovf := x.ovf && !v.getLsbD 1 })
  | _ => s

/-- The value of a queue register. -/
def Queue.read (x : Queue) (off : Nat) : Word :=
  match off with
  | 0x00 => x.base
  | 0x08 => BitVec.ofNat 64 (x.log2n.toNat + (if x.en then 2 ^ 8 else 0))
  | 0x10 => x.region
  | 0x18 => x.head.setWidth 64
  | 0x20 => x.tail.setWidth 64
  | 0x28 => x.done
  | 0x30 => BitVec.ofNat 64 ((if x.skip then 1 else 0) + (if x.ovf then 2 else 0) + x.nskip.toNat * 2 ^ 16 + x.erridx.toNat * 2 ^ 32)
  | _ => 0

/-- Q_TAIL_WRITE. -/
def execQTailWrite (fn q : Nat) (v : Word) (s : State) : Out := .next (if s.dev.ready && queueOk fn q then s.writeTail fn q v else s)

/-- Q_CFG_WRITE. -/
def execQCfgWrite (fn q : Nat) (v : Word) (s : State) : Out := .next (if s.dev.ready && queueOk fn q then s.writeQcfg fn q v else s)

/-! ### Partition roots (R336, R339) -/

/-- Does an RCB serve as the top of a partition? -/
def rootOk (part : Nat) (r : BitVec 1024) : Bool := rcbParent r == 0 && (List.range 4).all (rcbOvr r) && rcbPartition r == part

/-- DEV_PARTROOT: a root that breaks R336 or names another partition is refused. -/
def State.writeRoot (s : State) (part : Nat) (v : Word) : State :=
  if 32 ≤ part then s
  else if v = 0 ∨ ((s.rcb? part v.toNat).map (rootOk part)).getD false then
    s.modDev (fun d => { d with parts := d.parts.modify part (fun p => { p with root := v }) })
  else s.modDev (fun d => { d with kwyErr := true })

/-- DEV_PARTROOT_WRITE. -/
def execDevPartrootWrite (part : Nat) (v : Word) (s : State) : Out := .next (if s.dev.ready then s.writeRoot part v else s)

/-! ### Keyway commands (R348, R349) -/

/-- The keys of the cached copies of the RCB at an address. -/
def State.rcbKeys (s : State) (addr : Nat) : List Nat := (s.rcbs.map (·.1)).filter (fun k => k % 2 ^ 64 == addr)

/-- Does the read of a refresh wait at the map point (R84)? -/
def State.refreshWaits (s : State) (addr : Nat) : Bool := (s.rcbKeys addr).any (fun k => (s.rcbLine (k / 2 ^ 64) addr false).2 == .wait)

/-- The state after the translations of a refresh. -/
def State.refreshRead (s : State) (addr : Nat) : State := (s.rcbKeys addr).foldl (fun s k => (s.rcbLine (k / 2 ^ 64) addr false).1) s

/-- Command 1: the cached copies of the RCB at an address are read again, and the priorities follow (R342). -/
def State.kwyRefresh (s : State) (addr : Nat) : State :=
  let s1 := s.refreshRead addr
  (({ s1 with rcbs := s.rcbs.filterMap (fun r =>
      if r.1 % 2 ^ 64 = addr then
        (s.rcbPlace (r.1 / 2 ^ 64) addr).map (fun k => (r.1, BitVec.ofNat 1024 (s.readNum .device (.mem k) 128)))
      else some r) } : State).rebase).reprio

/-- The partition in which an address names a region: the one whose root tops its path, else one that still runs work of its fault domain. -/
def State.regionPart (s : State) (addr : Nat) : Option Nat :=
  let tops := fun (p : Nat) =>
    let root := ((s.dev.parts[p]?).getD Part.init).root.toNat
    decide (root ≠ 0) && (match s.path? p addr with
      | some l => (l.getLast?.map (·.1)) == some root
      | none => false)
  let runs := fun (p : Nat) =>
    let root := s.killRoot ⟨addr, p, 4, 0⟩
    s.tasks.any (fun t => t.part == p && s.under p t.region root) || s.crews.any (fun c => c.part == p && s.under p c.region root)
  ((List.range 32).find? tops).or ((List.range 32).find? runs)

/-- Command 2: the fault domain that contains the region at an address is killed with cause 4. -/
def State.kwyKill (s : State) (addr : Nat) : State :=
  match s.regionPart addr with
  | some p => s.killDomain ⟨addr, p, 4, 0⟩
  | none => s

/-- A command is refused. -/
def State.kwyRefuse (s : State) : State := s.modDev (fun d => { d with kwyErr := true })

/-- Set or clear DRAIN of a partition. -/
def State.setDrain (s : State) (part : Nat) (b : Bool) : State :=
  s.modDev (fun d => { d with parts := d.parts.modify part (fun p => { p with drain := b }) })

/-- Command 3: the partition drains, and every crew that can be is pre-empted, in R346's order. -/
def State.kwyDrain (s : State) (p : Nat) : State :=
  if s.draining p then s.kwyRefuse
  else
    let crews := s.saveOrder (s.crews.filter (fun c => c.part == p && c.phase == .resident))
    crews.foldl (fun s c => if s.canPreempt c then s.preemptCrew c else s) (s.setDrain p true)

/-- Command 4: the drain ends, and the ready tasks are judged (R344). -/
def State.kwyEndDrain (s : State) (p : Nat) : State :=
  if !s.draining p then s.kwyRefuse
  else
    let s1 := s.setDrain p false
    (s1.tasks.filter (fun t => t.part == p && t.ready)).foldl (fun s t => s.judge t) s1

/-- Must a command stay in progress: a region record that it reads or writes waits at the map point? -/
def State.kwyWaits (s : State) (op addr : Nat) : Bool :=
  match op with
  | 1 => s.refreshWaits addr
  | 2 => (s.regionPart addr).any (fun p => s.killWaits ⟨addr, p, 4, 0⟩)
  | _ => false

/-- A command takes effect; its ARG is a record's address, or a partition in bits 4:0. -/
def State.kwyRun (s : State) (op : Nat) (arg : Word) : State :=
  match op with
  | 1 => s.kwyRefresh arg.toNat
  | 2 => s.kwyKill arg.toNat
  | 3 => s.kwyDrain (arg.toNat % 32)
  | 4 => s.kwyEndDrain (arg.toNat % 32)
  | _ => s

/-- A command that is in progress ends, or stays in progress. -/
def State.kwyStart (s : State) (op : Nat) (arg : Word) : State :=
  if s.kwyWaits op arg.toNat then s.modDev (fun d => { d with kwyBusy := some (BitVec.ofNat 4 op, arg) })
  else (s.modDev (fun d => { d with kwyBusy := none })).kwyRun op arg

/-- A Keyway command: the one in progress ends; with another in progress it is refused; else it is issued and takes effect. -/
def State.kwyCommand (s : State) (op : Nat) : State :=
  match s.dev.kwyBusy with
  | some (o, arg) => if o.toNat = op then s.kwyStart op arg else s.kwyRefuse
  | none => s.kwyStart op s.dev.kwyArg

/-- A write of KWY_CMD: how long a command is in progress is free (DESIGN CHOICE, assumption 38). -/
def State.kwyWrite (s : State) (op : Nat) : State :=
  if op = 0 ∨ 4 < op then s
  else if s.dev.kwyBusy.isSome then s.kwyRefuse
  else if (s.freeWord 0).getLsbD 0 then s.nextFree.modDev (fun d => { d with kwyBusy := some (BitVec.ofNat 4 op, d.kwyArg) })
  else s.nextFree.kwyStart op s.dev.kwyArg

/-- Has a partition no crew on any core? -/
def State.emptyPart (s : State) (part : Nat) : Bool := s.crews.all (fun c => c.part != part || c.phase != .resident)

/-- KWY_REFRESH. -/
def execKwyRefresh (s : State) : Out := .next (if s.dev.ready then s.kwyCommand 1 else s)
/-- KWY_KILL. -/
def execKwyKill (s : State) : Out := .next (if s.dev.ready then s.kwyCommand 2 else s)
/-- KWY_DRAIN. -/
def execKwyDrain (s : State) : Out := .next (if s.dev.ready then s.kwyCommand 3 else s)
/-- KWY_END_DRAIN. -/
def execKwyEndDrain (s : State) : Out := .next (if s.dev.ready then s.kwyCommand 4 else s)

end Sys2Proof.Machine
end

