-- ==== Sys2Proof/Machine/Links.lean ====
section
/-!
DEFINITION. Hinge links and lost modules (R372, R393 to R395, R400).
-/

namespace Sys2Proof.Machine

/-! ### A lost module (R372) -/

/-- The outstanding words, each with its crew and group. -/
def State.allWords (s : State) : List (Nat × Nat × MemWord) :=
  s.crews.flatMap (fun c => (c.groups.mapIdx (fun i g => g.mws.map (fun m => (c.uid, i, m)))).flatten)

/-- The outstanding words on a module complete with REMOTELOST, each with a record. A word that waits at its log entry finds the loss when it is replayed, and one for which the log
has no entry left translates its lines again and finds it then (R240). -/
def State.loseWords (s : State) (mod : Nat) : State :=
  s.allWords.foldl (fun s x =>
    match s.crew? x.1 with
    | none => s
    | some c =>
      if x.2.2.atRest then s
      else match (x.2.2.accs.filter (fun a => !a.done && a.module? == some mod)).map (·.line) with
        | [] => s
        | l :: ls =>
        if ((s.group? x.1 x.2.1).map (fun g => g.logBars x.2.2)).getD false then s.modGroup x.1 x.2.1 (fun g => g.modWord x.2.2.seq MemWord.again)
        else s.lostFault c x.2.1 x.2.2 (ls.foldl min l) mod) s

/-- Armed lines of a lost module set their groups' latches, and MWAIT reports LINE. -/
def State.loseMonitors (s : State) (mod : Nat) : State :=
  { s with crews := s.crews.map (fun c => { c with groups := c.groups.map (fun g =>
      match (g.monitors.filter (fun m => (m.key.bind remoteMod) == some mod)).map (·.slot) with
      | [] => g
      | n :: ns =>
        let old := g.latch.getD ⟨none, none, false⟩
        let slot := ns.foldl min n
        { g with latch := some { old with line := some (match old.line with
            | some x => min x slot
            | none => slot) } }) }) }

/-- The lines of copies that were translated to a lost module fail with kind 4 when they are tried (R112, R372). -/
def State.loseCopies (s : State) (mod : Nat) : State :=
  { s with cores := s.cores.map (fun k => { k with copies := k.copies.map (fun x => { x with lines := x.lines.map (fun l =>
      match l.2 with
      | .ok (.remote m) _ => if m.toNat = mod then (l.1, .err 4) else l
      | _ => l) }) }) }

/-- A module is lost. -/
def State.loseModule (s : State) (m : Nat) : State := ((((((s.markLost m).dropModule m).loseWords m).loseCopies m).loseMonitors m).failLost m).settleFences

/-! ### Ports (R394, R395, R400) -/

/-- A port of the device. -/
def State.port (s : State) (p : Nat) : Port := (s.dev.ports[p]?).getD default

/-- Change a port. -/
def State.modPort (s : State) (p : Nat) (f : Port → Port) : State := s.modDev (fun d => { d with ports := d.ports.modify p f })

/-- The modules that a port served and that no other port of their route mask serves now. -/
def State.cutOff (s : State) (p : Nat) : List Nat :=
  (List.range 256).filter (fun m => ((s.dev.route[m]?).getD 0).getLsbD p && !s.dev.lost.getLsbD m && s.outOfReach m)

/-- A write of LNK_ROUTE: a module that no port serves any more is lost at once. -/
def State.writeRoute (s : State) (m : Nat) (ports : BitVec 18) : State :=
  let s1 := s.modDev (fun d => { d with route := d.route.set m ports })
  if !s.outOfReach m && s1.outOfReach m then s1.loseModule m else s1

/-- A port goes down; its modules without another port are lost. -/
def State.portDown (s : State) (p : Nat) : State :=
  let s1 := (s.modPort p (fun x => { x with up := false })).vector0 3
  (s1.cutOff p).foldl (fun s m => s.loseModule m) s1

/-- A port has trained with a peer. -/
def State.portUp (s : State) (p : Nat) (peer : BitVec 8) : State := (s.modPort p (fun x => { x with up := true, peer := peer })).vector0 3

/-- PORT_UP. -/
def execPortUp (port : Nat) (peer : BitVec 8) (s : State) : Out :=
  if port < 18 ∧ !(s.port port).up then .next (s.portUp port peer) else .refused (.notEnabled "PORT_UP")

/-- PORT_DOWN. -/
def execPortDown (port : Nat) (s : State) : Out :=
  if port < 18 ∧ (s.port port).up then .next (s.portDown port) else .refused (.notEnabled "PORT_DOWN")

/-- PEER_RESET: the peer of a port reports a reset. -/
def execPeerReset (module_ : BitVec 8) (s : State) : Out :=
  if s.dev.ports.any (fun p => p.up && p.peer == module_) then .next (s.loseModule module_.toNat) else .refused (.notEnabled "PEER_RESET")

/-- FLIT_RETRY: a flit whose CRC failed is replayed. -/
def execFlitRetry (port : Nat) (s : State) : Out :=
  if port < 18 ∧ (s.port port).up then .next (s.modPort port (fun x => { x with retry := x.retry + 1 })) else .refused (.notEnabled "FLIT_RETRY")

/-- FLIT_RETRY_LIMIT: one flit has been retried 64 times without success. The error is logged under a lane that the spec leaves open, and the peer is lost. -/
def execFlitRetryLimit (port : Nat) (s : State) : Out :=
  if port < 18 ∧ (s.port port).up ∧ 64 ≤ (s.port port).retry.toNat then
    let lane := (s.freeWord 0).setWidth 28
    .next (((s.nextFree).logError ⟨4, true, BitVec.ofNat 8 port, lane⟩).loseModule (s.port port).peer.toNat)
  else .refused (.notEnabled "FLIT_RETRY_LIMIT")

end Sys2Proof.Machine
end

