-- ==== Sys2Proof/Machine/Fleet.lean ====
section
/-!
DEFINITION. Errors, self-tests, spare rows, monitors and power (R401 to R409).
-/

namespace Sys2Proof.Machine

/-! ### Errors (R401) -/

/-- The key of the line that an error of a memory unit names, none where no line lies there. -/
def State.errKey (s : State) (e : ErrAt) : Option Nat :=
  match e.unit.toNat with
  | 0 | 1 => (s.lineOf e.place.toNat e.loc.toNat).map tier1Key
  | 2 => if e.place.toNat < 16 then some (tier2Key ((e.place.toNat * 2 ^ 28 + e.loc.toNat) * 256)) else none
  | _ => none

/-- An uncorrectable line that no access reads: it is marked, logged and posted. -/
def State.lineError (s : State) (e : ErrAt) (k : Nat) : State :=
  let s1 := (s.poisonLine k).logError e
  { s1 with faq := s1.faq ++ [(lineRec k, none)] }

/-- Is the place of an access in the line of a key? -/
def inLine (p : Option Place) (k : Nat) : Bool :=
  match p with
  | some (.mem x) => x % 8 == k % 8 && x / 2048 == k / 2048
  | _ => false

/-- An uncorrectable error in a line of memory, with the access that reads it. -/
def State.lineErrorBy (s : State) (e : ErrAt) (k : Nat) (who : ErrWho) : Option State :=
  match who with
  | .nobody => some (s.lineError e k)
  | .tumbler => if s.dev.sweep.isSome && k % 8 == 0 then some (s.lineError e k) else none
  | .laneRead g seq lane =>
    (match s.actor g seq lane with
     | some (_, _, m, a) =>
       if m.op.readsData && inLine a.place k then
         (match execPerform g seq lane (s.poisonLine k) with
          | .next t => some t
          | _ => none)
       else none
     | none => none)
  | .copyLine core slot off len =>
    let s1 := s.poisonLine k
    if s1.badOfPiece core slot off len = [] then none
    else (match execCopyLineArrive core slot off len s1 with
      | .next t => some t
      | _ => none)
  | .walk r useCache =>
    let s1 := s.poisonLine k
    (match s1.walkOf r with
     | some (q, va) =>
       if (s1.walkReads q.part (dieOf q.core) va useCache).any (fun x => inLine (some (.mem x)) k) then
         (match execPageWalk r useCache false s1 with
          | .next t => if (t.faq.drop s.faq.length).any (fun e => e.1.kind == 0x13 && e.1.acc == 6) then some t else none
          | _ => none)
       else none
     | none => none)
  | .crew _ => none

/-- An uncorrectable SRAM word or datapath check: the fault domain that owns the crew of that core is to be killed with cause 5. -/
def State.crewError (s : State) (e : ErrAt) (who : ErrWho) : Option State :=
  match who with
  | .nobody => some (s.logError e)
  | .crew uid =>
    (match s.crew? uid with
     | some c => if c.phase = .resident ∧ c.core = e.place.toNat then some ((s.logError e).fatal uid 5) else none
     | none => none)
  | _ => none

/-- ERROR_DETECT: an error is reported along the paths that R401 marks for it. A link flit's error comes with FLIT_RETRY_LIMIT. -/
def execErrorDetect (unit : BitVec 4) (unc : Bool) (place : BitVec 8) (loc : BitVec 28) (who : ErrWho) (s : State) : Out :=
  let e : ErrAt := ⟨unit, unc, place, loc⟩
  if 5 < unit.toNat then .refused (.notEnabled "ERROR_DETECT")
  else if !unc then (if who = .nobody then .next (s.logError e) else .refused (.notEnabled "ERROR_DETECT"))
  else match unit.toNat with
    | 3 | 5 => endEvent "ERROR_DETECT" (s.crewError e who)
    | 4 => .refused (.notEnabled "ERROR_DETECT")
    | _ =>
      (match s.errKey e with
       | some k => endEvent "ERROR_DETECT" (s.lineErrorBy e k who)
       | none => .refused (.notEnabled "ERROR_DETECT"))

/-! ### Self-tests (R403 to R405) -/

/-- Add one, up to the largest value. -/
def satInc {n : Nat} (x : BitVec n) : BitVec n := if x = BitVec.allOnes n then x else x + 1

/-- A row of a stack has a lasting verdict: LROW and, for an uncorrectable one, UNC count it once each (R405). -/
def Stack.addRow (x : Stack) (row : Nat) (unc : Bool) : Stack :=
  let x1 := if x.rows.contains row then x else { x with rows := x.rows ++ [row], lrow := satInc x.lrow }
  if !unc || x1.uncRows.contains row then x1 else { x1 with uncRows := x1.uncRows ++ [row], unc := satInc x1.unc }

/-- A lasting verdict takes effect (R404, R405). -/
def State.lasting (s : State) (e : ErrE) : State :=
  let k := e.place.toNat
  let s1 := match e.unit.toNat with
    | 0 | 1 =>
      let s1 := s.modStack k (fun x => x.addRow (Config.rowOf e.loc.toNat) e.sev)
      let s2 : State := { s1 with flash := { s1.flash with unc := s1.flash.unc.set k (s1.stack k).uncRows } }
      if k < 12 then s2.recommend k else s2
    | 3 => s.modCore k (fun c => { c with needRow := c.needRow + 1 })
    | 4 => if k < 18 ∧ (s.port k).up then s.portDown k else s
    | _ => s
  s1.vector0 4

/-- Does a test wait: a row of a frozen stack (R409)? -/
def State.testWaits (s : State) (e : ErrE) : Bool := decide (e.unit.toNat ≤ 1) && (s.stack e.place.toNat).state == 1

/-- SELF_TEST_COMPLETE: the verdict is written into the entry, if it is still there, and a lasting one takes effect. -/
def execSelfTestComplete (entry : Nat) (pass : Bool) (s : State) : Out :=
  match s.dev.tests[entry]? with
  | none => .refused (.notEnabled "SELF_TEST_COMPLETE")
  | some t =>
    if s.testWaits t.err then .refused (.notEnabled "SELF_TEST_COMPLETE")
    else
      let s1 := s.modDev (fun d => { d with
        tests := d.tests.eraseIdx entry
        elog := match t.slot with
          | some i => d.elog.modify i (fun x => { x with verdict := if pass then 1 else 2 })
          | none => d.elog })
      .next (if pass then s1 else s1.lasting t.err).settleOwed

/-- SPARE_ROW_MAP: a core that needs a spare row maps one in as soon as it holds no crew (R404). -/
def execSpareRowMap (core : Nat) (s : State) : Out :=
  let k := s.core core
  if core < 160 ∧ 0 < k.needRow ∧ 0 < k.spare ∧ s.onCore core = [] then
    .next (s.modCore core (fun k => { k with needRow := k.needRow - 1, spare := k.spare - 1 }))
  else .refused (.notEnabled "SPARE_ROW_MAP")

/-! ### Monitors (R407) -/

def monSrc (c : Word) : Nat := nbits c.toNat 0 4
def monMode (c : Word) : Nat := nbits c.toNat 4 2
def monIndex (c : Word) : Nat := nbits c.toNat 8 8
def monPeriod (c : Word) : Nat := nbits c.toNat 16 24

/-- The indices of a source. -/
def monRange (src : Nat) : Nat :=
  match src with
  | 0 | 5 => 2
  | 1 | 3 => 12
  | 4 => 18
  | _ => 1

/-- Is a control word one that runs: a source that exists, an index in range, a mode other than off, and a period? -/
def monRuns (c : Word) : Bool := decide (monSrc c ≤ 6) && decide (monIndex c < monRange (monSrc c)) && monMode c != 0 && monPeriod c != 0

/-- A write of MON_CTL arms the unit afresh; a period of 0 keeps the old one (R6). SRC and INDEX read back as written even where the unit stays off (DESIGN CHOICE,
assumption 61). -/
def MonU.arm (u : MonU) (v : Word) (clock : Nat) : MonU :=
  let p := if monPeriod v = 0 then monPeriod u.ctl else monPeriod v
  let c : Word := BitVec.ofNat 64 (nbits v.toNat 0 6 + monIndex v * 2 ^ 8 + p * 2 ^ 16)
  { u with ctl := c, value := 0, samples := 0, hist := List.replicate 16 0, next := clock + 1000 * p, on := monRuns c, errs := 0 }

/-- The bin of a sample. -/
def MonU.bin (u : MonU) (v : BitVec 32) : Nat :=
  let d := v.toInt - u.low.toInt
  let w : Int := u.width.toNat
  if d < 0 then 0 else if 14 * w ≤ d then 15 else 1 + (d / w).toNat

/-- A sample is taken. -/
def MonU.sample (u : MonU) (v : BitVec 32) : MonU :=
  let first := u.samples == 0
  let val := match monMode u.ctl with
    | 1 => if first || v.slt u.value then v else u.value
    | 2 => if first || u.value.slt v then v else u.value
    | _ => u.value
  let h := if monMode u.ctl = 3 then u.hist.modify (u.bin v) satInc else u.hist
  { u with value := val, hist := h, samples := satInc u.samples, next := u.next + 1000 * monPeriod u.ctl, errs := 0 }

/-- What a sample of a temperature or of the power shows in the telemetry as well. -/
def State.telemetry (s : State) (c : Word) (v : BitVec 32) : State :=
  match monSrc c with
  | 0 => s.modDev (fun d => { d with statT := d.statT.set (monIndex c) (v.setWidth 8) })
  | 1 => s.stackTemp (monIndex c) (v.setWidth 8)
  | 2 => s.modDev (fun d => { d with statP := v.setWidth 16 })
  | _ => s

/-- The sampled value: the granted clock is the one that MON_STAT shows, and corrected errors are those since the last sample (R407). -/
def State.sampled (s : State) (u : MonU) (v : BitVec 32) : BitVec 32 :=
  match monSrc u.ctl with
  | 5 => ((s.dev.statC[monIndex u.ctl]?).getD 0).setWidth 32
  | 6 => BitVec.ofNat 32 u.errs
  | _ => v

/-- MONITOR_SAMPLE: a unit whose period has elapsed takes a sample. -/
def execMonitorSample (unit : Nat) (v : BitVec 32) (s : State) : Out :=
  match s.dev.mons[unit]? with
  | none => .refused (.notEnabled "MONITOR_SAMPLE")
  | some u =>
    if u.on ∧ u.next ≤ s.clock.toNat then
      .next ((s.telemetry u.ctl v).modDev (fun d => { d with mons := d.mons.set unit (u.sample (s.sampled u v)) }))
    else .refused (.notEnabled "MONITOR_SAMPLE")

/-- A write of MON_CTL. -/
def State.writeMonCtl (s : State) (unit : Nat) (v : Word) : State :=
  s.modDev (fun d => { d with mons := d.mons.modify unit (fun u => u.arm v s.clock.toNat) })

/-- MON_CTL_WRITE. -/
def execMonCtlWrite (unit : Nat) (v : Word) (s : State) : Out := .next (if s.dev.ready && decide (unit < 16) then s.writeMonCtl unit v else s)

/-! ### Power management (R408) -/

/-- The granted clock of a die in MHz. -/
def State.clockOf (s : State) (die : Nat) : Nat := ((s.dev.statC[die]?).getD 0).toNat

/-- The clock of a die is stepped, and the telemetry shows what called for it. -/
def State.setClock (s : State) (die mhz : Nat) (temp : BitVec 8) (power : BitVec 16) : State :=
  s.modDev (fun d => { d with statC := d.statC.set die (BitVec.ofNat 12 mhz), statT := d.statT.set die temp, statP := power })

/-- CLOCK_STEP_DOWN: above 100 °C or 2,800 W. -/
def execClockStepDown (die : Nat) (temp : BitVec 8) (power : BitVec 16) (s : State) : Out :=
  if die < 2 ∧ (100 < temp.toNat ∨ 2800 < power.toNat) ∧ 50 ≤ s.clockOf die then .next (s.setClock die (s.clockOf die - 50) temp power)
  else .refused (.notEnabled "CLOCK_STEP_DOWN")

/-- CLOCK_STEP_UP: below 95 °C and 2,700 W, up to 1,800 MHz. -/
def execClockStepUp (die : Nat) (temp : BitVec 8) (power : BitVec 16) (s : State) : Out :=
  if die < 2 ∧ temp.toNat < 95 ∧ power.toNat < 2700 ∧ s.clockOf die < 1800 then .next (s.setClock die (min 1800 (s.clockOf die + 50)) temp power)
  else .refused (.notEnabled "CLOCK_STEP_UP")

/-- THERMAL_SHUTDOWN: at 115 °C module power goes; vector 4 is owed to the next boot. -/
def execThermalShutdown (temp : BitVec 8) (s : State) : Out :=
  if 115 ≤ temp.toNat then .next { s with dev := { s.dev with power := false }, flash := { s.flash with thermal := true } }
  else .refused (.notEnabled "THERMAL_SHUTDOWN")

/-- Does a power block exist? -/
def blockValid (b : PowerBlock) : Bool :=
  match b with
  | .cluster n => decide (n < 20)
  | .stack n => decide (n < 12)
  | .port n => decide (n < 18)

/-- Is a power block idle: a cluster that holds no crew? -/
def State.blockIdle (s : State) (b : PowerBlock) : Bool :=
  match b with
  | .cluster n => s.crews.all (fun c => clusterOf c.core != n || c.phase != .resident)
  | _ => true

/-- POWER_GATE: an idle block gates its clocks; nothing but latency shows it. -/
def execPowerGate (b : PowerBlock) (s : State) : Out :=
  if blockValid b && !s.dev.gated.contains b && s.blockIdle b then .next (s.modDev (fun d => { d with gated := d.gated ++ [b] }))
  else .refused (.notEnabled "POWER_GATE")

/-- POWER_WAKE: the block wakes. -/
def execPowerWake (b : PowerBlock) (s : State) : Out :=
  if s.dev.gated.contains b then .next (s.modDev (fun d => { d with gated := d.gated.erase b }))
  else .refused (.notEnabled "POWER_WAKE")

end Sys2Proof.Machine
end

