-- ==== Sys2Proof/Machine/Host.lean ====
section
/-!
DEFINITION. The registers of BAR0 (R6, R7, R388 to R399), the mailbox, attestation and function-level reset (R391, R392, R398, R399).

Every register has one operation for its writes, which the events of the opcode table that name it share.
-/

namespace Sys2Proof.Machine

/-! ### Sizes of blocks -/

/-- The partition record of a number. -/
def State.partReg (s : State) (p : Nat) : Part := (s.dev.parts[p]?).getD Part.init

/-- Change a partition's record. -/
def State.modPart (s : State) (p : Nat) (f : Part → Part) : State := s.modDev (fun d => { d with parts := d.parts.modify p f })

/-- Bits of a word as a number in place. -/
def boolN (b : Bool) (n : Nat) : Nat := if b then 2 ^ n else 0

/-- A 64-bit word of a wide register. -/
def wordOf {n : Nat} (x : BitVec n) (i : Nat) : Word := BitVec.ofNat 64 (nbits x.toNat (64 * i) 64)

/-! ### DEV_ (R339, R351, R392, R397) -/

/-- Eight bytes of the partition map. -/
def State.readMap (s : State) (j : Nat) : Word := BitVec.ofNat 64 (ofBytes ((List.range 8).map (fun i => (s.dev.partmap[8 * j + i]?).getD 0)))

/-- A write of eight bytes of the partition map: PART and OFF of each. -/
def State.writeMap (s : State) (j : Nat) (v : Word) : State :=
  s.modDev (fun d => { d with partmap := d.partmap.mapIdx (fun c b => if c / 8 = j then v.extractLsb' (8 * (c % 8)) 8 &&& 0x9F else b) })

/-- DEV_PTROOT: LOC 3 is out of range and keeps the old LOC. -/
def ptrootOf (old v : Word) : Word :=
  let loc := if nbits v.toNat 52 2 = 3 then nbits old.toNat 52 2 else nbits v.toNat 52 2
  BitVec.ofNat 64 (nbits v.toNat 0 1 + nbits v.toNat 12 40 * 2 ^ 12 + loc * 2 ^ 52)

/-- DEV_SAVEBASE: LOC 2 and 3 are out of range. -/
def savebaseOf (old v : Word) : Word :=
  let loc := if 2 ≤ nbits v.toNat 52 2 then nbits old.toNat 52 2 else nbits v.toNat 52 2
  BitVec.ofNat 64 (nbits v.toNat 12 40 * 2 ^ 12 + loc * 2 ^ 52)

/-- A mailbox command is taken up unless one is in progress; other values of OP are ignored. -/
def State.mboxCommand (s : State) (op arg : Nat) : State :=
  if s.dev.mboxBusy.isSome ∨ op = 0 ∨ 3 < op then s
  else s.modDev (fun d => { d with mboxBusy := some (BitVec.ofNat 4 op, BitVec.ofNat 16 arg) })

/-- DEV_STATUS. -/
def Dev.status (d : Dev) : Word := BitVec.ofNat 64 (boolN d.ready 0 + boolN d.halt 1 + d.stage.toNat * 2 ^ 8 + d.cause.toNat * 2 ^ 16)

/-- A read in the DEV_ block. -/
def State.readDev (s : State) (off : Nat) : Word :=
  if off = 0x008 ∨ off = 0x010 ∨ off = 0x018 then wordOf s.dev.coreen (off / 8 - 1)
  else if 0x100 ≤ off ∧ off < 0x1A0 then s.readMap ((off - 0x100) / 8)
  else if 0x200 ≤ off ∧ off < 0x300 then (s.partReg ((off - 0x200) / 8)).root
  else if 0x300 ≤ off ∧ off < 0x400 then (s.partReg ((off - 0x300) / 8)).ptroot
  else if 0x400 ≤ off ∧ off < 0x500 then (s.partReg ((off - 0x400) / 8)).savebase
  else if 0x500 ≤ off ∧ off < 0x600 then (s.partReg ((off - 0x500) / 8)).savesize
  else if off = 0x608 then s.dev.mboxData
  else if off = 0x610 then BitVec.ofNat 64 (boolN s.dev.mboxBusy.isSome 0 + boolN s.dev.mboxErr 1)
  else 0

/-- A write in the DEV_ block. -/
def State.writeDev (s : State) (off : Nat) (v : Word) : State :=
  if 0x100 ≤ off ∧ off < 0x1A0 then s.writeMap ((off - 0x100) / 8) v
  else if 0x200 ≤ off ∧ off < 0x300 then s.writeRoot ((off - 0x200) / 8) v
  else if 0x300 ≤ off ∧ off < 0x400 then s.modPart ((off - 0x300) / 8) (fun p => { p with ptroot := ptrootOf p.ptroot v })
  else if 0x400 ≤ off ∧ off < 0x500 then s.modPart ((off - 0x400) / 8) (fun p => { p with savebase := savebaseOf p.savebase v })
  else if 0x500 ≤ off ∧ off < 0x600 then s.modPart ((off - 0x500) / 8) (fun p => { p with savesize := BitVec.ofNat 64 (fld v 12 28 * 2 ^ 12) })
  else if off = 0x600 then s.mboxCommand (fld v 0 4) (fld v 16 16)
  else if off = 0x608 then s.modDev (fun d => { d with mboxData := v })
  else if off = 0x610 then s.modDev (fun d => { d with mboxErr := d.mboxErr && !v.getLsbD 1 })
  else s

/-! ### MAP_, TMB_ and CAP_LIVE (R358, R377) -/

/-- MAP_LIVE_TABLE: entries beyond the table read 0xF. -/
def Dev.liveTable (d : Dev) : Nat := ((List.range 12).map (fun j => (d.table_[j]?).getD 15 * 16 ^ j)).foldl (· + ·) 0

/-- Granules that a sweep has not yet moved. -/
def Dev.remain (d : Dev) : Nat := (d.sweep.map (·.next)).getD 0

/-- A read in the MAP_ block. -/
def State.readMapBlk (s : State) (off : Nat) : Word :=
  let d := s.dev
  if 0x100 ≤ off ∧ off < 0x160 then
    let x := s.stack ((off - 0x100) / 8)
    BitVec.ofNat 64 (x.state.toNat + x.temp.toNat * 2 ^ 8)
  else match off with
  | 0x000 => d.phase.setWidth 64
  | 0x008 => d.watermark.setWidth 64
  | 0x010 => BitVec.ofNat 64 d.table_.length
  | 0x018 => BitVec.ofNat 64 d.liveTable
  | 0x020 => BitVec.ofNat 64 (d.capLive.toNat * 2 ^ 20)
  | 0x200 => d.sdAddr
  | 0x208 => d.sdLen.setWidth 64
  | 0x218 => BitVec.ofNat 64 (boolN d.sdCmd.isSome 0 + boolN d.sdErr 1 + d.sdDone.toNat * 2 ^ 32)
  | 0x308 => BitVec.ofNat 64 (boolN d.sweep.isSome 0 + boolN d.tmbErr 1 + boolN s.sweepPaused 2 + d.remain * 2 ^ 32)
  | _ => 0

/-- What an event's answer leaves. -/
def Out.state (o : Out) (s : State) : State :=
  match o with
  | .next t => t
  | _ => s

/-- A write in the MAP_ block. -/
def State.writeMapBlk (s : State) (off : Nat) (v : Word) : State :=
  match off with
  | 0x020 => (execCapLiveWrite v s).state s
  | 0x200 => let a := fld v 12 52 * 2 ^ 12; s.modDev (fun d => { d with sdAddr := if canonical a then BitVec.ofNat 64 a else d.sdAddr })
  | 0x208 => s.modDev (fun d => { d with sdLen := v.setWidth 32 })
  | 0x210 =>
    (match fld v 8 2 with
     | 1 => s.sdCommand (v.setWidth 5) false
     | 2 => s.sdCommand (v.setWidth 5) true
     | _ => s)
  | 0x218 => s.modDev (fun d => { d with sdErr := d.sdErr && !v.getLsbD 1 })
  | 0x300 => if fld v 0 4 = 1 then (execTmbRetire (v.extractLsb' 8 4) s).state s else s
  | 0x308 => s.modDev (fun d => { d with tmbErr := d.tmbErr && !v.getLsbD 1 })
  | _ => s

/-! ### FAQ_ and KWY_ (R348, R361) -/

/-- A read in the FAQ_ block. -/
def State.readFaq (s : State) (off : Nat) : Word :=
  match off with
  | 0x00 => s.dev.faqBase
  | 0x08 => BitVec.ofNat 64 (s.dev.faqLog.toNat + boolN s.dev.faqEn 8)
  | 0x10 => s.dev.faqHead.setWidth 64
  | 0x18 => s.dev.faqTail.setWidth 64
  | 0x20 => BitVec.ofNat 64 (boolN s.dev.faqOvf 0 + s.dev.faqDrop.toNat * 2 ^ 16)
  | _ => 0

/-- A write in the FAQ_ block. -/
def State.writeFaq (s : State) (off : Nat) (v : Word) : State :=
  match off with
  | 0x00 => s.modDev (fun d => { d with faqBase := BitVec.ofNat 64 (fld v 12 52 * 2 ^ 12) })
  | 0x08 => s.modDev (fun d => { d with faqEn := v.getLsbD 8, faqLog := if 6 ≤ fld v 0 5 ∧ fld v 0 5 ≤ 16 then BitVec.ofNat 5 (fld v 0 5) else d.faqLog })
  | 0x10 => s.modDev (fun d => { d with faqHead := v.setWidth 32 })
  | 0x20 => if v.getLsbD 0 then s.modDev (fun d => { d with faqOvf := false, faqDrop := 0 }) else s
  | 0x28 =>
    (match fld v 32 2 with
     | 1 => s.answer (v.setWidth 32) true
     | 2 => s.answer (v.setWidth 32) false
     | _ => s)
  | _ => s

/-- A read in the KWY_ block. -/
def State.readKwy (s : State) (off : Nat) : Word :=
  if 0x100 ≤ off ∧ off < 0x200 then BitVec.ofNat 64 (s.inflight ((off - 0x100) / 8))
  else if 0x200 ≤ off ∧ off < 0x300 then
    let p := (off - 0x200) / 8
    BitVec.ofNat 64 (boolN (s.draining p) 0 + boolN (s.draining p && s.emptyPart p) 1)
  else match off with
  | 0x00 => s.dev.kwyArg
  | 0x10 => BitVec.ofNat 64 (boolN s.dev.kwyBusy.isSome 0 + boolN s.dev.kwyErr 1 + s.dev.killCnt.toNat * 2 ^ 16)
  | _ => 0

/-- A write in the KWY_ block. -/
def State.writeKwy (s : State) (off : Nat) (v : Word) : State :=
  match off with
  | 0x00 => s.modDev (fun d => { d with kwyArg := v })
  | 0x08 => s.kwyWrite (fld v 0 4)
  | 0x10 => s.modDev (fun d => { d with kwyErr := d.kwyErr && !v.getLsbD 1 })
  | _ => s

/-! ### LNK_ (R394) -/

/-- A read in the LNK_ block. -/
def State.readLnk (s : State) (off : Nat) : Word :=
  if off = 0 then s.dev.self.setWidth 64
  else if 0x20 ≤ off ∧ off < 0x40 then wordOf s.dev.lost ((off - 0x20) / 8)
  else if 0x100 ≤ off ∧ off < 0x190 then
    let p := s.port ((off - 0x100) / 8)
    BitVec.ofNat 64 (boolN p.up 0 + p.peer.toNat * 2 ^ 8 + p.retry.toNat * 2 ^ 16)
  else if 0x800 ≤ off ∧ off < 0x1000 then ((s.dev.route[(off - 0x800) / 8]?).getD 0).setWidth 64
  else 0

/-- A write in the LNK_ block: LNK_SELF only while every port is down. -/
def State.writeLnk (s : State) (off : Nat) (v : Word) : State :=
  if off = 0 then (if s.dev.ports.any (·.up) then s else s.modDev (fun d => { d with self := v.setWidth 8 }))
  else if 0x20 ≤ off ∧ off < 0x40 then s.clearLost (((List.range 64).filter (fun i => v.getLsbD i)).map (fun i => 64 * ((off - 0x20) / 8) + i))
  else if 0x800 ≤ off ∧ off < 0x1000 then s.writeRoute ((off - 0x800) / 8) (v.setWidth 18)
  else s

/-! ### MON_ (R96, R402, R405, R407, R408) -/

/-- An entry of the error log as 128 bits. -/
def ErrE.bits (e : ErrE) : Nat :=
  e.time.toNat + e.unit.toNat * 2 ^ 64 + boolN e.sev 68 + e.verdict.toNat * 2 ^ 70 + e.place.toNat * 2 ^ 72 + e.loc.toNat * 2 ^ 80

/-- MON_STAT. -/
def Dev.monStat (d : Dev) : Nat :=
  let t := fun (i : Nat) => ((d.statT[i]?).getD 0).toNat
  let c := fun (i : Nat) => ((d.statC[i]?).getD 0).toNat
  t 0 + t 1 * 2 ^ 8 + d.statP.toNat * 2 ^ 16 + c 0 * 2 ^ 32 + c 1 * 2 ^ 44 + boolN (decide (c 0 < 1800) || decide (c 1 < 1800)) 56

/-- MON_STK of a stack. -/
def Stack.bits (x : Stack) : Nat := x.corr.toNat + x.lrow.toNat * 2 ^ 32 + x.unc.toNat * 2 ^ 44 + x.froze.toNat * 2 ^ 52 + boolN x.rec_ 63

/-- A monitor unit. -/
def State.mon (s : State) (u : Nat) : MonU := (s.dev.mons[u]?).getD MonU.init

/-- A read in the MON_ block. -/
def State.readMon (s : State) (off : Nat) : Word :=
  if 0x1000 ≤ off ∧ off < 0x1500 then (s.core ((off - 0x1000) / 8)).anom.setWidth 64
  else if 0x2000 ≤ off ∧ off < 0x2400 then
    let e := (s.dev.elog[(off - 0x2000) / 16]?).getD default
    BitVec.ofNat 64 (nbits e.bits (64 * ((off - 0x2000) / 8 % 2)) 64)
  else if 0x3000 ≤ off ∧ off < 0x3060 then BitVec.ofNat 64 (s.stack ((off - 0x3000) / 8)).bits
  else if 0x4000 ≤ off ∧ off < 0x4080 then (s.mon ((off - 0x4000) / 8)).ctl
  else if 0x4080 ≤ off ∧ off < 0x4100 then let m := s.mon ((off - 0x4080) / 8); BitVec.ofNat 64 (m.low.toNat + m.width.toNat * 2 ^ 32)
  else if 0x4100 ≤ off ∧ off < 0x4180 then let m := s.mon ((off - 0x4100) / 8); BitVec.ofNat 64 (m.value.toNat + m.samples.toNat * 2 ^ 32)
  else if 0x4200 ≤ off ∧ off < 0x4A00 then (((s.mon ((off - 0x4200) / 128)).hist[(off - 0x4200) / 8 % 16]?).getD 0).setWidth 64
  else match off with
  | 0x00 => BitVec.ofNat 64 s.dev.monStat
  | 0x08 => s.dev.elHead.setWidth 64
  | 0x10 => s.dev.elLost.setWidth 64
  | _ => 0

/-- A write in the MON_ block. Writing 1 to bits of a counter that is W1C clears those bits (R7). -/
def State.writeMon (s : State) (off : Nat) (v : Word) : State :=
  if 0x1000 ≤ off ∧ off < 0x1500 then s.modCore ((off - 0x1000) / 8) (fun k => { k with anom := v.setWidth 32 })
  else if 0x3000 ≤ off ∧ off < 0x3060 then s.modStack ((off - 0x3000) / 8) (fun x => { x with corr := v.setWidth 32 })
  else if 0x4000 ≤ off ∧ off < 0x4080 then s.writeMonCtl ((off - 0x4000) / 8) v
  else if 0x4080 ≤ off ∧ off < 0x4100 then
    s.modDev (fun d => { d with mons := d.mons.modify ((off - 0x4080) / 8) (fun m => { m with low := v.setWidth 32, width := if fld v 32 16 = 0 then 1 else v.extractLsb' 32 16 }) })
  else if off = 0x10 then s.modDev (fun d => { d with elLost := d.elLost &&& ~~~(v.setWidth 32) })
  else s

/-! ### SEC_ (R398, R399) -/

/-- SEC_CMD 1: a report is requested; a second request before DONE is ignored. -/
def State.secRequest (s : State) : State :=
  if s.dev.secBusy then s else s.modDev (fun d => { d with secBusy := true, secDone := false })

/-- A write of word i of SEC_NONCE: ignored while a report is being produced; a new nonce clears DONE, and its report is no longer readable. -/
def State.writeNonce (s : State) (i : Nat) (v : Word) : State :=
  if s.dev.secBusy then s
  else s.modDev (fun d => { d with
    nonce := (d.nonce &&& ~~~((BitVec.ofNat 256 (2 ^ 64 - 1)) <<< (64 * i))) ||| (v.setWidth 256 <<< (64 * i))
    secDone := false
    report := 0 })

/-- The first 384 bytes of the report. -/
def State.reportBody (s : State) : BitVec 3072 :=
  let meas := ((List.range 8).map (fun i => ((s.dev.meas[i]?).getD 0).toNat * 2 ^ (256 + 256 * i))).foldl (· + ·) 0
  BitVec.ofNat 3072 (s.dev.nonce.toNat + meas + (Config.sm3 s.flash.record).toNat * 2 ^ 2304 + Config.identityKey.toNat * 2 ^ 2560)

/-- A read in the SEC_ block. -/
def State.readSec (s : State) (off : Nat) : Word :=
  if 0x100 ≤ off ∧ off < 0x120 then wordOf s.dev.nonce ((off - 0x100) / 8)
  else if 0x200 ≤ off ∧ off < 0x300 then wordOf ((s.dev.meas[(off - 0x200) / 32]?).getD 0) ((off - 0x200) / 8 % 4)
  else if 0x1000 ≤ off ∧ off < 0x11C0 then (if s.dev.secBusy then 0 else wordOf s.dev.report ((off - 0x1000) / 8))
  else if off = 8 then BitVec.ofNat 64 (boolN s.dev.secDone 0 + boolN s.dev.secBusy 1)
  else 0

/-- A write in the SEC_ block. -/
def State.writeSec (s : State) (off : Nat) (v : Word) : State :=
  if off = 0 then (if fld v 0 4 = 1 then s.secRequest else s)
  else if 0x100 ≤ off ∧ off < 0x120 then s.writeNonce ((off - 0x100) / 8) v
  else s

/-- SEC_REPORT_REQUEST. -/
def execSecReportRequest (s : State) : Out := .next (if s.dev.ready then s.secRequest else s)

/-- SEC_NONCE_WRITE. -/
def execSecNonceWrite (i : Nat) (v : Word) (s : State) : Out := .next (if s.dev.ready && decide (i < 4) then s.writeNonce i v else s)

/-- SEC_REPORT_DONE: the report of the current nonce is signed and lies in SEC_REPORT. -/
def execSecReportDone (s : State) : Out :=
  if s.dev.secBusy then
    let b := s.reportBody
    .next (s.modDev (fun d => { d with secBusy := false, secDone := true, report := Config.sm2Sign b ++ b }))
  else .refused (.notEnabled "SEC_REPORT_DONE")

/-! ### The mailbox (R379, R392) -/

/-- Is a bad-page entry well formed: its stack, span and verdict in range? -/
def badEntryOk (e : Word) : Bool := decide (nbits e.toNat 28 4 < 12) && nbits e.toNat 32 16 != 0 && (nbits e.toNat 48 2 == 1 || nbits e.toNat 48 2 == 2)

/-- MBOX_READ_ENTRY. -/
def execMboxReadEntry (arg : BitVec 16) (s : State) : Out := .next (if s.dev.ready then s.mboxCommand 1 arg.toNat else s)
/-- MBOX_APPEND. -/
def execMboxAppend (s : State) : Out := .next (if s.dev.ready then s.mboxCommand 2 0 else s)
/-- MBOX_READ_COUNT. -/
def execMboxReadCount (s : State) : Out := .next (if s.dev.ready then s.mboxCommand 3 0 else s)

/-- A mailbox command's effect: the list lies in flash, an append before BUSY falls. -/
def State.mboxDo (s : State) (op : Nat) (arg : Nat) : State :=
  let err := s.modDev (fun d => { d with mboxErr := true })
  match op with
  | 1 => (match s.flash.bad[arg]? with
    | some e => s.modDev (fun d => { d with mboxData := e })
    | none => err)
  | 2 =>
    let e := s.dev.mboxData &&& 0x3FFFFFFFFFFFF
    if s.flash.bad.length < 4096 ∧ badEntryOk e then { s with flash := { s.flash with bad := s.flash.bad ++ [e] } } else err
  | 3 => s.modDev (fun d => { d with mboxData := BitVec.ofNat 64 s.flash.bad.length })
  | _ => s

/-- MAILBOX_RESPONSE_READY: the command in progress is done, and vector 5 tells. -/
def execMailboxResponseReady (s : State) : Out :=
  match s.dev.mboxBusy with
  | none => .refused (.notEnabled "MAILBOX_RESPONSE_READY")
  | some (op, arg) => .next (((s.mboxDo op.toNat arg.toNat).modDev (fun d => { d with mboxBusy := none })).vector0 5)

/-! ### BAR0 (R388 to R390) -/

/-- The queue and register of an offset in the Q_ block of the physical function, or in the window of a virtual one. -/
def queueAt (fn off : Nat) : Option (Nat × Nat × Nat) :=
  if fn = 0 then (if 0x800000 ≤ off ∧ off < 0x880000 then some ((off - 0x800000) / 0x4000, (off - 0x800000) / 0x1000 % 4, off % 0x1000) else none)
  else if fn < 32 ∧ off < 0x4000 then some (fn, off / 0x1000, off % 0x1000) else none

/-- What the sensors show when a register that tells of them is read: the temperature of a die, the power and the temperature of a stack are free values of the moment,
a live stack below 105 °C and a frozen one above 95 °C (R377, R385, R408; DESIGN CHOICE, assumption 90). -/
def State.sense (s : State) (fn off : Nat) : State :=
  if fn ≠ 0 || !s.dev.ready then s
  else if off = 0x500000 then
    (s.modDev (fun d => { d with statT := [(s.freeWord 0).setWidth 8, (s.freeWord 1).setWidth 8], statP := (s.freeWord 2).setWidth 16 })).nextFree
  else if 0x100100 ≤ off ∧ off < 0x100160 then
    let t := (s.freeWord 0).toNat % 256
    (s.modStack ((off - 0x100100) / 8) (fun x =>
      { x with temp := BitVec.ofNat 8 (match x.state.toNat with
          | 1 => max t 96
          | 3 => t
          | _ => min t 104) })).nextFree
  else s

/-- A register's value; every other offset reads zero, and until READY only DEV_STATUS does not (R390, R397). -/
def State.readReg (s : State) (fn off : Nat) : Word :=
  if fn = 0 ∧ off = 0 then s.dev.status
  else if !s.dev.ready then 0
  else match queueAt fn off with
  | some (f, q, o) => (s.queue f q).read o
  | none =>
    if fn ≠ 0 then 0
    else
      let o := off % 0x100000
      match off / 0x100000 with
      | 0 => s.readDev o
      | 1 => s.readMapBlk o
      | 2 => s.readFaq o
      | 3 => s.readKwy o
      | 4 => s.readLnk o
      | 5 => s.readMon o
      | 6 => s.readSec o
      | _ => 0

/-- A register write. -/
def State.writeReg (s : State) (fn off : Nat) (v : Word) : State :=
  if !s.dev.ready then s
  else match queueAt fn off with
  | some (f, q, o) => s.writeQueue f q o v
  | none =>
    if fn ≠ 0 then s
    else
      let o := off % 0x100000
      match off / 0x100000 with
      | 0 => s.writeDev o v
      | 1 => s.writeMapBlk o v
      | 2 => s.writeFaq o v
      | 3 => s.writeKwy o v
      | 4 => s.writeLnk o v
      | 5 => s.writeMon o v
      | 6 => s.writeSec o v
      | _ => s

/-- REGISTER_WRITE: an aligned 8-byte write; any other completes as unsupported and changes nothing (R388). -/
def execRegisterWrite (fn off : Nat) (d : RegData) (s : State) : Out := .next (if d.size = 8 ∧ off % 8 = 0 then s.writeReg fn off d.val else s)

/-! ### Function-level reset (R391) -/

/-- FUNCTION_LEVEL_RESET: a virtual function's queues are no longer served, and their indices return to 0 once its tasks have left the matcher. -/
def execFunctionLevelReset (fn : Nat) (s : State) : Out :=
  if 1 ≤ fn ∧ fn < 32 then
    .next (((List.range 4).foldl (fun s q => s.modQueue fn q (fun x => { x with en := false, hand := none, flr := true })) s).flrSettle fn)
  else .refused (.notEnabled "FUNCTION_LEVEL_RESET")

end Sys2Proof.Machine
end

