-- ==== Sys2Proof/Machine/Load.lean ====
section
/-!
DEFINITION. The loader (R308 to R314, R410) and the accesses of the host and of peer modules (R89, R387 to R390).
-/

namespace Sys2Proof.Machine

/-! ### Reading and writing an image -/

/-- The keys of n bytes at a virtual address of a partition, none where a line has no translation. -/
def State.vaKeys (s : State) (part va n : Nat) : Option (List Nat) :=
  if n = 0 then some []
  else
    let lines := (List.range ((va + n - 1) / 256 - va / 256 + 1)).map (fun i => va / 256 + i)
    let one := fun (ln : Nat) => (match s.peek ⟨0, 0, part, false, false, 0⟩ (256 * ln % 2 ^ 64) with
      | .ok l pa => some (keysFrom (plocKey l pa) 256)
      | _ => none : Option (List Nat))
    (lines.mapM one).map (fun (ks : List (List Nat)) => (ks.flatten.drop (va % 256)).take n)

/-- The number at n bytes of virtual memory. -/
def State.vaNum (s : State) (part va n : Nat) : Option Nat := (s.vaKeys part va n).map (fun ks => ofBytes (ks.map (s.readKey .device)))

/-- The entries of a table: count entries of size bytes. -/
def State.vaTable (s : State) (part va size count : Nat) : Option (List Nat) :=
  (s.vaNum part va (size * count)).map (fun x => (List.range count).map (fun i => nbits x (8 * size * i) (8 * size)))

/-- An image as it lies in memory: header, tables, the code of each state, whether a byte after a segment's last word in its last page is set, relocations. -/
structure RawImage where
  hdr    : Nat
  units  : List Nat
  blocks : List Nat
  states : List Nat
  trans  : List Nat
  code   : List (List Code)
  tail   : Bool
  rels   : List Nat
  deriving DecidableEq, Repr, Inhabited

def hdUnits (h : Nat) : Nat := nbits h 64 16
def hdBlocks (h : Nat) : Nat := nbits h 80 16
def hdStates (h : Nat) : Nat := nbits h 96 16
def hdTlog2 (h : Nat) : Nat := nbits h 112 5
def hdUnitOff (h : Nat) : Nat := nbits h 128 32
def hdBlockOff (h : Nat) : Nat := nbits h 160 32
def hdStateOff (h : Nat) : Nat := nbits h 192 32
def hdTransOff (h : Nat) : Nat := nbits h 224 32
def hdCodeOff (h : Nat) : Nat := nbits h 256 32
def hdDataOff (h : Nat) : Nat := nbits h 288 32
def hdRelOff (h : Nat) : Nat := nbits h 320 32
def hdNrel (h : Nat) : Nat := nbits h 352 32
def hdHand (h i : Nat) : Nat := nbits h (384 + 16 * i) 16

def stBlk (x i : Nat) : Nat := nbits x (16 * i) 16
def stNblk (x : Nat) : Nat := nbits x 112 3
def stSeg (x : Nat) : Nat := nbits x 128 32
def stNword (x : Nat) : Nat := nbits x 160 12
def stUnit (x : Nat) : Nat := nbits x 172 12

/-- A vacant state descriptor (R410). -/
def stVacant (x : Nat) : Bool := x == 2 ^ 256 - 1

/-- The blocks that a state lists. -/
def stBlks (x : Nat) : List Nat := if stVacant x then [] else (List.range (stNblk x)).map (stBlk x)

/-- The header's own defects (R308), which stop the loader from reading further. -/
def badHeader (base h : Nat) : Bool :=
  base % 4096 != 0 || nbits h 0 32 != 0x4E5A4C53 || nbits h 32 16 != 1 || nbits h 48 16 != 0 || nbits h 117 11 != 0 || nbits h 464 48 != 0 ||
  hdUnits h == 0 || decide (4095 < hdUnits h) || hdBlocks h == 0 || hdStates h == 0 || decide (hdTlog2 h < 4) || decide (16 < hdTlog2 h) ||
  [hdUnitOff h, hdBlockOff h, hdStateOff h, hdTransOff h, hdRelOff h].any (fun o => o % 16 != 0) || hdCodeOff h % 4096 != 0 || hdDataOff h % 4096 != 0 ||
  (List.range 5).any (fun i => hdHand h i != 0xFFFF && decide (hdUnits h ≤ hdHand h i))

/-- The bytes from a segment's last word to the end of its last page, as a number (R311). -/
def State.vaTail (s : State) (part va n : Nat) : Option Nat := s.vaNum part (va + 12 * n) (roundUp (12 * n) 4096 - 12 * n)

/-- Read an image; none where it cannot be read. -/
def State.readImage (s : State) (part base h : Nat) : Option RawImage :=
  match s.vaTable part (base + hdUnitOff h) 16 (hdUnits h), s.vaTable part (base + hdBlockOff h) 8 (hdBlocks h),
    s.vaTable part (base + hdStateOff h) 32 (hdStates h), s.vaTable part (base + hdTransOff h) 16 (2 ^ hdTlog2 h), s.vaTable part (base + hdRelOff h) 16 (hdNrel h) with
  | some us, some bs, some ss, some ts, some rs =>
    let one := fun (x : Nat) => (if stVacant x then some ([], 0)
      else match s.vaTable part (base + hdCodeOff h + stSeg x) 12 (stNword x), s.vaTail part (base + hdCodeOff h + stSeg x) (stNword x) with
        | some l, some t => some (l.map (BitVec.ofNat 96), t)
        | _, _ => none : Option (List Code × Nat))
    (ss.mapM one).map (fun l => ⟨h, us, bs, ss, ts, l.map (·.1), l.any (fun e => e.2 != 0), rs⟩)
  | _, _, _, _, _ => none

/-- The tables as the machine keeps them. -/
def RawImage.toImage (r : RawImage) (id part base : Nat) : Image :=
  { id := id, part := part, base := base, blockOff := hdBlockOff r.hdr, codeOff := hdCodeOff r.hdr
    units := r.units.map (fun u => ⟨nbits u 0 16, u.testBit 16, nbits u 17 5, nbits u 22 3, nbits u 25 5, nbits u 30 5, nbits u 35 10, nbits u 45 7, nbits u 52 9, nbits u 64 16⟩)
    blocks := r.blocks.map (BitVec.ofNat 64)
    states := r.states.map (fun x => ⟨stBlks x, stSeg x, stNword x, stUnit x⟩)
    tlog2 := hdTlog2 r.hdr
    trans := r.trans.map (BitVec.ofNat 128)
    hands := (List.range 5).map (hdHand r.hdr) }

/-! ### The loader's checks (R314) -/

/-- A unit entry that breaks R309. -/
def badUnit (u : Nat) : Bool :=
  nbits u 80 48 != 0 ||
  (if u.testBit 16 then
    nbits u 61 3 != 0 || nbits u 17 5 == 0 || decide (16 < nbits u 17 5) || nbits u 22 3 == 0 || decide (4 < nbits u 22 3) || decide (16 < nbits u 25 5) ||
      decide (16 < nbits u 30 5) || decide (768 < nbits u 35 10) || decide (64 < nbits u 45 7) || decide (256 < nbits u 52 9)
   else nbits u 17 63 != 0)

/-- A state descriptor that breaks R311. -/
def badState (x : Nat) : Bool :=
  !stVacant x && (nbits x 115 13 != 0 || nbits x 184 72 != 0 || stNblk x == 0 || (List.range 7).any (fun i => decide (stNblk x ≤ i) && stBlk x i != 0xFFFF) ||
    stSeg x % 4096 != 0 || stNword x == 0)

/-- Is an offset in the code area that of an instruction word of a state (R313)? -/
def RawImage.isWord (r : RawImage) (off : Nat) : Bool :=
  r.states.any (fun x => !stVacant x && decide (stSeg x ≤ off) && (off - stSeg x) % 12 == 0 && decide (off - stSeg x < 12 * stNword x))

/-- Code 1. -/
def RawImage.code1 (r : RawImage) : Bool :=
  r.tail || r.units.any badUnit || r.blocks.any (fun b => b != 2 ^ 64 - 1 && (b.testBit 47 || (!b.testBit 46 && nbits b 48 16 != 0))) || r.states.any badState ||
  r.trans.any (fun t => nbits t 0 16 == 0xFFFF && t != 2 ^ 128 - 1) ||
  r.rels.any (fun e => nbits e 36 28 != 0 || decide (2 < nbits e 32 4) || (decide (nbits e 32 4 < 2) && !r.isWord (nbits e 0 32)))

/-- A state that is there. -/
def Image.hasState (im : Image) (st : Nat) : Bool :=
  match im.states[st]? with
  | some d => d.blks != []
  | none => false

/-- Is a block one of another unit: a stub, resolved or not, is no block of the unit that it binds (R28, R180, R310; DEDUCED, assumption 92)? -/
def Image.otherUnit (im : Image) (b u : Nat) : Bool := descStub (im.blk b) || descFwd (im.blk b) || descUnit (im.blk b) != u

/-- A block descriptor's fields that name nothing, or a fall-through into another unit (code 2). -/
def Image.badNames (im : Image) (b : Nat) : Bool :=
  let d := im.blk b
  !descVacant d &&
  (decide (im.units.length ≤ descUnit d) || (descFall d != 0xFFFF && !im.hasBlk (descFall d)) ||
   (!descStub d && (!im.hasState (descHome d) || (descFall d != 0xFFFF && im.otherUnit (descFall d) (descUnit d)))) ||
   (descStub d && descHome d != 0xFFFF && !im.hasState (descHome d)) || (descFwd d && !im.hasBlk (descFwdBlk d)))

/-- The immediate targets of a state's code: whether the word is a CALL, and the block (R180, R181). -/
def targets (l : List Code) : List (Bool × Nat) :=
  l.filterMap (fun c => match decode c with
    | .ok (.br w) | .ok (.brc w) => some (false, w.imm.toNat % 65536)
    | .ok (.call w) => some (true, w.imm.toNat % 65536)
    | _ => none)

/-- Is an id vacant? -/
def Image.vacant (im : Image) (b : Nat) : Bool := decide (b < im.blocks.length) && descVacant (im.blk b)

/-- The blocks of a transition entry before the first unused place. -/
def keyOf (t : BitVec 128) : List Nat := ((List.range 7).map (fun i => (t.extractLsb' (16 * i) 16).toNat)).takeWhile (fun b => b != 0xFFFF)

/-- Code 2. -/
def RawImage.code2 (r : RawImage) (im : Image) : Bool :=
  im.units.any (fun u => !im.hasBlk u.entry) || (List.range im.blocks.length).any im.badNames ||
  im.states.any (fun d => d.blks.any (fun b => !im.hasBlk b) || (d.blks != [] && decide (im.units.length ≤ d.unit))) ||
  im.trans.any (fun t => keyOf t != [] && (!im.hasState (t.extractLsb' 112 16).toNat || (List.range 7).any (fun i => im.vacant (t.extractLsb' (16 * i) 16).toNat))) ||
  r.code.any (fun l => (targets l).any (fun t => im.vacant t.2))

/-- Code 3. -/
def Image.code3 (im : Image) : Bool :=
  (List.range im.blocks.length).any (fun b =>
    let d := im.blk b
    let listed := im.states.any (fun x => x.blks.contains b)
    !descVacant d &&
    (if descStub d then listed || descHome d != 0xFFFF || descFall d != 0xFFFF || descFwd d || descMerge d
     else !listed || !((im.states[descHome d]?).map (fun x => x.blks.contains b)).getD false))

/-- Code 4. -/
def Image.code4 (im : Image) : Bool := im.states.any (fun d => d.blks.eraseDups.length != d.blks.length || d.blks.any (fun b => descUnit (im.blk b) != d.unit))

/-- Pages of a state's segment: first and one beyond the last. -/
def StateD.pages (d : StateD) : Nat × Nat := (d.seg / 4096, d.seg / 4096 + ceilDiv (12 * d.nword) 4096)

/-- Code 5. -/
def Image.code5 (im : Image) : Bool :=
  let l := (im.states.mapIdx (fun i d => (i, d))).filter (fun e => e.2.blks != [])
  l.any (fun e => decide (2730 < e.2.nword) || l.any (fun f => decide (e.1 < f.1) && decide (e.2.pages.1 < f.2.pages.2) && decide (f.2.pages.1 < e.2.pages.2)))

/-- Is a list of blocks strictly ascending? -/
def ascending (l : List Nat) : Bool := (l.zip (l.drop 1)).all (fun p => decide (p.1 < p.2))

/-- Code 6. -/
def Image.code6 (im : Image) : Bool :=
  let keys := im.trans.filter (fun t => keyOf t != [])
  keys.any (fun t => let k := keyOf t
    k != transKey t || k.any (fun b => descStub (im.blk b)) || !ascending k ||
      !(k.all (fun b => ((im.states[(t.extractLsb' 112 16).toNat]?).map (fun d => d.blks.contains b)).getD false))) ||
  (keys.map keyOf).eraseDups.length != keys.length

/-- Code 7. -/
def Image.code7 (im : Image) : Bool := im.trans.all (fun t => keyOf t != []) || im.trans.any (fun t => keyOf t != [] && (im.succ? (keyOf t)).isNone)

/-- Code 8. -/
def RawImage.code8 (r : RawImage) (im : Image) : Bool :=
  (r.code.mapIdx (fun st l => (targets l).any (fun t => if t.1 then !im.callable t.2 else t.2 != 0xFFFF && !im.inUnit st t.2))).any id

/-- Code 9. -/
def Image.code9 (im : Image) : Bool := im.hands.any (fun u => u != 0xFFFF && ((im.units[u]?).map (·.crew)).getD false)

/-- The lowest code of a defect, 0 for none. -/
def RawImage.defect (r : RawImage) (im : Image) : Nat :=
  if r.code1 then 1 else if r.code2 im then 2 else if im.code3 then 3 else if im.code4 then 4 else if im.code5 then 5 else if im.code6 then 6
  else if im.code7 then 7 else if r.code8 im then 8 else if im.code9 then 9 else 0

/-! ### Relocation (R313) -/

/-- One relocation: the virtual address, the bytes, and the field's first bit and width. -/
def relocOf (h base e : Nat) : Nat × Nat × Nat × Nat × Nat :=
  let v := (base + nbits e 64 64) % 2 ^ 64
  match nbits e 32 4 with
  | 0 => (base + hdCodeOff h + nbits e 0 32, 12, 22, 32, v % 2 ^ 32)
  | 1 => (base + hdCodeOff h + nbits e 0 32, 12, 22, 32, v / 2 ^ 32)
  | _ => (base + hdDataOff h + nbits e 0 32, 8, 0, 64, v)

/-- Apply one relocation. -/
def State.relocate (s : State) (part h base e : Nat) : Option State :=
  let r := relocOf h base e
  (s.vaKeys part r.1 r.2.1).map (fun ks =>
    let old := ofBytes (ks.map (s.readKey .device))
    (s.append .host 0 5 (ks.zip (bytesOf r.2.1 (setField old r.2.2.1 r.2.2.2.1 r.2.2.2.2))) []).wake ks)

/-- Apply every relocation. -/
def State.relocateAll (s : State) (part h base : Nat) (l : List Nat) : Option State := l.foldlM (fun s e => s.relocate part h base e) s

/-- An image's fresh number. -/
def State.freshImage (s : State) : Nat := s.images.foldl (fun n i => max n (i.id + 1)) 0

/-- What the loader reads and rewrites, as virtual addresses with their numbers of bytes: header, tables, segments to the ends of their pages, and the places of relocations. -/
def State.imageSpans (s : State) (part base : Nat) : List (Nat × Nat) :=
  (base, 64) :: (match s.vaNum part base 64 with
    | none => []
    | some h =>
      if badHeader base h then []
      else
        [(base + hdUnitOff h, 16 * hdUnits h), (base + hdBlockOff h, 8 * hdBlocks h), (base + hdStateOff h, 32 * hdStates h),
          (base + hdTransOff h, 16 * 2 ^ hdTlog2 h), (base + hdRelOff h, 16 * hdNrel h)] ++
        (((s.vaTable part (base + hdStateOff h) 32 (hdStates h)).getD []).filter (fun x => !stVacant x)).map (fun x =>
          (base + hdCodeOff h + stSeg x, roundUp (12 * stNword x) 4096)) ++
        ((s.vaTable part (base + hdRelOff h) 16 (hdNrel h)).getD []).map (fun e => let r := relocOf h base e; (r.1, r.2.1)))

/-- Does a line of some bytes of virtual memory wait: for a table that waits at the map point, there itself, or for a returned access (R84, R86, R387)? -/
def State.vaStops (s : State) (part va n : Nat) : Bool :=
  decide (0 < n) && (List.range ((va + n - 1) / 256 - va / 256 + 1)).any (fun i =>
    match s.peek ⟨0, 0, part, false, false, 0⟩ (256 * (va / 256 + i) % 2 ^ 64) with
    | .wait => true
    | .ok l pa => s.lineStops l pa 256
    | _ => false)

/-- Does the loading of an image wait for one of its lines? -/
def State.loadStops (s : State) (part base : Nat) : Bool := (s.imageSpans part base).any (fun e => s.vaStops part e.1 e.2)

/-- Load an image: the host learns 0 and its number, or the code of its defect (R314); an image that cannot be read has code 1, and marked lines
that are read are reported (R401). -/
def State.loadImage (s0 : State) (part base : Nat) : State :=
  let s := s0.noteDev ((s0.imageSpans part base).flatMap (fun e => (s0.vaKeys part e.1 e.2).getD []))
  let no := fun (c : Nat) => ({ s with hostIn := [BitVec.ofNat 8 c] } : State)
  match s.vaNum part base 64 with
  | none => no 1
  | some h =>
    if badHeader base h then no 1
    else match s.readImage part base h with
    | none => no 1
    | some r =>
      let id := s.freshImage
      let d := r.defect (r.toImage id part base)
      if d ≠ 0 then no d
      else match s.relocateAll part h base r.rels with
        | none => no 1
        | some s1 => { s1 with images := s1.images ++ [r.toImage id part base], hostIn := 0 :: bytesOf 8 id }

/-! ### Accesses of the host and of peers (R89) -/

/-- May an access of n bytes from outside go on: it lies in one line, its location exists, its line passes the map point, and no returned access comes before it (R86)? -/
def State.outsideOk (s : State) (l : PLoc) (pa n : Nat) : Bool :=
  decide (0 < n) && decide (pa / 256 = (pa + n - 1) / 256) &&
  (match l with
   | .tier1 => decide (pa < s.dev.capLive.toNat * 2 ^ 20) && !s.lineHeld .tier1 pa && !s.returnedAt (.mem (plocKey .tier1 pa)) n
   | .tier2 => decide (pa < 2 ^ 40) && !s.lineHeld .tier2 pa
   | _ => decide (pa < 2 ^ 52))

/-- A line is copied to another with its error mark (R380). -/
def State.moveLine (s : State) (src dst : Nat) : State :=
  let s1 := (s.noteDev [src]).put .host 0 5 (.mem dst) ((keysFrom src 256).map (s.readKey .host)) []
  if s.poisoned src then s1.poisonLine dst else s1

/-- HOST_ACCESS: a store or a read of the host or of a peer, the copy of a line by the driver, an aligned 8-byte register read, or the loading of an image, which waits
for lines at the map point (R84, R387). Until READY the host reads DEV_STATUS alone. -/
def execHostAccess (op : HostOp) (s : State) : Out :=
  match op with
  | .store l pa bytes =>
    if s.outsideOk l pa bytes.length then .next (s.put .host 0 5 (.mem (plocKey l pa)) bytes []) else .refused (.notEnabled "HOST_ACCESS")
  | .read l pa n =>
    if s.outsideOk l pa n then .next { s.noteDev (keysFrom (plocKey l pa) n) with hostIn := (keysFrom (plocKey l pa) n).map (s.readKey .host) } else .refused (.notEnabled "HOST_ACCESS")
  | .moveLine l pa l' pa' =>
    if pa % 256 = 0 ∧ pa' % 256 = 0 ∧ s.outsideOk l pa 256 ∧ s.outsideOk l' pa' 256 then .next (s.moveLine (plocKey l pa) (plocKey l' pa'))
    else .refused (.notEnabled "HOST_ACCESS")
  | .readReg fn off size =>
    let s := s.sense fn off
    .next { s with hostIn := if size = 8 ∧ off % 8 = 0 then bytesOf 8 (s.readReg fn off).toNat else [] }
  | .loadImage part base => if s.dev.ready && decide (part < 32) && !s.loadStops part base then .next (s.loadImage part base) else .refused (.notEnabled "HOST_ACCESS")

end Sys2Proof.Machine
end

