-- ==== Sys2Proof/Machine/Boot.lean ====
section
/-!
DEFINITION. Module reset and boot (R7, R396, R397, R405, R406, R408).
-/

namespace Sys2Proof.Machine

/-! ### Module reset (R7) -/

/-- What memory holds after a module reset: host memory and other modules are untouched; the bytes that the module's own tiers list are free values, since training
tests them (R396); on-chip stores list nothing (DESIGN CHOICE, assumption 7). -/
def State.resetMem (s : State) : Memory :=
  let keys := ((s.mem.map (·.1)) ++ s.drained.flatMap (fun d => d.cells.map (·.1))).eraseDups.filter (fun k => decide (k % 8 < 4))
  Memory.setAll [] (keys.map (fun k => (k, if k % 8 < 2 then (s.freeWord k).setWidth 8 else s.latestKey k)))

/-- The machine right after a module reset: every register at its reset value; time goes on, and what the model itself keeps. -/
def State.moduleReset (s : State) : State :=
  { State.reset with
    mem := s.resetMem, flash := s.flash, clock := s.clock, cyc0 := s.cyc0, cyc1 := s.cyc1, agenda := s.agenda, choices := s.choices, free := s.free + 1, hostIn := s.hostIn }

/-! ### Boot (R396) -/

/-- The live stacks that boot finds: those of the configuration record but for the dead ones (R406). -/
def Flash.table (f : Flash) : List Nat := sortBy (fun a b => decide (a ≤ b)) (f.live.filter (fun k => !f.dead.contains k))

/-- Rows with a lasting verdict on the bad-page list, each once (R379, R405). -/
def Flash.rows (f : Flash) (k : Nat) : List Nat :=
  let mine := f.bad.filter (fun e => (e.extractLsb' 28 4).toNat == k && (e.extractLsb' 48 2).toNat == 2)
  (mine.flatMap (fun e => (List.range (e.extractLsb' 32 16).toNat).map (fun i => Config.rowOf ((e.extractLsb' 0 28).toNat + i)))).eraseDups

/-- A stack's record at boot. -/
def Flash.stackAt (f : Flash) (k : Nat) : Stack :=
  let rows := f.rows k
  let unc := (f.unc[k]?).getD []
  ⟨if f.table.contains k then 0 else 3, 0, 0, BitVec.ofNat 12 (min 4095 rows.length), BitVec.ofNat 8 (min 255 unc.length), 0, false, none, rows, unc⟩

/-- Step 2: the configuration record's fields; the usable capacity is bounded by that of the live stacks (R378). -/
def State.loadRecord (s : State) : State :=
  let f := s.flash
  s.modDev (fun d => { d with
    coreen := f.coreen
    table_ := f.table
    capLive := BitVec.ofNat 28 (min f.cap.toNat (capOf f.table.length))
    self := f.modNo })

/-- Step 5: the tiers are trained, and the bad-page list is loaded. -/
def State.loadPages (s : State) : State := s.modDev (fun d => { d with hbm := (List.range 12).map s.flash.stackAt })

/-- M := SM3(M ‖ SM3(stage)) (R398). -/
def extendMeas (m : BitVec 256) (stage : List Byte) : BitVec 256 := Config.sm3 (bytesOf 32 m.toNat ++ bytesOf 32 (Config.sm3 stage).toNat)

/-- The chain that stage i extends: the ROM and the first stage the first one, each later stage the next. -/
def measOf (i : Nat) : Nat := if i ≤ 1 then 0 else min 7 (i - 1)

/-- Step 4: the stages are measured. -/
def State.measure (s : State) : State :=
  (s.flash.stages.mapIdx (fun i x => (i, x))).foldl (fun s e => s.modDev (fun d => { d with meas := d.meas.modify (measOf e.1) (fun m => extendMeas m e.2) })) s

/-- Step 6: recommendations that survive, vector 4 after a thermal shutdown, the clocks that power management grants, the links that train, and READY. -/
def State.finishBoot (s : State) (ports : List (Nat × BitVec 8)) : State :=
  let s1 := (List.range 12).foldl (fun s k => s.recommend k) (s.modDev (fun d => { d with statC := [1800, 1800] }))
  let s2 := if s1.flash.thermal then ({ s1 with flash := { s1.flash with thermal := false } } : State).vector0 4 else s1
  let s3 := (ports.filter (fun p => decide (p.1 < 18))).foldl (fun s p => if (s.port p.1).up then s else s.portUp p.1 p.2) s2
  s3.modDev (fun d => { d with ready := true, stage := 6 })

/-- What a step of boot leaves when it is over. -/
def State.bootStep (s : State) (stage : Nat) : State :=
  match stage with
  | 2 => s.loadRecord
  | 4 => s.measure
  | 5 => s.loadPages
  | _ => s

/-- Is a boot under way: it has neither halted nor ended? -/
def State.booting (s : State) : Bool := s.dev.power && !s.dev.ready && !s.dev.halt

/-- MODULE_RESET: the reset, or how the boot that it starts goes on, so that STAGE shows each step while it runs; a failed step halts it, and names itself and its cause
(R397; which cause ends which step is not given: DEDUCED, assumption 68). -/
def execModuleReset (boot : BootTrial) (s : State) : Out :=
  let no : Out := .refused (.notEnabled "MODULE_RESET")
  let st := s.dev.stage.toNat
  match boot with
  | .start => .next s.moduleReset
  | .next => if s.booting ∧ st < 6 then .next ((s.bootStep st).modDev (fun d => { d with stage := BitVec.ofNat 3 (st + 1) })) else no
  | .fail c => if s.booting ∧ 1 ≤ st ∧ st ≤ 5 ∧ 1 ≤ c.toNat ∧ c.toNat ≤ 6 then .next (s.modDev (fun d => { d with halt := true, cause := c })) else no
  | .ready ports => if s.booting ∧ st = 6 then .next (s.finishBoot ports) else no

end Sys2Proof.Machine
end

