-- ==== Sys2Proof/Machine/Dispatch.lean ====
section
/-!
DEFINITION. The dispatch: one arm per constructor of Instr, each a direct call of that instruction's meaning.
-/

namespace Sys2Proof.Machine

/-- The effect of an instruction word on the entity that issues it, or of an event on the machine. -/
def exec (i : Instr) (s : State) : Host.Outcome State Fault Refusal :=
  match i with
  | .issueChoice core pipe => Sys2Proof.Machine.execIssueChoice core pipe s
  | .resultLand g => Sys2Proof.Machine.execResultLand g s
  | .stateVote g => Sys2Proof.Machine.execStateVote g s
  | .splitGroupCycle g => Sys2Proof.Machine.execSplitGroupCycle g s
  | .stateEntryCountLimit m => Sys2Proof.Machine.execStateEntryCountLimit m s
  | .codeSegmentDeliver m => Sys2Proof.Machine.execCodeSegmentDeliver m s
  | .perform g seq lane => Sys2Proof.Machine.execPerform g seq lane s
  | .drain g seq lane => Sys2Proof.Machine.execDrain g seq lane s
  | .propagate id => Sys2Proof.Machine.execPropagate id s
  | .mapPointPass g seq lane => Sys2Proof.Machine.execMapPointPass g seq lane s
  | .replay g seq => Sys2Proof.Machine.execReplay g seq s
  | .copyAccept core => Sys2Proof.Machine.execCopyAccept core s
  | .kickReadComplete crew => Sys2Proof.Machine.execKickReadComplete crew s
  | .copyLineArrive core slot off len => Sys2Proof.Machine.execCopyLineArrive core slot off len s
  | .matrixOpStart core => Sys2Proof.Machine.execMatrixOpStart core s
  | .matrixOpComplete core => Sys2Proof.Machine.execMatrixOpComplete core s
  | .berylOpComplete core => Sys2Proof.Machine.execBerylOpComplete core s
  | .racqGrant core => Sys2Proof.Machine.execRacqGrant core s
  | .barComplete crew n => Sys2Proof.Machine.execBarComplete crew n s
  | .tbwaitEnd m => Sys2Proof.Machine.execTbwaitEnd m s
  | .waitaEnd m => Sys2Proof.Machine.execWaitaEnd m s
  | .twaitEnd m => Sys2Proof.Machine.execTwaitEnd m s
  | .mwaitWake m => Sys2Proof.Machine.execMwaitWake m s
  | .mwaitTimeout m => Sys2Proof.Machine.execMwaitTimeout m s
  | .xredHop rid blk remote => Sys2Proof.Machine.execXredHop rid blk remote s
  | .preemptRaise crew => Sys2Proof.Machine.execPreemptRaise crew s
  | .graceExpiry crew => Sys2Proof.Machine.execGraceExpiry crew s
  | .crewFlip crew => Sys2Proof.Machine.execCrewFlip crew s
  | .shadowDrain core crew => Sys2Proof.Machine.execShadowDrain core crew s
  | .crewRestore crew core => Sys2Proof.Machine.execCrewRestore crew core s
  | .taskEnter src => Sys2Proof.Machine.execTaskEnter src s
  | .placementDecision part core => Sys2Proof.Machine.execPlacementDecision part core s
  | .crewRetire crew => Sys2Proof.Machine.execCrewRetire crew s
  | .queueRecordRead fn q img => Sys2Proof.Machine.execQueueRecordRead fn q img s
  | .kill => Sys2Proof.Machine.execKill s
  | .pageWalk r useCache contigFirst => Sys2Proof.Machine.execPageWalk r useCache contigFirst s
  | .faqRecordPost => Sys2Proof.Machine.execFaqRecordPost s
  | .tlbFlush second unit idx => Sys2Proof.Machine.execTlbFlush second unit idx s
  | .shootdownComplete => Sys2Proof.Machine.execShootdownComplete s
  | .tumblerGranuleMove => Sys2Proof.Machine.execTumblerGranuleMove s
  | .stackFreeze k temp => Sys2Proof.Machine.execStackFreeze k temp s
  | .stackResume k temp => Sys2Proof.Machine.execStackResume k temp s
  | .freezeTimeout k => Sys2Proof.Machine.execFreezeTimeout k s
  | .refreshInterrupt k => Sys2Proof.Machine.execRefreshInterrupt k s
  | .errorDetect unit unc place loc who => Sys2Proof.Machine.execErrorDetect unit unc place loc who s
  | .selfTestComplete entry pass => Sys2Proof.Machine.execSelfTestComplete entry pass s
  | .spareRowMap core => Sys2Proof.Machine.execSpareRowMap core s
  | .monitorSample unit v => Sys2Proof.Machine.execMonitorSample unit v s
  | .clockStepDown die temp power => Sys2Proof.Machine.execClockStepDown die temp power s
  | .clockStepUp die temp power => Sys2Proof.Machine.execClockStepUp die temp power s
  | .thermalShutdown temp => Sys2Proof.Machine.execThermalShutdown temp s
  | .powerGate b => Sys2Proof.Machine.execPowerGate b s
  | .powerWake b => Sys2Proof.Machine.execPowerWake b s
  | .flitRetry port => Sys2Proof.Machine.execFlitRetry port s
  | .flitRetryLimit port => Sys2Proof.Machine.execFlitRetryLimit port s
  | .portUp port peer => Sys2Proof.Machine.execPortUp port peer s
  | .portDown port => Sys2Proof.Machine.execPortDown port s
  | .peerReset module => Sys2Proof.Machine.execPeerReset module s
  | .moduleReset boot => Sys2Proof.Machine.execModuleReset boot s
  | .functionLevelReset fn => Sys2Proof.Machine.execFunctionLevelReset fn s
  | .registerWrite fn off d => Sys2Proof.Machine.execRegisterWrite fn off d s
  | .qTailWrite fn q v => Sys2Proof.Machine.execQTailWrite fn q v s
  | .qCfgWrite fn q v => Sys2Proof.Machine.execQCfgWrite fn q v s
  | .devPartrootWrite part v => Sys2Proof.Machine.execDevPartrootWrite part v s
  | .kwyRefresh => Sys2Proof.Machine.execKwyRefresh s
  | .kwyKill => Sys2Proof.Machine.execKwyKill s
  | .kwyDrain => Sys2Proof.Machine.execKwyDrain s
  | .kwyEndDrain => Sys2Proof.Machine.execKwyEndDrain s
  | .mapShootdown part => Sys2Proof.Machine.execMapShootdown part s
  | .mapHarvest part => Sys2Proof.Machine.execMapHarvest part s
  | .faqRespResolved token => Sys2Proof.Machine.execFaqRespResolved token s
  | .faqRespDeclined token => Sys2Proof.Machine.execFaqRespDeclined token s
  | .capLiveWrite v => Sys2Proof.Machine.execCapLiveWrite v s
  | .tmbRetire stack => Sys2Proof.Machine.execTmbRetire stack s
  | .mboxReadEntry arg => Sys2Proof.Machine.execMboxReadEntry arg s
  | .mboxAppend => Sys2Proof.Machine.execMboxAppend s
  | .mboxReadCount => Sys2Proof.Machine.execMboxReadCount s
  | .secReportRequest => Sys2Proof.Machine.execSecReportRequest s
  | .secReportDone => Sys2Proof.Machine.execSecReportDone s
  | .secNonceWrite k v => Sys2Proof.Machine.execSecNonceWrite k v s
  | .monCtlWrite unit v => Sys2Proof.Machine.execMonCtlWrite unit v s
  | .br w => Sys2Proof.Machine.execBr w s
  | .brc w => Sys2Proof.Machine.execBrc w s
  | .brx w => Sys2Proof.Machine.execBrx w s
  | .call w => Sys2Proof.Machine.execCall w s
  | .callx w => Sys2Proof.Machine.execCallx w s
  | .ret w => Sys2Proof.Machine.execRet w s
  | .exit w => Sys2Proof.Machine.execExit w s
  | .yield w => Sys2Proof.Machine.execYield w s
  | .nop w => Sys2Proof.Machine.execNop w s
  | .bkpt w => Sys2Proof.Machine.execBkpt w s
  | .trap w => Sys2Proof.Machine.execTrap w s
  | .tret w => Sys2Proof.Machine.execTret w s
  | .pmdone w => Sys2Proof.Machine.execPmdone w s
  | .srd w => Sys2Proof.Machine.execSrd w s
  | .swr w => Sys2Proof.Machine.execSwr w s
  | .racq w => Sys2Proof.Machine.execRacq w s
  | .racqTry w => Sys2Proof.Machine.execRacqTry w s
  | .rrel w => Sys2Proof.Machine.execRrel w s
  | .gang w => Sys2Proof.Machine.execGang w s
  | .brrd w => Sys2Proof.Machine.execBrrd w s
  | .brwr w => Sys2Proof.Machine.execBrwr w s
  | .vote w => Sys2Proof.Machine.execVote w s
  | .splitq w => Sys2Proof.Machine.execSplitq w s
  | .pand w => Sys2Proof.Machine.execPand w s
  | .por w => Sys2Proof.Machine.execPor w s
  | .pxor w => Sys2Proof.Machine.execPxor w s
  | .pnot w => Sys2Proof.Machine.execPnot w s
  | .iadd w => Sys2Proof.Machine.execIadd w s
  | .isub w => Sys2Proof.Machine.execIsub w s
  | .iadds w => Sys2Proof.Machine.execIadds w s
  | .isubs w => Sys2Proof.Machine.execIsubs w s
  | .ineg w => Sys2Proof.Machine.execIneg w s
  | .iabs w => Sys2Proof.Machine.execIabs w s
  | .imin w => Sys2Proof.Machine.execImin w s
  | .imax w => Sys2Proof.Machine.execImax w s
  | .iclamp w => Sys2Proof.Machine.execIclamp w s
  | .isad w => Sys2Proof.Machine.execIsad w s
  | .imul w => Sys2Proof.Machine.execImul w s
  | .imulh w => Sys2Proof.Machine.execImulh w s
  | .imad w => Sys2Proof.Machine.execImad w s
  | .idiv w => Sys2Proof.Machine.execIdiv w s
  | .irem w => Sys2Proof.Machine.execIrem w s
  | .and w => Sys2Proof.Machine.execAnd w s
  | .or w => Sys2Proof.Machine.execOr w s
  | .xor w => Sys2Proof.Machine.execXor w s
  | .andn w => Sys2Proof.Machine.execAndn w s
  | .not w => Sys2Proof.Machine.execNot w s
  | .tern w => Sys2Proof.Machine.execTern w s
  | .shl w => Sys2Proof.Machine.execShl w s
  | .shr w => Sys2Proof.Machine.execShr w s
  | .sar w => Sys2Proof.Machine.execSar w s
  | .rol w => Sys2Proof.Machine.execRol w s
  | .ror w => Sys2Proof.Machine.execRor w s
  | .fsh w => Sys2Proof.Machine.execFsh w s
  | .popc w => Sys2Proof.Machine.execPopc w s
  | .clz w => Sys2Proof.Machine.execClz w s
  | .ctz w => Sys2Proof.Machine.execCtz w s
  | .brev w => Sys2Proof.Machine.execBrev w s
  | .bfe w => Sys2Proof.Machine.execBfe w s
  | .bfi w => Sys2Proof.Machine.execBfi w s
  | .icmp w => Sys2Proof.Machine.execIcmp w s
  | .sel w => Sys2Proof.Machine.execSel w s
  | .mov w => Sys2Proof.Machine.execMov w s
  | .movi w => Sys2Proof.Machine.execMovi w s
  | .iext w => Sys2Proof.Machine.execIext w s
  | .inarrow w => Sys2Proof.Machine.execInarrow w s
  | .pack w => Sys2Proof.Machine.execPack w s
  | .unpack w => Sys2Proof.Machine.execUnpack w s
  | .shfl w => Sys2Proof.Machine.execShfl w s
  | .bcast w => Sys2Proof.Machine.execBcast w s
  | .lscan w => Sys2Proof.Machine.execLscan w s
  | .lred w => Sys2Proof.Machine.execLred w s
  | .rgath w => Sys2Proof.Machine.execRgath w s
  | .compact w => Sys2Proof.Machine.execCompact w s
  | .fadd w => Sys2Proof.Machine.execFadd w s
  | .fsub w => Sys2Proof.Machine.execFsub w s
  | .fmul w => Sys2Proof.Machine.execFmul w s
  | .ffma w => Sys2Proof.Machine.execFfma w s
  | .fmin w => Sys2Proof.Machine.execFmin w s
  | .fmax w => Sys2Proof.Machine.execFmax w s
  | .fcmp w => Sys2Proof.Machine.execFcmp w s
  | .fclass w => Sys2Proof.Machine.execFclass w s
  | .fround w => Sys2Proof.Machine.execFround w s
  | .fscale w => Sys2Proof.Machine.execFscale w s
  | .frcp w => Sys2Proof.Machine.execFrcp w s
  | .frsq w => Sys2Proof.Machine.execFrsq w s
  | .fsqrt w => Sys2Proof.Machine.execFsqrt w s
  | .fdiv w => Sys2Proof.Machine.execFdiv w s
  | .fexp2 w => Sys2Proof.Machine.execFexp2 w s
  | .flog2 w => Sys2Proof.Machine.execFlog2 w s
  | .fsin w => Sys2Proof.Machine.execFsin w s
  | .fcos w => Sys2Proof.Machine.execFcos w s
  | .ftanh w => Sys2Proof.Machine.execFtanh w s
  | .fsigm w => Sys2Proof.Machine.execFsigm w s
  | .fcvt w => Sys2Proof.Machine.execFcvt w s
  | .f2i w => Sys2Proof.Machine.execF2i w s
  | .i2f w => Sys2Proof.Machine.execI2f w s
  | .mxq w => Sys2Proof.Machine.execMxq w s
  | .mxdq w => Sys2Proof.Machine.execMxdq w s
  | .q4pk w => Sys2Proof.Machine.execQ4pk w s
  | .q4upk w => Sys2Proof.Machine.execQ4upk w s
  | .fdot w => Sys2Proof.Machine.execFdot w s
  | .pair h x y => Sys2Proof.Machine.execPair h x y s
  | .ld w => Sys2Proof.Machine.execLd w s
  | .st w => Sys2Proof.Machine.execSt w s
  | .lds w => Sys2Proof.Machine.execLds w s
  | .pref w => Sys2Proof.Machine.execPref w s
  | .ldX w => Sys2Proof.Machine.execLdX w s
  | .stX w => Sys2Proof.Machine.execStX w s
  | .sld w => Sys2Proof.Machine.execSld w s
  | .sst w => Sys2Proof.Machine.execSst w s
  | .recld w => Sys2Proof.Machine.execRecld w s
  | .atom w => Sys2Proof.Machine.execAtom w s
  | .incb w => Sys2Proof.Machine.execIncb w s
  | .celladd w => Sys2Proof.Machine.execCelladd w s
  | .cellrd w => Sys2Proof.Machine.execCellrd w s
  | .cellclr w => Sys2Proof.Machine.execCellclr w s
  | .fence w => Sys2Proof.Machine.execFence w s
  | .codefence w => Sys2Proof.Machine.execCodefence w s
  | .rfence w => Sys2Proof.Machine.execRfence w s
  | .opfence w => Sys2Proof.Machine.execOpfence w s
  | .monitor w => Sys2Proof.Machine.execMonitor w s
  | .mwait w => Sys2Proof.Machine.execMwait w s
  | .waita w => Sys2Proof.Machine.execWaita w s
  | .acpy w => Sys2Proof.Machine.execAcpy w s
  | .ckick w => Sys2Proof.Machine.execCkick w s
  | .tbinit w => Sys2Proof.Machine.execTbinit w s
  | .tbexpect w => Sys2Proof.Machine.execTbexpect w s
  | .tbarrive w => Sys2Proof.Machine.execTbarrive w s
  | .tbwait w => Sys2Proof.Machine.execTbwait w s
  | .tbtest w => Sys2Proof.Machine.execTbtest w s
  | .bar w => Sys2Proof.Machine.execBar w s
  | .spawn w => Sys2Proof.Machine.execSpawn w s
  | .xred w => Sys2Proof.Machine.execXred w s
  | .obres w => Sys2Proof.Machine.execObres w s
  | .obrel w => Sys2Proof.Machine.execObrel w s
  | .obst w => Sys2Proof.Machine.execObst w s
  | .obld w => Sys2Proof.Machine.execObld w s
  | .wbld w => Sys2Proof.Machine.execWbld w s
  | .mma w => Sys2Proof.Machine.execMma w s
  | .mmas w => Sys2Proof.Machine.execMmas w s
  | .twait w => Sys2Proof.Machine.execTwait w s
  | .amld w => Sys2Proof.Machine.execAmld w s
  | .amst w => Sys2Proof.Machine.execAmst w s
  | .amzero w => Sys2Proof.Machine.execAmzero w s
  | .amcvt w => Sys2Proof.Machine.execAmcvt w s
  | .prune48 w => Sys2Proof.Machine.execPrune48 w s
  | .bmap w => Sys2Proof.Machine.execBmap w s
  | .spexp w => Sys2Proof.Machine.execSpexp w s
  | .qinit w => Sys2Proof.Machine.execQinit w s
  | .qdeg w => Sys2Proof.Machine.execQdeg w s
  | .qmul w => Sys2Proof.Machine.execQmul w s
  | .qmuls w => Sys2Proof.Machine.execQmuls w s
  | .qdiv w => Sys2Proof.Machine.execQdiv w s
  | .qconv w => Sys2Proof.Machine.execQconv w s
  | .qrd w => Sys2Proof.Machine.execQrd w s
  | .qnorm w => Sys2Proof.Machine.execQnorm w s
  | .qsave w => Sys2Proof.Machine.execQsave w s
  | .qload w => Sys2Proof.Machine.execQload w s
  | .hostAccess op => Sys2Proof.Machine.execHostAccess op s
  | .mailboxResponseReady => Sys2Proof.Machine.execMailboxResponseReady s

end Sys2Proof.Machine
end

