-- ==== Sys2Proof/Machine/Step.lean ====
section
/-!
DEFINITION. One step of the machine: the words chosen by the last issue choice issue first, one a step; otherwise the next entry of the agenda is taken (R67).
-/

namespace Sys2Proof.Machine

/-- Is the step a module reset, which alone follows a removal of power (R408)? -/
def isReset (i : Instr) : Bool :=
  match i with
  | .moduleReset _ => true
  | _ => false

/-- One step. -/
def step (s : State) : Host.Outcome State Fault Refusal :=
  match s.issue with
  | m :: rest =>
    let s1 : State := { s with issue := rest }
    match s1.fetched m with
    | none => .next s1
    | some (e, code) =>
      match decode code with
      | .ok i => exec i { s1 with cur := some ⟨m, e.st, e.pos, s1.cycOf m⟩ }
      | .error d => .next (s1.illegalWord m e d)
  | [] =>
    let r := s.nextSched
    if !s.dev.power && !isReset r.1.ev then .fault .noPower
    else exec r.1.ev (r.2.tick r.1)

/-- The crew that stands for a loaded program (assumption 1): one group of 64 live lanes on core 0, in state 0, with every register block. -/
def probeCrew (code : Code) : Crew :=
  let g := Group.launch 64 64 16 0 0 0 0
  { uid := 0, task := 0, taskId := 0, part := 0, img := 0, unit := 0, core := 0, slot := 0, order := 0, grid := 0, width := 64, rows := 64, param := 0
    region := 0, grant := 0, access := 0, scrKiB := 64, obKiB := 16, obBase := 0, accN := 16, accBase := 0, depth := 0, bars := 16
    groups := [{ g with ents := g.ents.map (fun e => { e with code := [code] }) }]
    resv := [], kicks := [], rdv := [], check := false, phase := .resident, preempt := none, image := none, wbUsed := false, wbSnap := [], stopped := false }

/-- The image of that program: one unit with one block, which is state 0's. -/
def probeImage : Image :=
  ⟨0, 0, 0, 0, 0, [⟨0, true, 1, 4, 16, 16, 64, 16, 16, 0⟩], [0xFFFF], [⟨[0], 0, 1, 0⟩], 4, List.replicate 16 (BitVec.allOnes 128), List.replicate 5 0xFFFF⟩

/-- The state with an instruction placed where the next step fetches: the word that its crew's group issues next. -/
def State.withFetchWord (s : State) (nbits w : Nat) : State :=
  let code := codeOfBytes (bytesOfCode (BitVec.ofNat 96 (w % 2 ^ nbits)) 0 12)
  { s with crews := [probeCrew code], images := [probeImage], issue := [⟨0, 0, 0⟩] }

end Sys2Proof.Machine
end

