-- ==== Sys2Proof/Safety.lean ====
section
/-!
DEFINITION. The terms in which claims are made: safe states, the start of a word, and what a word leaves unchanged.
-/

namespace Sys2Proof

open Machine

/-! ### Memory and runs -/

/-- Memory is in its one canonical form. -/
def MemOk (s : State) : Prop := s.mem.wf = true

/-- A run of n steps from a state, ending in the state it reaches if every step answers a next state. -/
def runSteps (n : Nat) (s : State) : Option State :=
  match n with
  | 0 => some s
  | n + 1 =>
    match step s with
    | .next t => runSteps n t
    | _ => none

/-- A state is safe when memory is canonical after every run that starts in it. -/
def Safe (s : State) : Prop := ∀ n t, runSteps n s = some t → MemOk t

/-! ### The start of a word -/

/-- The lanes for which a word executes: Active, or the entity's lanes for the entity-level words of class 0x20 (R136, R157, R262, R278). -/
def startAct (i : Instr) (c : Ctx) : Word := c.execLanes i

/-- The state in which a word takes effect: its issue is over, and the results that are due have landed (R318). -/
def State.startOf (s : State) (cu : Cur) (c0 : Ctx) : State :=
  let s2 := ({ s with cur := none } : State).modGroup c0.m.crew c0.m.grp (fun g => g.land cu.cyc)
  if (c0.g.land cu.cyc).pend = [] then s2 else s2.nextFree

/-- The word i of the issuing entity starts in state s: its registers lie in held blocks, nothing keeps it waiting, and it meets no early read on a checked crew.
It takes effect in state t and sees what c holds (R12, R21, R318, R320, R324, R325). -/
structure Starts (i : Instr) (s t : State) (c : Ctx) : Prop where
  issuer : ∃ cu c0, s.cur = some cu ∧ s.ctxOf cu.m cu.cyc (instrHdr i).slot = some c0 ∧ c = s.view c0 i ∧ t = State.startOf s cu c0 ∧
    (c.crew.check = false ∨ stallInfo c (c0.g.land cu.cyc).pend (instrHdr i) (instrUses i) (startAct i c) = none)
  legal : c.preMisuse i (startAct i c) = none
  blocks : startAct i c = 0 ∨ unheld c.g (instrUses i).vregs = none
  free : ({ s with cur := none } : State).heldBy c i = false

/-! ### What stays -/

/-- State u differs from t in one group alone: every field, every other crew and every other group is the same, and every byte of memory reads as before. -/
structure OnlyGroup (t u : State) (uid i : Nat) : Prop where
  fields : ({ u with crews := t.crews } : State) = t
  crews : ∀ v, v ≠ uid → u.crew? v = t.crew? v
  crew : ∀ c, t.crew? uid = some c → ∃ gs, u.crew? uid = some { c with groups := gs } ∧ gs.length = c.groups.length ∧ ∀ j, j ≠ i → gs[j]? = c.groups[j]?
  bytes : ∀ r k, u.readKey r k = t.readKey r k

/-- The issuing entity has issued its word: it stands at the next word, which may issue after the STALL count (R160, R161); every other entity is the same. -/
structure Issued (c : Ctx) (h : Hdr) (g g' : Group) : Prop where
  mine : g'.ent? c.m.ent = (g.ent? c.m.ent).map (fun e => { e with pos := e.pos + 1, readyAt := c.cyc + 1 + h.stall.toNat, yh := h.yh, wait := none, issued := c.cyc + 1 })
  others : ∀ j, j ≠ c.m.ent → g'.ent? j = g.ent? j
  number : g'.ents.length = g.ents.length
  handler : g'.handler.map (fun x => ({ x with ent := default } : Handler)) = g.handler.map (fun x => ({ x with ent := default } : Handler))
  group : g'.issued = c.cyc + 1

/-- What a word of fixed latency leaves alone: in its group only results on their way, the places of its entity and lane flags change, and no register changes
before the latency has passed (R318, R319). -/
structure FixedFrame (t u : State) (c : Ctx) (h : Hdr) (lat : Nat) (g g' : Group) : Prop where
  only : OnlyGroup t u c.m.crew c.m.grp
  before : t.group? c.m.crew c.m.grp = some g
  after : u.group? c.m.crew c.m.grp = some g'
  raw : ({ g' with pend := g.pend, mws := g.mws, ents := g.ents, handler := g.handler, issued := g.issued, lanes := g.lanes } : Group) = g
  words : g'.mws.map (fun m => ({ m with clob := [] } : MemWord)) = g.mws.map (fun m => ({ m with clob := [] } : MemWord))
  lanes : g'.lanes.map (fun l => ({ l with flags := 0 } : Lane)) = g.lanes.map (fun l => ({ l with flags := 0 } : Lane))
  issued : Issued c h g g'
  late : ∀ cyc, cyc < c.cyc + lat → (g'.land cyc).v = (g.land cyc).v ∧ (g'.land cyc).p = (g.land cyc).p ∧ (g'.land cyc).s = (g.land cyc).s

/-- No V register but those of a list changes once every result has landed. -/
def SameV (g g' : Group) (but : List Nat) : Prop := ∀ r l, l < 64 → ¬ r ∈ but → g'.landAll.getV r l = g.landAll.getV r l

/-- No S register but those of a list changes. -/
def SameS (g g' : Group) (but : List Nat) : Prop := ∀ r, ¬ r ∈ but → g'.landAll.getS r = g.landAll.getS r

/-- No P register but those of a list changes. -/
def SameP (g g' : Group) (but : List Nat) : Prop := ∀ r l, l < 64 → ¬ r ∈ but → g'.landAll.getP r l = g.landAll.getP r l

/-- The flags of each lane: those it had and those that a word raised in it (R97). -/
def FlagsOr (g g' : Group) (fl : Nat → BitVec 16) : Prop := ∀ l, l < g.lanes.length → (g'.lane l).flags = (g.lane l).flags ||| fl l

/-- The flags that the executing sub-elements of a lane raise. -/
def orFlags (wd : Nat) (ex : Nat → Bool) (f : Nat → BitVec 16) : BitVec 16 := (subs wd).foldl (fun a s => if ex s then a ||| f s else a) 0

/-- V register d holds in each executing sub-element its result and keeps the others (R157, R198). -/
def ElemV (g g' : Group) (d wd : Nat) (ex : Nat → Nat → Bool) (res : Nat → Nat → Nat) : Prop :=
  ∀ l s, l < 64 → s < 64 / wd →
    getSub wd s (g'.landAll.getV d l).toNat = if ex l s then res l s % 2 ^ wd else getSub wd s (g.landAll.getV d l).toNat

/-- S register d holds the result in every sub-element; S0 discards it (R16, R168). -/
def ElemS (g' : Group) (d wd : Nat) (res : Nat → Nat) : Prop :=
  g'.landAll.getS 0 = 0 ∧ (d ≠ 0 → ∀ s, s < 64 / wd → getSub wd s (g'.landAll.getS d).toNat = res s % 2 ^ wd)

/-- P register d holds in the bits of each executing sub-element its truth and keeps the others; P0 reads all ones (R16, R18). -/
def ElemP (g g' : Group) (d wd : Nat) (ex : Nat → Nat → Bool) (res : Nat → Nat → Bool) : Prop :=
  (∀ l, g'.landAll.getP 0 l = 0xFF) ∧
  (d ≠ 0 → ∀ l b, l < 64 → b < 8 → (g'.landAll.getP d l).getLsbD b =
    if ex l (b / (wd / 8)) then res l (b / (wd / 8)) else (g.landAll.getP d l).getLsbD b)

/-- A word that computes per sub-element into a V register runs to its end: every other register stays, and the flags of the executing sub-elements are added
(R97, R157, R198). -/
def ElemRunsV (i : Instr) (h : Hdr) (d : Nat) (s t : State) (c : Ctx) (wd lat : Nat) (ex : Nat → Nat → Bool) (res : Nat → Nat → Nat) (fl : Nat → Nat → BitVec 16) : Prop :=
  ∃ u g g', exec i s = .next (u.deliver c.m.crew c.m.grp) ∧ FixedFrame t u c h lat g g' ∧ SameP g g' [] ∧ SameS g g' [] ∧ SameV g g' [d] ∧
    ElemV g g' d wd ex res ∧ FlagsOr g g' (fun l => orFlags wd (ex l) (fl l))

/-- A word that computes once for the group into an S register runs to its end: nothing happens without an active lane (R168). -/
def ElemRunsS (i : Instr) (h : Hdr) (d : Nat) (s t : State) (c : Ctx) (wd lat : Nat) (res : Nat → Nat) (fl : Nat → BitVec 16) : Prop :=
  ∃ u g g', exec i s = .next (u.deliver c.m.crew c.m.grp) ∧ FixedFrame t u c h lat g g' ∧ SameP g g' [] ∧ SameV g g' [] ∧ SameS g g' [d] ∧
    (if startAct i c = 0 then SameS g g' [] ∧ FlagsOr g g' (fun _ => 0)
     else ElemS g' d wd res ∧ FlagsOr g g' (fun l => if (startAct i c).getLsbD l then orFlags wd (fun _ => true) fl else 0))

/-- A word that computes truths per sub-element into a P register runs to its end. -/
def ElemRunsP (i : Instr) (h : Hdr) (d : Nat) (s t : State) (c : Ctx) (wd lat : Nat) (ex : Nat → Nat → Bool) (res : Nat → Nat → Bool) (fl : Nat → Nat → BitVec 16) : Prop :=
  ∃ u g g', exec i s = .next (u.deliver c.m.crew c.m.grp) ∧ FixedFrame t u c h lat g g' ∧ SameV g g' [] ∧ SameS g g' [] ∧ SameP g g' [d] ∧
    ElemP g g' d wd ex res ∧ FlagsOr g g' (fun l => orFlags wd (ex l) (fl l))

/-- A word that computes per sub-element runs to its end: lane-wise into the V register of DST, or once for the group into its S register; DST is no other operand
in these words (R168, R198). -/
def ElemRuns (i : Instr) (w : Body) (s t : State) (c : Ctx) (wd lat : Nat) (res : Nat → Nat → Nat) (fl : Nat → Nat → BitVec 16) : Prop :=
  match w.dst with
  | .v d => ElemRunsV i w.hdr d.toNat s t c wd lat (c.exec w.hdr wd) res fl
  | .s d => ElemRunsS i w.hdr d.toNat s t c wd lat (res 0) (fl 0)
  | _ => True

/-- A word runs to its end by one change of its group: all else in the machine is as it was when the word started. -/
def GroupRuns (i : Instr) (h : Hdr) (s t : State) (c : Ctx) (f : Group → Group) : Prop :=
  ∃ u g g', exec i s = .next (u.deliver c.m.crew c.m.grp) ∧ OnlyGroup t u c.m.crew c.m.grp ∧ t.group? c.m.crew c.m.grp = some g ∧
    u.group? c.m.crew c.m.grp = some g' ∧ Issued c h (f g) g' ∧ ({ g' with ents := (f g).ents, handler := (f g).handler, issued := (f g).issued } : Group) = f g

/-- A word takes a precise trap and has no other effect (R48, R157). -/
def Traps (i : Instr) (s t : State) (c : Ctx) (cause : BitVec 8) (info : Word) : Prop := exec i s = .next (t.raise c.m cause info)

end Sys2Proof
end

