-- ==== Sys2Proof/Certificates/Slice0/Obligations.lean ====
section
/-!
DEFINITION. The statements about the machine.

Each statement's docstring names the rules of the spec that it formalises.
-/

/-! ### Words of statements -/

namespace Sys2Proof.Claims

open Machine

/-- Sub-element k of the integer source A of lane l. -/
def srcA (w : Body) (c : Ctx) (l k : Nat) : BitVec (intWidth w.ty) := BitVec.ofNat _ (getSub (intWidth w.ty) k (c.iA w (intWidth w.ty) l))

/-- Sub-element k of the integer source B of lane l. -/
def srcB (w : Body) (c : Ctx) (l k : Nat) : BitVec (intWidth w.ty) := BitVec.ofNat _ (getSub (intWidth w.ty) k (c.iB w (intWidth w.ty) l))

/-- Sub-element k of the integer source C of lane l. -/
def srcC (w : Body) (c : Ctx) (l k : Nat) : BitVec (intWidth w.ty) := BitVec.ofNat _ (getSub (intWidth w.ty) k (c.iC w l))

/-- Val: a sub-element read as unsigned or as two's complement (R198). -/
def val (u : Bool) {n : Nat} (x : BitVec n) : Int := if u then (x.toNat : Int) else x.toInt

/-- Sat: a value clamped to the unsigned or signed range of n bits (R198). -/
def sat (u : Bool) (n : Nat) (v : Int) : Int :=
  if u then max 0 (min v (2 ^ n - 1)) else max (-(2 ^ (n - 1))) (min v (2 ^ (n - 1) - 1))

/-- The flag SAT where clamping changes a value (R97). -/
def satFlag (u : Bool) (n : Nat) (v : Int) : BitVec 16 := if sat u n v = v then 0 else 0x80

/-- No flag. -/
def noFlag (_ _ : Nat) : BitVec 16 := 0

/-- The latency of a division by width (R319). -/
def divLatency (ty : BitVec 3) : Nat := if intWidth ty ≤ 16 then 12 else if intWidth ty = 32 then 20 else 32

end Sys2Proof.Claims

open Sys2Proof Sys2Proof.Machine Sys2Proof.Claims

/-! ### Integer words -/

/-- R198, R200, R319: the add group. For each executing sub-element the result of the entry, the flag SAT where a clamp changes the value, and nothing else. -/
def Obligations.AddGroupResults : Prop := ∀ (w : Body) (s t : State) (c : Ctx),
  let n := intWidth w.ty
  let a := srcA w c
  let b := srcB w c
  let d := srcC w c
  (Starts (.iadd w) s t c → ElemRuns (.iadd w) w s t c n 4 (fun l k => (a l k + b l k).toNat) noFlag) ∧
  (Starts (.isub w) s t c → ElemRuns (.isub w) w s t c n 4 (fun l k => (a l k - b l k).toNat) noFlag) ∧
  (Starts (.iadds w) s t c → ElemRuns (.iadds w) w s t c n 4
    (fun l k => (BitVec.ofInt n (sat w.uns n (val w.uns (a l k) + val w.uns (b l k)))).toNat)
    (fun l k => satFlag w.uns n (val w.uns (a l k) + val w.uns (b l k)))) ∧
  (Starts (.isubs w) s t c → ElemRuns (.isubs w) w s t c n 4
    (fun l k => (BitVec.ofInt n (sat w.uns n (val w.uns (a l k) - val w.uns (b l k)))).toNat)
    (fun l k => satFlag w.uns n (val w.uns (a l k) - val w.uns (b l k)))) ∧
  (Starts (.ineg w) s t c → ElemRuns (.ineg w) w s t c n 4
    (fun l k => if w.sat then (BitVec.ofInt n (sat false n (-(a l k).toInt))).toNat else (-(a l k)).toNat)
    (fun l k => if w.sat then satFlag false n (-(a l k).toInt) else 0)) ∧
  (Starts (.iabs w) s t c → ElemRuns (.iabs w) w s t c n 4
    (fun l k => if w.sat then (BitVec.ofInt n (sat false n |(a l k).toInt|)).toNat else (BitVec.ofInt n |(a l k).toInt|).toNat)
    (fun l k => if w.sat then satFlag false n |(a l k).toInt| else 0)) ∧
  (Starts (.imin w) s t c → ElemRuns (.imin w) w s t c n 4
    (fun l k => (if val w.uns (a l k) ≤ val w.uns (b l k) then a l k else b l k).toNat) noFlag) ∧
  (Starts (.imax w) s t c → ElemRuns (.imax w) w s t c n 4
    (fun l k => (if val w.uns (b l k) ≤ val w.uns (a l k) then a l k else b l k).toNat) noFlag) ∧
  (Starts (.iclamp w) s t c → ElemRuns (.iclamp w) w s t c n 4
    (fun l k => (if val w.uns (d l k) < val w.uns (a l k) ∨ val w.uns (d l k) < val w.uns (b l k) then d l k
      else if val w.uns (a l k) < val w.uns (b l k) then b l k else a l k).toNat) noFlag) ∧
  (Starts (.isad w) s t c → ElemRuns (.isad w) w s t c n 4
    (fun l k => (BitVec.ofInt n |val w.uns (a l k) - val w.uns (b l k)| + d l k).toNat) noFlag)

/-- R198, R201, R319: products, quotients and remainders, with the flags IDZ and IOV. -/
def Obligations.MultiplyDivideResults : Prop := ∀ (w : Body) (s t : State) (c : Ctx),
  let n := intWidth w.ty
  let a := srcA w c
  let b := srcB w c
  let zero := fun (l k : Nat) => val w.uns (b l k) = 0
  let ovf := fun (l k : Nat) => w.uns = false ∧ (a l k).toInt = -(2 ^ (n - 1)) ∧ (b l k).toInt = -1
  let flags := fun (l k : Nat) => if zero l k then (0x20 : BitVec 16) else if ovf l k then 0x40 else 0
  (Starts (.imul w) s t c → ElemRuns (.imul w) w s t c n 6 (fun l k => (a l k * b l k).toNat) noFlag) ∧
  (Starts (.imulh w) s t c → ElemRuns (.imulh w) w s t c n 6
    (fun l k => ((BitVec.ofInt (2 * n) (val w.uns (a l k) * val w.uns (b l k))).extractLsb' n n).toNat) noFlag) ∧
  (Starts (.imad w) s t c → ElemRuns (.imad w) w s t c n 6 (fun l k => (a l k * b l k + srcC w c l k).toNat) noFlag) ∧
  (Starts (.idiv w) s t c → ElemRuns (.idiv w) w s t c n (divLatency w.ty)
    (fun l k => if zero l k then 2 ^ n - 1 else (BitVec.ofInt n ((val w.uns (a l k)).tdiv (val w.uns (b l k)))).toNat) flags) ∧
  (Starts (.irem w) s t c → ElemRuns (.irem w) w s t c n (divLatency w.ty)
    (fun l k => if zero l k then (a l k).toNat else (BitVec.ofInt n ((val w.uns (a l k)).tmod (val w.uns (b l k)))).toNat) flags)

/-- R198, R202, R319: the bitwise words; TERN by its truth table. -/
def Obligations.LogicResults : Prop := ∀ (w : Body) (s t : State) (c : Ctx),
  let n := intWidth w.ty
  let a := srcA w c
  let b := srcB w c
  let d := srcC w c
  (Starts (.and w) s t c → ElemRuns (.and w) w s t c n 2 (fun l k => (a l k &&& b l k).toNat) noFlag) ∧
  (Starts (.or w) s t c → ElemRuns (.or w) w s t c n 2 (fun l k => (a l k ||| b l k).toNat) noFlag) ∧
  (Starts (.xor w) s t c → ElemRuns (.xor w) w s t c n 2 (fun l k => (a l k ^^^ b l k).toNat) noFlag) ∧
  (Starts (.andn w) s t c → ElemRuns (.andn w) w s t c n 2 (fun l k => (a l k &&& ~~~(b l k)).toNat) noFlag) ∧
  (Starts (.not w) s t c → ElemRuns (.not w) w s t c n 2 (fun l k => (~~~(a l k)).toNat) noFlag) ∧
  (Starts (.tern w) s t c → ElemRuns (.tern w) w s t c n 2
    (fun l k => (BitVec.ofBoolListLE ((List.range n).map (fun i =>
      w.imm8.testBit (4 * ((d l k).getLsbD i).toNat + 2 * ((b l k).getLsbD i).toNat + ((a l k).getLsbD i).toNat)))).toNat) noFlag)

/-- R198, R203, R319: shifts and rotates; the amount is the whole unsigned value of its sub-element. -/
def Obligations.ShiftResults : Prop := ∀ (w : Body) (s t : State) (c : Ctx),
  let n := intWidth w.ty
  let a := srcA w c
  let b := srcB w c
  let amt := fun (l k : Nat) => (b l k).toNat
  (Starts (.shl w) s t c → ElemRuns (.shl w) w s t c n 2 (fun l k => (a l k <<< amt l k).toNat) noFlag) ∧
  (Starts (.shr w) s t c → ElemRuns (.shr w) w s t c n 2 (fun l k => (a l k >>> amt l k).toNat) noFlag) ∧
  (Starts (.sar w) s t c → ElemRuns (.sar w) w s t c n 2 (fun l k => ((a l k).sshiftRight (amt l k)).toNat) noFlag) ∧
  (Starts (.rol w) s t c → ElemRuns (.rol w) w s t c n 2 (fun l k => ((a l k).rotateLeft (amt l k)).toNat) noFlag) ∧
  (Starts (.ror w) s t c → ElemRuns (.ror w) w s t c n 2 (fun l k => ((a l k).rotateRight (amt l k)).toNat) noFlag) ∧
  (Starts (.fsh w) s t c → ElemRuns (.fsh w) w s t c n 4
    (fun l k => if w.sub = 1 then (((a l k ++ b l k) <<< (srcC w c l k).toNat).extractLsb' n n).toNat
      else (((a l k ++ b l k) >>> (srcC w c l k).toNat).setWidth n).toNat) noFlag)

/-- R198, R204, R205, R319: counts, reversal, and the extraction and insertion of bit fields, whose control is the whole register of the lane. -/
def Obligations.BitOperationResults : Prop := ∀ (w : Body) (s t : State) (c : Ctx),
  let n := intWidth w.ty
  let a := srcA w c
  let pos := fun (x : Nat) => x % 256
  let len := fun (x : Nat) => min (x / 256 % 256) n
  (Starts (.popc w) s t c → ElemRuns (.popc w) w s t c n 4
    (fun l k => ((List.range n).filter (fun i => (a l k).getLsbD i)).length) noFlag) ∧
  (Starts (.clz w) s t c → ElemRuns (.clz w) w s t c n 4
    (fun l k => ((List.range n).filter (fun i => (List.range n).all (fun j => decide (j < i) || !(a l k).getLsbD j))).length) noFlag) ∧
  (Starts (.ctz w) s t c → ElemRuns (.ctz w) w s t c n 4
    (fun l k => ((List.range n).filter (fun i => (List.range n).all (fun j => decide (i < j) || !(a l k).getLsbD j))).length) noFlag) ∧
  (Starts (.brev w) s t c → ElemRuns (.brev w) w s t c n 4 (fun l k => (a l k).reverse.toNat) noFlag) ∧
  (Starts (.bfe w) s t c → ElemRuns (.bfe w) w s t c n 4
    (fun l k => let x := c.iB w n l
      if w.uns then ((a l k >>> pos x).setWidth (len x)).toNat
      else ((((a l k).sshiftRight (pos x)).setWidth (len x)).signExtend n).toNat) noFlag) ∧
  (Starts (.bfi w) s t c → ElemRuns (.bfi w) w s t c n 4
    (fun l k => let x := c.iC w l
      let m := BitVec.ofNat n (2 ^ len x - 1) <<< pos x
      ((srcB w c l k &&& ~~~m) ||| ((a l k <<< pos x) &&& m)).toNat) noFlag)

/-- R18, R198, R206, R207, R319: the compare into a predicate, the select by a predicate bit, and the moves; MOVI is a 64-bit word, whose TYPE is 3. -/
def Obligations.CompareSelectMoveResults : Prop := ∀ (w : Body) (s t : State) (c : Ctx),
  let n := intWidth w.ty
  let a := srcA w c
  let b := srcB w c
  (∀ d, w.dst = .p d → w.sub ≤ 5 → Starts (.icmp w) s t c → ElemRunsP (.icmp w) w.hdr d.toNat s t c n 4 (c.exec w.hdr n)
    (fun l k => let x := val w.uns (a l k)
      let y := val w.uns (b l k)
      match w.sub with
      | 0 => decide (x = y)
      | 1 => !decide (x = y)
      | 2 => decide (x < y)
      | 3 => !decide (x < y)
      | 4 => !decide (y < x)
      | _ => decide (y < x)) noFlag) ∧
  (Starts (.sel w) s t c → ElemRuns (.sel w) w s t c n 2
    (fun l k => (if (c.val w.c 0 l).testBit (n / 8 * k) then a l k else b l k).toNat) noFlag) ∧
  (Starts (.mov w) s t c → ElemRuns (.mov w) w s t c n 2 (fun l k => (a l k).toNat) noFlag) ∧
  (w.ty = 3 → Starts (.movi w) s t c → ElemRuns (.movi w) w s t c 64 2
    (fun l _ => let x : BitVec 64 := BitVec.ofNat 64 (c.val w.a 0 l)
      (if w.sub = 0 then (x &&& 0xFFFFFFFF00000000) ||| w.imm.setWidth 64 else w.imm ++ x.setWidth 32).toNat) noFlag)

/-- R198, R208, R319: the width changes, whose guard is tested on the destination sub-element. -/
def Obligations.WidthChangeResults : Prop := ∀ (w : Body) (s t : State) (c : Ctx),
  let n := intWidth w.ty
  let m := 64 / n
  let half := if w.sub = 1 then 1 else 0
  let wide := fun (x k : Nat) => BitVec.ofNat (2 * n) (getSub (2 * n) k x)
  let narrow := fun (v : Int) => (BitVec.ofInt n (sat w.uns n v)).toNat
  (16 ≤ n → Starts (.iext w) s t c → ElemRuns (.iext w) w s t c n 4
    (fun l k => let x := BitVec.ofNat (n / 2) (getSub (n / 2) (k + m * half) (c.iA w (n / 2) l))
      (if w.uns then x.setWidth n else x.signExtend n).toNat) noFlag) ∧
  (n ≤ 32 → Starts (.inarrow w) s t c → ElemRuns (.inarrow w) w s t c n 4
    (fun l k => let x := wide (c.iA w (2 * n) l) k
      if m / 2 ≤ k then 0 else if w.sat then narrow (val w.uns x) else (x.setWidth n).toNat)
    (fun l k => if k < m / 2 ∧ w.sat = true then satFlag w.uns n (val w.uns (wide (c.iA w (2 * n) l) k)) else 0)) ∧
  (n ≤ 32 → Starts (.pack w) s t c → ElemRuns (.pack w) w s t c n 4
    (fun l k => narrow (if k < m / 2 then wide (c.iA w (2 * n) l) k else wide (c.iB w (2 * n) l) (k - m / 2)).toInt)
    (fun l k => satFlag w.uns n (if k < m / 2 then wide (c.iA w (2 * n) l) k else wide (c.iB w (2 * n) l) (k - m / 2)).toInt)) ∧
  (n ≤ 32 → Starts (.unpack w) s t c → ElemRuns (.unpack w) w s t c n 4
    (fun l k => (if k % 2 = 0 then srcA w c l (k / 2 + m / 2 * half) else srcB w c l (k / 2 + m / 2 * half)).toNat) noFlag)

/-! ### Predicate logic and words across lanes -/

/-- R18, R196, R319: logic on the predicate bits that name the executing sub-elements. -/
def Obligations.PredicateLogicResults : Prop := ∀ (w : Body) (d : BitVec 4) (s t : State) (c : Ctx), w.dst = .p d →
  let n := intWidth w.ty
  let x := fun (l k : Nat) => (c.val w.a 0 l).testBit (n / 8 * k)
  let y := fun (l k : Nat) => (c.val w.b 0 l).testBit (n / 8 * k)
  (Starts (.pand w) s t c → ElemRunsP (.pand w) w.hdr d.toNat s t c n 2 (c.exec w.hdr n) (fun l k => x l k && y l k) noFlag) ∧
  (Starts (.por w) s t c → ElemRunsP (.por w) w.hdr d.toNat s t c n 2 (c.exec w.hdr n) (fun l k => x l k || y l k) noFlag) ∧
  (Starts (.pxor w) s t c → ElemRunsP (.pxor w) w.hdr d.toNat s t c n 2 (c.exec w.hdr n) (fun l k => xor (x l k) (y l k)) noFlag) ∧
  (Starts (.pnot w) s t c → ElemRunsP (.pnot w) w.hdr d.toNat s t c n 2 (c.exec w.hdr n) (fun l k => !x l k) noFlag)

namespace Sys2Proof.Claims

open Machine

/-- The value at a source position if it is readable, else the lane's own (R209, R210). -/
def atPosition (w : Body) (c : Ctx) (g : Int) (l k : Nat) : Nat :=
  let n := intWidth w.ty
  let m := 64 / n
  if 0 ≤ g ∧ g < c.crew.width * m ∧ c.ent.lanes.getLsbD (g.toNat / m) = true then getSub n (g.toNat % m) (c.val w.a 0 (g.toNat / m))
  else getSub n k (c.val w.a 0 l)

/-- The executing positions of an entity in ascending order (R213). -/
def positions (w : Body) (c : Ctx) : List (Nat × Nat) :=
  (List.range 64).flatMap (fun l => ((List.range (64 / intWidth w.ty)).filter (fun k => c.exec w.hdr (intWidth w.ty) l k)).map (fun k => (l, k)))

/-- The values of a sub-element position in the executing lanes, ascending, of lanes that satisfy a test (R211). -/
def scanned (w : Body) (c : Ctx) (k : Nat) (p : Nat → Bool) : List Nat :=
  ((List.range 64).filter (fun l => c.exec w.hdr (intWidth w.ty) l k && p l)).map (fun l => getSub (intWidth w.ty) k (c.val w.a 0 l))

/-- The identity of a scan's operator (R211). -/
def identity (w : Body) : Nat :=
  let n := intWidth w.ty
  match w.sub with
  | 1 => if w.uns then 2 ^ n - 1 else 2 ^ (n - 1) - 1
  | 2 => if w.uns then 0 else 2 ^ (n - 1)
  | 3 => 2 ^ n - 1
  | 8 => 2 ^ (n - 1)
  | 9 => packInf (fmtOf w.ty2) false
  | 10 => packInf (fmtOf w.ty2) true
  | _ => 0

/-- P_k over a list of values, with the flags raised while forming it (R211). -/
def scanFold (w : Body) (vs : List Nat) : Res :=
  match vs with
  | [] => (identity w, 0)
  | v :: rest => rest.foldl (fun p x => ((scanOp w (intWidth w.ty) p.1 x).1, p.2 ||| (scanOp w (intWidth w.ty) p.1 x).2)) (scanFirst w v)

end Sys2Proof.Claims

/-- R209, R210, R319: SHFL and BCAST read another position where that is readable, and the lane's own position where not. -/
def Obligations.ShuffleResults : Prop := ∀ (w : Body) (d : BitVec 8) (s t : State) (c : Ctx), w.dst = .v d →
  let n := intWidth w.ty
  let m := 64 / n
  let delta := w.imm8 * m + w.ssel
  (w.sub ≤ 3 → Starts (.shfl w) s t c → ElemRunsV (.shfl w) w.hdr d.toNat s t c n 6 (c.exec w.hdr n)
    (fun l k => atPosition w c (match w.sub with
      | 0 => (getSub n k (c.val w.b 0 l) : Int)
      | 1 => ((l * m + k : Nat) : Int) - delta
      | 2 => ((l * m + k : Nat) : Int) + delta
      | _ => (((l * m + k) ^^^ delta : Nat) : Int)) l k) noFlag) ∧
  (Starts (.bcast w) s t c → ElemRunsV (.bcast w) w.hdr d.toNat s t c n 6 (c.exec w.hdr n) (fun l k => atPosition w c (delta : Int) l k) noFlag)

/-- R211, R319: LSCAN leaves in each executing lane the fold of the values of the lanes up to it, or with .excl below it; LRED leaves the fold of all of them. -/
def Obligations.ScanResults : Prop := ∀ (w : Body) (d : BitVec 8) (s t : State) (c : Ctx), w.dst = .v d →
  let n := intWidth w.ty
  let lat := if w.ty2 = 3 then 14 else 10
  let below := fun (l x : Nat) => if w.imm8 % 2 = 1 then decide (x < l) else decide (x ≤ l)
  (Starts (.lscan w) s t c → ElemRunsV (.lscan w) w.hdr d.toNat s t c n lat (c.exec w.hdr n)
    (fun l k => (scanFold w (scanned w c k (below l))).1) (fun l k => (scanFold w (scanned w c k (below l))).2)) ∧
  (Starts (.lred w) s t c → ElemRunsV (.lred w) w.hdr d.toNat s t c n lat (c.exec w.hdr n)
    (fun _ k => (scanFold w (scanned w c k (fun _ => true))).1) (fun _ k => (scanFold w (scanned w c k (fun _ => true))).2))

/-- R199, R212, R213, R319: RGATH reads the lane's own register of number base plus index, or traps REGBLOCK and writes nothing if any such register is not held;
COMPACT moves the selected positions down and gives 0 to those beyond them. -/
def Obligations.GatherCompactResults : Prop := ∀ (w : Body) (d a : BitVec 8) (s t : State) (c : Ctx), w.dst = .v d → w.a = .v a →
  let n := intWidth w.ty
  let reg := fun (l k : Nat) => a.toNat + getSub n k (c.val w.b 0 l)
  let fails := fun (l k : Nat) => c.exec w.hdr n l k = true ∧ (255 < reg l k ∨ c.g.nblk ≤ reg l k / 16)
  (Starts (.rgath w) s t c → (∀ l k, l < 64 → k < 64 / n → ¬ fails l k) →
    ElemRunsV (.rgath w) w.hdr d.toNat s t c n 6 (c.exec w.hdr n) (fun l k => getSub n k (c.g.getV (reg l k) l).toNat) noFlag) ∧
  (Starts (.rgath w) s t c → (∃ l k, l < 64 ∧ k < 64 / n ∧ fails l k) →
    ∃ l k, l < 64 ∧ k < 64 / n ∧ fails l k ∧ (∀ l', l' < l → ∀ k', k' < 64 / n → ¬ fails l' k') ∧
      Traps (.rgath w) s t c 0x11
        (BitVec.ofNat 64 (c.st + c.pos * 2 ^ 16 + (if 255 < reg l k then 0x1FF else reg l k) * 2 ^ 32 + l * 2 ^ 41))) ∧
  (Starts (.compact w) s t c → ElemRunsV (.compact w) w.hdr d.toNat s t c n 8 (c.exec w.hdr n)
    (fun l k => ((((positions w c).filter (fun p => (c.val w.b 0 p.1).testBit (n / 8 * p.2))).map (fun p => getSub n p.2 (c.val w.a 0 p.1)))[(positions w c).idxOf (l, k)]?).getD 0)
    noFlag)

/-! ### System words -/

namespace Sys2Proof.Claims

open Machine

/-- The value of a system register in a lane (R25, R189). -/
def sysValue (t : State) (c : Ctx) (r : SysReg) (l : Nat) : Nat :=
  match r with
  | .laneid => l
  | .grpidx => c.m.grp
  | .crewid => c.crew.slot
  | .taskid => c.crew.taskId.toNat
  | .gridix => c.crew.grid.toNat
  | .core => c.crew.core
  | .cluster => c.crew.core / 8
  | .die => c.crew.core / 80
  | .width => c.crew.width
  | .ngroup => c.crew.groups.length
  | .rows => c.crew.rows.toNat
  | .state => c.st
  | .split => if c.m.ent = handlerIdx then (c.g.handler.bind (·.trapped)).getD 15 else if c.g.isSplit then c.m.ent else 15
  | .defmask => c.g.defMask.toNat
  | .clock => t.clock.toNat
  | .memcap => t.dev.capLive.toNat * 2 ^ 20
  | .mapphase => t.dev.phase.toNat
  | .param => c.crew.param.toNat
  | .trapcause => c.g.cause.toNat
  | .trapinfo => c.g.info.toNat
  | .flags => (c.g.lane l).flags.toNat
  | .prio => t.prio c.crew c.g
  | .block => (c.g.lane l).occ.toNat + (if (c.g.lane l).valid then 2 ^ 16 else 0)
  | .obbase => if c.crew.obKiB = 0 then 0 else c.crew.obBase
  | .accbase => if c.crew.accN = 0 then 0 else c.crew.accBase

/-- The executing lanes of a whole-lane word. -/
def whole (i : Instr) (c : Ctx) (l : Nat) (_ : Nat) : Bool := (startAct i c).getLsbD l

/-- A P register of a whole lane gets all ones or all zeros in the active lanes, at once for a word that waits for its effect. -/
def truths (i : Instr) (c : Ctx) (o : Opnd) (b : Bool) : List RegW :=
  match o with
  | .p d => (lanesOf (startAct i c)).map (fun l => RegW.p d.toNat l 0xFF (if b then 0xFF else 0))
  | _ => []

end Sys2Proof.Claims

/-- R25, R189, R190, R193, R319: SRD and BRRD write the named value to the whole V register of each active lane, or once to an S register. -/
def Obligations.SystemReadResults : Prop := ∀ (w : Body) (s t : State) (c : Ctx),
  (∀ r d, w.a = .sys r → w.dst = .v d → Starts (.srd w) s t c →
    ElemRunsV (.srd w) w.hdr d.toNat s t c 64 2 (whole (.srd w) c) (fun l _ => sysValue t c r l) noFlag) ∧
  (∀ r d, w.a = .sys r → w.dst = .s d → Starts (.srd w) s t c → ElemRunsS (.srd w) w.hdr d.toNat s t c 64 2 (fun _ => sysValue t c r 0) (fun _ => 0)) ∧
  (∀ b d, w.a = .b b → w.dst = .v d → Starts (.brrd w) s t c →
    ElemRunsV (.brrd w) w.hdr d.toNat s t c 64 2 (whole (.brrd w) c) (fun _ _ => ((c.g.getB b.toNat).extractLsb' (64 * w.ssel) 64).toNat) noFlag) ∧
  (∀ b d, w.a = .b b → w.dst = .s d → Starts (.brrd w) s t c →
    ElemRunsS (.brrd w) w.hdr d.toNat s t c 64 2 (fun _ => ((c.g.getB b.toNat).extractLsb' (64 * w.ssel) 64).toNat) (fun _ => 0))

/-- R194, R195, R319: VOTE over the active lanes, and the split queries. -/
def Obligations.VoteAndSplitQueryResults : Prop := ∀ (w : Body) (s t : State) (c : Ctx),
  let act := startAct (.vote w) c
  let m := maskOf ((lanesOf act).filter (fun l => (c.val w.a 0 l).testBit 0))
  (∀ d, w.dst = .p d → w.sub ≤ 1 → Starts (.vote w) s t c →
    ElemRunsP (.vote w) w.hdr d.toNat s t c 8 4 (whole (.vote w) c) (fun _ _ => if w.sub = 0 then decide (m ≠ 0) else decide (m = act)) noFlag) ∧
  (∀ d, w.dst = .s d → 2 ≤ w.sub → Starts (.vote w) s t c →
    ElemRunsS (.vote w) w.hdr d.toNat s t c 64 4 (fun _ => if w.sub = 2 then m.toNat else (lanesOf m).length) (fun _ => 0)) ∧
  (∀ d, w.dst = .s d → w.sub ≤ 4 → Starts (.splitq w) s t c → ElemRunsS (.splitq w) w.hdr d.toNat s t c 64 2
    (fun _ => match w.sub with
      | 0 => c.ent.lanes.toNat
      | 1 => if c.m.ent = handlerIdx then 1 else max 1 c.g.ents.length
      | 2 => c.g.deferred.length
      | 3 => (lanesIn c.g.parked).toNat
      | _ => ((c.g.deferred.head?).map (·.1)).getD 0xFFFF) (fun _ => 0))

/-- R26, R97, R190, R193: SWR of FLAGS writes bits 7:0 of each active lane, SWR of PRIO the requested priority, BRWR a quarter of a buffer record with bits 255:151
zero; nothing else changes. -/
def Obligations.SystemWriteResults : Prop := ∀ (w : Body) (s t : State) (c : Ctx),
  (w.dst = .sys .flags → Starts (.swr w) s t c → GroupRuns (.swr w) w.hdr s t c (fun g =>
    { g with lanes := g.lanes.mapIdx (fun i x => if (startAct (.swr w) c).getLsbD i then
        { x with flags := BitVec.ofNat 16 (c.val w.a w.imm.toNat i % 256) } else x) })) ∧
  (w.dst = .sys .prio → startAct (.swr w) c ≠ 0 → Starts (.swr w) s t c → GroupRuns (.swr w) w.hdr s t c (fun g =>
    { g with prioW := some (BitVec.ofNat 8 (c.val w.a w.imm.toNat 0)) })) ∧
  (∀ b, w.dst = .b b → startAct (.brwr w) c ≠ 0 → Starts (.brwr w) s t c → ∃ g g' u, exec (.brwr w) s = .next (u.deliver c.m.crew c.m.grp) ∧
    OnlyGroup t u c.m.crew c.m.grp ∧ t.group? c.m.crew c.m.grp = some g ∧ u.group? c.m.crew c.m.grp = some g' ∧ Issued c w.hdr g g' ∧
    ({ g' with b := g.b, ents := g.ents, handler := g.handler, issued := g.issued } : Group) = g ∧
    (∀ r, r ≠ b.toNat → g'.getB r = g.getB r) ∧
    ∀ q, q < 4 → (g'.getB b.toNat).extractLsb' (64 * q) 64 =
      (if q = w.ssel then BitVec.ofNat 64 (c.val w.a 0 0) else (g.getB b.toNat).extractLsb' (64 * q) 64) &&& (BitVec.ofNat 256 (2 ^ 151 - 1)).extractLsb' (64 * q) 64)

namespace Sys2Proof.Claims

open Machine

/-- The cores of u are those of t, but that no queued QRD of the issuing group writes a register of the blocks at and above a count any more (R23). -/
def NoReadsOf (t u : State) (c : Ctx) (n : Nat) : Prop :=
  u.cores.map (fun k => ({ k with beryl := [] } : Machine.Core)) = t.cores.map (fun k => ({ k with beryl := [] } : Machine.Core)) ∧
    ((∀ k ∈ t.cores, ∀ b ∈ k.beryl, b.crew = c.crew.uid → b.grp = c.m.grp → b.op.cut n = b.op) → u.cores = t.cores) ∧
    ∀ i, (u.core i).beryl = (t.core i).beryl.map (fun b => if i = c.crew.core ∧ b.crew = c.crew.uid ∧ b.grp = c.m.grp then { b with op := b.op.cut n } else b)

end Sys2Proof.Claims

/-- R21, R22, R23, R191: RACQ raises the block count when the granules are free and no request is served before it, and waits else; RACQ.try says whether it did;
RREL discards the blocks at and above the count, with the results still on their way to them; more than 16 blocks is a misuse. Model's readings: log 14. -/
def Obligations.RegisterBlockResults : Prop := ∀ (w : Body) (s t : State) (c : Ctx),
  let n := c.uval w w.a
  let fits := (n - c.g.nblk) * (c.crew.width / 8) ≤ 1024 - t.granules c.crew.core ∧ (t.racqWaits c.crew.core).all (fun r => decide (r.2.2.2 < t.prio c.crew c.g)) = true
  (Starts (.racq w) s t c → startAct (.racq w) c ≠ 0 → n ≤ 16 → n ≤ c.g.nblk → GroupRuns (.racq w) w.hdr s t c (fun g => g)) ∧
  (Starts (.racq w) s t c → startAct (.racq w) c ≠ 0 → n ≤ 16 → c.g.nblk < n → fits →
    GroupRuns (.racq w) w.hdr s t c (fun g => { g with nblk := max g.nblk n })) ∧
  (Starts (.racq w) s t c → startAct (.racq w) c ≠ 0 → n ≤ 16 → c.g.nblk < n → ¬ fits → exec (.racq w) s = .next (t.waits c w.hdr (.racq n c.cyc))) ∧
  (Starts (.racqTry w) s t c → startAct (.racqTry w) c ≠ 0 → n ≤ 16 → (n ≤ c.g.nblk ∨ fits) →
    GroupRuns (.racqTry w) w.hdr s t c (fun g => ({ g with nblk := max g.nblk n } : Group).writeNow (truths (.racqTry w) c w.dst true))) ∧
  (Starts (.racqTry w) s t c → startAct (.racqTry w) c ≠ 0 → n ≤ 16 → ¬ (n ≤ c.g.nblk ∨ fits) →
    GroupRuns (.racqTry w) w.hdr s t c (fun g => g.writeNow (truths (.racqTry w) c w.dst false))) ∧
  (Starts (.rrel w) s t c → startAct (.rrel w) c ≠ 0 → n ≤ 16 → c.g.nblk ≤ n → GroupRuns (.rrel w) w.hdr s t c (fun g => g)) ∧
  (Starts (.rrel w) s t c → startAct (.rrel w) c ≠ 0 → n < c.g.nblk → n ≤ 16 → ∃ u g g', exec (.rrel w) s = .next (u.deliver c.m.crew c.m.grp) ∧
    OnlyGroup { t with cores := u.cores } u c.m.crew c.m.grp ∧ NoReadsOf t u c n ∧
    t.group? c.m.crew c.m.grp = some g ∧ u.group? c.m.crew c.m.grp = some g' ∧ Issued c w.hdr g g' ∧
    g'.nblk = n ∧ (∀ r l, l < 64 → g'.getV r l = if r < 16 * n then g.getV r l else 0) ∧
    g'.mws = g.mws.map (fun m => { m with dst := m.dst.cut n }) ∧
    ({ g' with v := g.v, nblk := g.nblk, pend := g.pend, mws := g.mws, ents := g.ents, handler := g.handler, issued := g.issued } : Group) = g) ∧
  (16 < n → (Starts (.racq w) s t c → startAct (.racq w) c ≠ 0 → ∃ info, Traps (.racq w) s t c 0x10 info) ∧
    (Starts (.racqTry w) s t c → startAct (.racqTry w) c ≠ 0 → ∃ info, Traps (.racqTry w) s t c 0x10 info) ∧
    (Starts (.rrel w) s t c → startAct (.rrel w) c ≠ 0 → ∃ info, Traps (.rrel w) s t c 0x10 info))

/-- R192: GANG writes the gang register in entry order, or clears it with COUNT 0, and raises ILLEGAL where COUNT is 1 or 7, a reserved bit is set, an index is at or above
NGROUP, two indices are equal, or the group's own index is absent; nothing else changes, so operations accepted before keep their gang. -/
def Obligations.GangResults : Prop := ∀ (w : Body) (s t : State) (c : Ctx), Starts (.gang w) s t c → startAct (.gang w) c ≠ 0 →
  let x := c.uval w w.a
  let count := x / 2 ^ 24 % 8
  let list := (List.range count).map (fun i => x / 2 ^ (4 * i) % 16)
  let good := x < 2 ^ 27 ∧ (count = 0 ∨ (2 ≤ count ∧ count ≤ 6 ∧ (∀ i ∈ list, i < c.crew.groups.length) ∧ list.Nodup ∧ c.m.grp ∈ list))
  (good → GroupRuns (.gang w) w.hdr s t c (fun g => { g with gang := list })) ∧
  (¬ good → ∃ info, Traps (.gang w) s t c 0x10 info)

/-! ### Control words -/

namespace Sys2Proof.Claims

open Machine

/-- The active lanes of a word. -/
def active (i : Instr) (c : Ctx) (l : Nat) : Bool := (startAct i c).getLsbD l

/-- No active lane has executed CALL, CALLX or RET in its state (R182). -/
def MayBranch (i : Instr) (c : Ctx) : Prop := ∀ l, active i c l = true → (c.g.lane l).called = false

/-- Change the active lanes of a group. -/
def onActive (i : Instr) (c : Ctx) (f : Nat → Lane → Lane) (g : Group) : Group :=
  { g with lanes := g.lanes.mapIdx (fun l x => if active i c l then f l x else x) }

/-- The fall-throughs of the blocks that the active lanes occupy, and the state in which the fetch unit has read their descriptors, lane by lane (R28, R315). -/
def falls (i : Instr) (t : State) (c : Ctx) : State × List (Nat × Nat) := t.falls c (lanesOf (startAct i c))

/-- The fall-through of the block that a lane occupies (R28). -/
def fallOf (i : Instr) (t : State) (c : Ctx) (l : Nat) : Nat := (((falls i t c).2.find? (fun e => e.1 == l)).map (·.2)).getD 0

/-- TRAPINFO of a misuse that an entry names (R173): STATEID, WORD, WHY 7 and FIELD. -/
def misuseInfo (c : Ctx) (field : Nat) : Word := BitVec.ofNat 64 (c.st + c.pos * 2 ^ 16 + 7 * 2 ^ 32 + field * 2 ^ 36)


/-- The four bytes of a lane's spilled return entry of a number (R45). -/
def spillByte (c : Ctx) (l j b : Nat) : Nat := spillKey c.crew c.m.grp l j + 8 * b

/-- The effect of CALL and CALLX on a lane (R45, R181, R183). -/
def callLane (fall target : Nat) (x : Lane) : Lane :=
  { x with blk := BitVec.ofNat 16 target, marked := true, called := true, stack := BitVec.ofNat 16 fall :: x.stack.take 15
           spilled := if 16 ≤ x.stack.length then x.spilled + 1 else x.spilled }

/-- A call runs to its end (R45, R181, R183): the lanes push their return blocks, and memory changes in the spill bytes of the lanes whose sixteen entries are full alone. -/
def CallRuns (i : Instr) (h : Hdr) (s t : State) (c : Ctx) (target : Nat → Nat) : Prop :=
  let full := fun (l : Nat) => active i c l = true ∧ 16 ≤ (c.g.lane l).stack.length
  let read := (falls i t c).1
  let f := onActive i c (fun l x => callLane (fallOf i t c l) (target l) x)
  ∃ (u : State) (g g' : Group), exec i s = .next (u.deliver c.m.crew c.m.grp) ∧ read.group? c.m.crew c.m.grp = some g ∧ u.group? c.m.crew c.m.grp = some g' ∧
    OnlyGroup { read with mem := u.mem, drained := u.drained, nextSeq := u.nextSeq } u c.m.crew c.m.grp ∧
    Issued c h (f g) g' ∧ ({ g' with ents := g.ents, handler := g.handler, issued := g.issued } : Group) = f g ∧
    (∀ r k, (∀ l b, full l → b < 4 → k ≠ spillByte c l (c.g.lane l).spilled b) → u.readKey r k = read.readKey r k) ∧
    ∀ l, full l → (∀ l', full l' → l' ≠ l → ∀ b b', b < 4 → b' < 4 → spillByte c l' (c.g.lane l').spilled b' ≠ spillByte c l (c.g.lane l).spilled b) →
      u.readNum (c.crew.agent c.m.grp) (.mem (spillByte c l (c.g.lane l).spilled 0)) 4 = ((c.g.lane l).stack.getLastD 0).toNat

/-- What RET finds for a lane: the block it pops, and the entry it takes back from the spill area if any (R183). -/
def retPops (t : State) (c : Ctx) (l : Nat) : Nat × Option Nat :=
  let x := c.g.lane l
  let newest := t.readNum (c.crew.agent c.m.grp) (.mem (spillByte c l (x.spilled - 1) 0)) 4 % 2 ^ 16
  match x.stack with
  | [] => (newest, some newest)
  | b :: _ => (b.toNat, if x.spilled = 0 then none else some newest)

/-- The effect of RET on a lane (R181, R183). -/
def retLane (t : State) (c : Ctx) (l : Nat) (x : Lane) : Lane :=
  { x with blk := BitVec.ofNat 16 (retPops t c l).1, marked := true, called := true, spilled := x.spilled - 1
           stack := match x.stack, (retPops t c l).2 with
             | [], _ => []
             | _ :: rest, none => rest
             | _ :: rest, some b => rest ++ [BitVec.ofNat 16 b] }

/-- A lane's return stack is empty for RET: in a handler at the depth of its entry (R50, R184). -/
def stackEmpty (c : Ctx) (l : Nat) : Bool :=
  decide ((c.g.lane l).stack.length + (c.g.lane l).spilled ≤ if c.m.ent = handlerIdx then (c.g.lane l).hDepth else 0)

end Sys2Proof.Claims

/-- R28, R31, R180, R182, R185: BR, BRC, BRX and EXIT write the next block of each active lane and mark it; a BRX that names no block of the unit and not EXIT, and BR,
CALL, RET and EXIT after a call or return of a lane in the same state, trap ILLEGAL and do nothing. Model's readings: log 13. -/
def Obligations.BranchResults : Prop := ∀ (w : Body) (s t : State) (c : Ctx),
  let next := fun (b : Nat) (x : Lane) => { x with blk := BitVec.ofNat 16 b, marked := true }
  let target := w.imm.toNat % 2 ^ 16
  let n := intWidth w.ty
  let v := fun (l : Nat) => (BitVec.ofNat n (c.val w.b 0 l)).toInt
  let taken := fun (l : Nat) => match w.sub with
    | 0 => decide (v l = 0)
    | 1 => decide (v l ≠ 0)
    | 2 => decide (v l < 0)
    | _ => decide (0 ≤ v l)
  let named := fun (l : Nat) => c.val w.a 0 l % 2 ^ 16
  let good := fun (l : Nat) => named l = 0xFFFF ∨ (t.img c).inUnit c.st (named l) = true
  (Starts (.br w) s t c → MayBranch (.br w) c → GroupRuns (.br w) w.hdr s t c (onActive (.br w) c (fun _ x => next target x))) ∧
  (Starts (.brc w) s t c → MayBranch (.brc w) c →
    GroupRuns (.brc w) w.hdr s (falls (.brc w) t c).1 c (onActive (.brc w) c (fun l x => next (if taken l then target else fallOf (.brc w) t c l) x))) ∧
  (Starts (.brx w) s t c → MayBranch (.brx w) c → (∀ l, active (.brx w) c l = true → good l) →
    GroupRuns (.brx w) w.hdr s t c (onActive (.brx w) c (fun l x => next (named l) x))) ∧
  (Starts (.brx w) s t c → MayBranch (.brx w) c → (∃ l, active (.brx w) c l = true ∧ ¬ good l) → Traps (.brx w) s t c 0x10 (misuseInfo c 63)) ∧
  (Starts (.exit w) s t c → MayBranch (.exit w) c → GroupRuns (.exit w) w.hdr s t c (onActive (.exit w) c (fun _ x => next 0xFFFF x))) ∧
  (Starts (.br w) s t c → ¬ MayBranch (.br w) c → Traps (.br w) s t c 0x10 (misuseInfo c 63)) ∧
  (Starts (.call w) s t c → ¬ MayBranch (.call w) c → Traps (.call w) s t c 0x10 (misuseInfo c 63)) ∧
  (Starts (.ret w) s t c → ¬ MayBranch (.ret w) c → Traps (.ret w) s t c 0x10 (misuseInfo c 0)) ∧
  (Starts (.exit w) s t c → ¬ MayBranch (.exit w) c → Traps (.exit w) s t c 0x10 (misuseInfo c 0))

/-- R45, R50, R181 to R184: CALL and CALLX push the fall-through of each active lane's block, the oldest of sixteen entries spilling to scratch; RET pops; a full or empty
stack traps CALLSTACK and does nothing. Model's readings: log 28, 78 and 79. -/
def Obligations.CallAndReturnResults : Prop := ∀ (w : Body) (s t : State) (c : Ctx),
  let depth := fun (l : Nat) => (c.g.lane l).stack.length + (c.g.lane l).spilled
  let named := fun (l : Nat) => c.val w.a 0 l % 2 ^ 16
  let valid := fun (b : Nat) => b = 0xFFFF ∨ (t.img c).hasBlk b = true
  (Starts (.call w) s t c → MayBranch (.call w) c → (∀ l, active (.call w) c l = true → depth l < 16 + c.crew.depth) →
    CallRuns (.call w) w.hdr s t c (fun _ => w.imm.toNat % 2 ^ 16)) ∧
  (Starts (.callx w) s t c → MayBranch (.callx w) c → (∀ l, active (.callx w) c l = true → depth l < 16 + c.crew.depth ∧ (t.img c).callable (named l) = true) →
    CallRuns (.callx w) w.hdr s t c named) ∧
  (Starts (.call w) s t c → MayBranch (.call w) c → (∃ l, active (.call w) c l = true ∧ 16 + c.crew.depth ≤ depth l) →
    ∃ l, active (.call w) c l = true ∧ 16 + c.crew.depth ≤ depth l ∧ (∀ l', l' < l → active (.call w) c l' = true → depth l' < 16 + c.crew.depth) ∧
      Traps (.call w) s t c 0x13 (BitVec.ofNat 64 (c.st + c.pos * 2 ^ 16 + l * 2 ^ 33))) ∧
  (Starts (.ret w) s t c → MayBranch (.ret w) c →
    (∀ l, active (.ret w) c l = true → stackEmpty c l = false ∧ (∀ b, (retPops t c l).2 = some b → valid b)) →
    GroupRuns (.ret w) w.hdr s t c (onActive (.ret w) c (fun l x => retLane t c l x))) ∧
  (Starts (.ret w) s t c → MayBranch (.ret w) c → (∃ l, active (.ret w) c l = true ∧ stackEmpty c l = true) →
    ∃ l, active (.ret w) c l = true ∧ stackEmpty c l = true ∧ (∀ l', l' < l → active (.ret w) c l' = true → stackEmpty c l' = false) ∧
      Traps (.ret w) s t c 0x13 (BitVec.ofNat 64 (c.st + c.pos * 2 ^ 16 + 2 ^ 32 + l * 2 ^ 33)))

/-- R185, R42, R243: NOP and PREF change nothing, PREF without regard to what its operands name (log 14); YIELD marks a split for rotation, and ranks an unsplit group or a handler as if YH were set. -/
def Obligations.NopYieldResults : Prop := ∀ (w : Body) (s t : State) (c : Ctx),
  (Starts (.nop w) s t c → GroupRuns (.nop w) w.hdr s t c (fun g => g)) ∧
  (Starts (.pref w) s t c → GroupRuns (.pref w) w.hdr s t c (fun g => g)) ∧
  (Starts (.yield w) s t c → startAct (.yield w) c ≠ 0 → c.g.isSplit = true → c.m.ent ≠ handlerIdx →
    exec (.yield w) s = .next ((t.issued c w.hdr).modEnt c.m (fun e => { e with mark := true }))) ∧
  (Starts (.yield w) s t c → startAct (.yield w) c ≠ 0 → (c.g.isSplit = false ∨ c.m.ent = handlerIdx) →
    exec (.yield w) s = .next ((t.issued c w.hdr).modEnt c.m (fun e => { e with yh := true })))

namespace Sys2Proof.Claims

open Machine

/-- A lane on entry to a handler: TBR holds its block and valid bit, the Cam its own place, and it stands in the handler's entry block (R49). -/
def enteredLane (entry : Nat) (x : Lane) : Lane :=
  { x with
    tbr := (if x.valid then 1 else 0 : BitVec 1) ++ x.blk, blk := BitVec.ofNat 16 entry, occ := BitVec.ofNat 16 entry, marked := false, called := false
    hOcc := x.occ, hMarked := x.marked, hCalled := x.called, hDepth := x.stack.length + x.spilled, hStack := x.stack, hSpilled := x.spilled }

/-- Group g has entered the handler of a trap and stands as g' (R49, R322): the entering lanes are one entity in the home state of the entry block, TRAPCAUSE and TRAPINFO
hold the trap's values, every result has landed, and all else is held as it was; PREEMPT takes the fences that have not completed out of force (R53). -/
def EnteredHandler (g g' : Group) (trap : Trap) (lanes : Word) (entry home : Nat) : Prop :=
  g'.cause = trap.cause ∧ g'.info = trap.info ∧ g'.pend = [] ∧
  (∃ h, g'.handler = some h ∧ h.cause = trap.cause ∧ h.pmdone = false ∧ h.ent.lanes = lanes ∧ h.ent.st = home ∧ h.ent.pos = 0 ∧ h.ent.idx = handlerIdx) ∧
  g'.lanes = g.lanes.mapIdx (fun l x => if lanes.getLsbD l then enteredLane entry x else x) ∧
  g'.v = g.landAll.v ∧ g'.p = g.landAll.p ∧ g'.s = g.landAll.s ∧
  (g'.fences, g'.heldFences) = (if trap.cause = causePreempt then ([], g.heldFences ++ g.fences) else (g.fences, g.heldFences)) ∧
  ({ g' with cause := g.cause, info := g.info, pend := g.pend, handler := g.handler, lanes := g.lanes, v := g.v, p := g.p, s := g.s, fences := g.fences,
             heldFences := g.heldFences } : Group) = g

/-- A group in which a trap is delivered at once: it runs no handler, holds no trap, and its other splits stand at word boundaries (R48, R50). -/
def DeliversAtOnce (g : Group) (ent : Nat) : Prop :=
  g.handler = none ∧ g.traps = [] ∧ ∀ e ∈ g.ents, e.idx = ent ∨ ((e.wait.map Wait.inWord).getD false) = false

end Sys2Proof.Claims

/-- R48 to R50, R322, R347: a trap that is delivered at once enters the declared handler with all live lanes; other groups, other crews and memory stay as they are. A trap
raised by the lanes of a handler is a fatal fault of the fault domain: the crew stops, and a kill of its domain with cause 1 is due. For PREEMPT the open fences go out of force (R53; log 20). Model's readings: log 20 and 29. -/
def Obligations.TrapDelivery : Prop := ∀ (s : State) (m : Member) (cr : Crew) (cause : BitVec 8) (info : Word), s.crew? m.crew = some cr →
  (∀ (g : Group) (entry home : Nat), s.group? m.crew m.grp = some g → m.ent ≠ handlerIdx → DeliversAtOnce g m.ent → cause ≠ causeBinding →
    s.handlerEntry cr (handlerKind cause) = some (entry, home) →
    ∃ g', (s.raise m cause info).group? m.crew m.grp = some g' ∧ EnteredHandler g g' ⟨some m.ent, cause, info⟩ g.liveMask entry home ∧
      (∀ v, v ≠ m.crew → (s.raise m cause info).crew? v = s.crew? v) ∧
      (∀ j, j ≠ m.grp → (s.raise m cause info).group? m.crew j = s.group? m.crew j) ∧
      (∀ r k, (s.raise m cause info).readKey r k = s.readKey r k) ∧ (s.raise m cause info).kills = s.kills) ∧
  (m.ent = handlerIdx →
    (s.raise m cause info).crew? m.crew = some { cr with stopped := true } ∧ (s.raise m cause info).kills = s.kills ++ [⟨cr.region, cr.part, 1, cr.taskId⟩] ∧
      (∀ v, v ≠ m.crew → (s.raise m cause info).crew? v = s.crew? v) ∧ (∀ r k, (s.raise m cause info).readKey r k = s.readKey r k))

/-- R48, R49, R186: TRAP and BKPT enter the trap handler at once, with TRAPINFO as R186 lays it out, and resume at the word after them. -/
def Obligations.TrapWordsEnterHandler : Prop := ∀ (w : Body) (s t : State) (c : Ctx) (g : Group) (entry home : Nat),
  t.group? c.m.crew c.m.grp = some g → c.m.ent ≠ handlerIdx → DeliversAtOnce g c.m.ent → t.handlerEntry c.crew 2 = some (entry, home) →
  let after := fun (cause : BitVec 8) (info : Word) (i : Instr) => ∃ u g1 g', exec i s = .next u ∧ u.group? c.m.crew c.m.grp = some g' ∧
    Issued c w.hdr g g1 ∧ ({ g1 with ents := g.ents, handler := g.handler, issued := g.issued } : Group) = g ∧
    EnteredHandler g1 g' ⟨some c.m.ent, cause, info⟩ g1.liveMask entry home ∧ (∀ v, v ≠ c.m.crew → u.crew? v = t.crew? v) ∧
    (∀ j, j ≠ c.m.grp → u.group? c.m.crew j = t.group? c.m.crew j) ∧ ∀ r k, u.readKey r k = t.readKey r k
  (Starts (.trap w) s t c → startAct (.trap w) c ≠ 0 →
    after 0x03 (BitVec.ofNat 64 (w.imm.toNat + c.st * 2 ^ 32 + c.pos * 2 ^ 48)) (.trap w)) ∧
  (Starts (.bkpt w) s t c → startAct (.bkpt w) c ≠ 0 → after 0x04 (BitVec.ofNat 64 (c.st * 2 ^ 32 + c.pos * 2 ^ 48)) (.bkpt w))

namespace Sys2Proof.Claims

open Machine

/-- The results that land when handler lanes leave: all of the group, or for a binding handler, beside which other splits go on, those of its lanes (R47, R322). -/
def landed (g : Group) (lanes : Word) : Group := if g.cause = causeBinding then g.landOf lanes else g.landAll

end Sys2Proof.Claims

/-- R50, R51, R53, R54, R187: TRET gives every handler lane that has not exited its block from TBR and all that the Cam held, its return stack with it, makes an exited lane
invalid, and sets TRAPCAUSE to 0; fences that PREEMPT had abandoned are in force again, and a PREEMPT whose handler returns before PMDONE is still to be taken; splits that stopped for PREEMPT go on after its
handler and stand still after any other. Held traps are
then delivered; a group without a live lane retires. Outside a handler it traps ILLEGAL.
It completes in a handler of a group that holds no other trap and that no PREEMPT waits for, with a lane that has not exited and stands in a split: then the group is out of
the handler, each such lane has what it had when the trap was taken, every register stays, and nothing else in the machine changes. Model's readings: log 20, 29 and 76. -/
def Obligations.TrapReturnResults : Prop := ∀ (w : Body) (s t : State) (c : Ctx), Starts (.tret w) s t c → startAct (.tret w) c ≠ 0 →
  (c.m.ent ≠ handlerIdx → Traps (.tret w) s t c 0x10 (misuseInfo c 0)) ∧
  (c.m.ent = handlerIdx → ∃ u g g', OnlyGroup { t with nextSeq := u.nextSeq } u c.m.crew c.m.grp ∧ t.group? c.m.crew c.m.grp = some g ∧ u.group? c.m.crew c.m.grp = some g' ∧
    let r := landed g c.ent.lanes
    (g'.liveMask = 0 → exec (.tret w) s = .next ((u.retireNow c.m.crew c.m.grp).settleRdv c.m.crew)) ∧
    (g'.liveMask ≠ 0 → g.retired = false → exec (.tret w) s = .next ((u.deliver c.m.crew c.m.grp).abandonGroup c.m.crew c.m.grp)) ∧
    g'.handler = none ∧ g'.cause = 0 ∧ g'.pend = r.pend ∧ g'.info = g.info ∧ g'.b = g.b ∧ g'.a = g.a ∧ g'.q = g.q ∧ g'.k = g.k ∧ g'.nblk = g.nblk ∧ g'.mws = g.mws ∧
    g'.v = r.v ∧ g'.p = r.p ∧ g'.s = r.s ∧ g'.traps = g.traps ∧ g'.retired = g.retired ∧ g'.preDone = false ∧
    (∀ e ∈ g'.ents, ∃ e0 ∈ g.ents, e0.idx = e.idx ∧ e.stopped = (e0.stopped && (g.handler.map (·.cause)) != some causePreempt)) ∧
    (g'.preTaken = true ↔ g.preTaken = true ∧ ¬ ∃ h, g.handler = some h ∧ h.cause = causePreempt ∧ h.pmdone = false) ∧
    g'.fences = g.fences ++ g.heldFences.map (fun f => { f with seq := t.nextSeq }) ∧ g'.heldFences = [] ∧
    g'.lanes = g.lanes.mapIdx (fun l x =>
      if c.ent.lanes.getLsbD l then
        if x.valid = false ∨ (x.marked = true ∧ x.blk = 0xFFFF) then { x with valid := false, blk := 0xFFFF, marked := false, called := false, stack := [], spilled := 0 }
        else { x with blk := x.tbr.setWidth 16, occ := x.hOcc, marked := x.hMarked, called := x.hCalled, stack := x.hStack, spilled := x.hSpilled }
      else x)) ∧
  (c.m.ent = handlerIdx → c.g.traps = [] → c.g.retired = false → c.crew.preempt = none →
    let exits := fun (x : Lane) => x.valid = false ∨ (x.marked = true ∧ x.blk = 0xFFFF)
    (∃ l, c.ent.lanes.getLsbD l = true ∧ l < c.g.lanes.length ∧ ¬ exits (c.g.lane l) ∧ ∃ e ∈ c.g.ents, e.lanes.getLsbD l = true) →
    ∃ u g g', exec (.tret w) s = .next u ∧ OnlyGroup { t with nextSeq := u.nextSeq } u c.m.crew c.m.grp ∧
      t.group? c.m.crew c.m.grp = some g ∧ u.group? c.m.crew c.m.grp = some g' ∧ g'.handler = none ∧ g'.cause = 0 ∧ g'.retired = false ∧
      (∀ l, c.ent.lanes.getLsbD l = true → l < g.lanes.length → ¬ exits (g.lane l) → (g'.lane l).blk = (g.lane l).tbr.setWidth 16 ∧ (g'.lane l).occ = (g.lane l).hOcc ∧
        (g'.lane l).marked = (g.lane l).hMarked ∧ (g'.lane l).stack = (g.lane l).hStack ∧ (g'.lane l).spilled = (g.lane l).hSpilled) ∧
      g'.v = (landed g c.ent.lanes).v ∧ g'.p = (landed g c.ent.lanes).p ∧ g'.s = (landed g c.ent.lanes).s ∧ g'.b = g.b ∧ g'.a = g.a ∧ g'.q = g.q ∧ ∀ r k, u.readKey r k = t.readKey r k)


namespace Sys2Proof.Claims

open Machine

/-- A group after PMDONE: every result has landed, every block is released, and the loads that its operand log holds keep their destinations (R54, R188, R370). -/
def pmdoneGroup (g : Group) : Group :=
  let held := fun (m : MemWord) => m.logged || (match m.stat with
    | .asked _ | .faulted _ _ | .delivered => true
    | _ => false)
  { g.landAll with
    v := [], nblk := 0, preDone := true
    mws := g.mws.map (fun m => if held m then m else { m with dst := m.dst.cut 0 })
    handler := g.handler.map (fun h => { h with pmdone := true }) }

end Sys2Proof.Claims

/-- R54, R188, R346, R347: in a preempt handler PMDONE releases every register block, once, unless the grace budget has run out, which is a fatal fault with cause 2; elsewhere it
traps ILLEGAL. The cores change in the registers that accepted matrix operations keep and in the destinations of queued QRDs alone. Model's readings: log 72 and 77. -/
def Obligations.PmdoneResults : Prop := ∀ (w : Body) (s t : State) (c : Ctx), Starts (.pmdone w) s t c → startAct (.pmdone w) c ≠ 0 →
  let may := c.m.ent = handlerIdx ∧ ∃ h, c.g.handler = some h ∧ h.cause = 0x01 ∧ h.pmdone = false
  (may → t.graceOver c.crew = false → ∃ u g g', exec (.pmdone w) s = .next (u.deliver c.m.crew c.m.grp) ∧ OnlyGroup { t with cores := u.cores } u c.m.crew c.m.grp ∧
    t.group? c.m.crew c.m.grp = some g ∧ u.group? c.m.crew c.m.grp = some g' ∧ Issued c w.hdr (pmdoneGroup g) g' ∧
    ({ g' with ents := g.ents, handler := (pmdoneGroup g).handler, issued := g.issued } : Group) = pmdoneGroup g ∧
    u.cores.map (fun k => ({ k with beryl := [], matrix := [] } : Machine.Core)) = t.cores.map (fun k => ({ k with beryl := [], matrix := [] } : Machine.Core)) ∧
    ∀ i, (u.core i).matrix.map (fun x => ({ x with kept := [] } : MatOp)) = (t.core i).matrix.map (fun x => ({ x with kept := [] } : MatOp)) ∧
      (u.core i).beryl = (t.core i).beryl.map (fun b => if i = c.crew.core ∧ b.crew = c.crew.uid ∧ b.grp = c.m.grp then { b with op := b.op.cut 0 } else b)) ∧
  (may → t.graceOver c.crew = true → exec (.pmdone w) s = .next (t.fatal c.m.crew 2)) ∧
  (¬ may → Traps (.pmdone w) s t c 0x10 (misuseInfo c 0))

namespace Sys2Proof.Claims

open Machine

/-- A trap of the issuing entity before its word takes effect. -/
def TrapsFirst (i : Instr) (s : State) (c : Ctx) (cause : BitVec 8) (info : Word) : Prop := exec i s = .next (({ s with cur := none } : State).raise c.m cause info)

end Sys2Proof.Claims

/-- R21, R53, R179, R182, R199, R262, R268, R318, R320, R325: what every word checks before it takes effect, in this order: a misuse that its entry names before all else, unless a checked crew finds an
early read, a V register that is not held, what keeps it waiting, which PREEMPT may end, and on a checked crew an early read. Model's readings: log 13, 14, 50 and 69. -/
def Obligations.WordStartChecks : Prop := ∀ (i : Instr) (s : State) (cu : Cur) (c0 : Ctx), (encode i).isSome = true → s.cur = some cu →
  s.ctxOf cu.m cu.cyc (instrHdr i).slot = some c0 →
  let c := s.view c0 i
  let act := startAct i c
  let none_ : State := { s with cur := none }
  let early := if c.crew.check then stallInfo c (c0.g.land cu.cyc).pend (instrHdr i) (instrUses i) act else none
  ((∃ l, active i c l = true ∧ (c.g.lane l).called = true) → (∃ w, i = .brc w ∨ i = .brx w ∨ i = .callx w) → early = none → TrapsFirst i s c 0x10 (misuseInfo c 63)) ∧
  (act ≠ 0 → (∃ w, (i = .obst w ∨ i = .obld w) ∧ c.crew.resv? (c.val w.a 0 0) = none) → early = none → TrapsFirst i s c 0x10 (misuseInfo c 63)) ∧
  (∀ w f, act ≠ 0 → ((i = .mma w ∧ c.mmaMisuse w false = some f) ∨ (i = .mmas w ∧ c.mmaMisuse w true = some f)) → early = none → TrapsFirst i s c 0x10 (misuseInfo c f)) ∧
  (c.preMisuse i act = none ∨ early ≠ none →
    (∀ r, act ≠ 0 → unheld c.g (instrUses i).vregs = some r →
      TrapsFirst i s c 0x11 (BitVec.ofNat 64 (c.st + c.pos * 2 ^ 16 + (if 255 < r then 0x1FF else r) * 2 ^ 32))) ∧
    ((act = 0 ∨ unheld c.g (instrUses i).vregs = none) → none_.heldBy c i = true →
      let ends := none_.longHeld c i = true ∧ none_.preempting c.m.crew c.m.grp = true ∧ c.m.ent ≠ handlerIdx
      (¬ ends → exec i s = .next (none_.setWait c.m .held)) ∧ (ends → exec i s = .next (none_.abandon c.m))) ∧
    ((act = 0 ∨ unheld c.g (instrUses i).vregs = none) → none_.heldBy c i = false →
      ∀ info, early = some info → exec i s = .next ((State.startOf s cu c0).raise c.m 0x05 info)))

/-! ### Floating point, block formats and pair words -/

namespace Sys2Proof.Claims

open Machine

/-- Sub-element k of the float source A of lane l, an immediate read by the float column of R166. -/
def fsrcA (w : Body) (c : Ctx) (l k : Nat) : Nat :=
  let f := fmtOf w.ty.toNat
  getSub (fmtBits f) k (c.val w.a (immFloat f w.imm) l)

/-- Sub-element k of the float source B. -/
def fsrcB (w : Body) (c : Ctx) (l k : Nat) : Nat :=
  let f := fmtOf w.ty.toNat
  getSub (fmtBits f) k (c.val w.b (immFloat f w.imm) l)

/-- Sub-element k of the float source C. -/
def fsrcC (w : Body) (c : Ctx) (l k : Nat) : Nat := getSub (fmtBits (fmtOf w.ty.toNat)) k (c.val w.c 0 l)

/-- A word of the float classes runs to its end. -/
def FloatRuns (i : Instr) (w : Body) (d : BitVec 8) (s t : State) (c : Ctx) (lat : Nat) (r : Nat → Nat → Res) : Prop :=
  let wd := fmtBits (fmtOf w.ty.toNat)
  ElemRunsV i w.hdr d.toNat s t c wd lat (c.exec w.hdr wd) (fun l k => (r l k).1) (fun l k => (r l k).2)

/-- A word that writes consecutive V registers in its active lanes runs to its end: nothing else changes but the flags of those lanes (R230). -/
def WideRuns (i : Instr) (h : Hdr) (s t : State) (c : Ctx) (lat : Nat) (regs : List Nat) (fl : Nat → BitVec 16) (post : Group → Group → Prop) : Prop :=
  ∃ (u : State) (g g' : Group), exec i s = .next (u.deliver c.m.crew c.m.grp) ∧ FixedFrame t u c h lat g g' ∧ SameP g g' [] ∧ SameS g g' [] ∧ SameV g g' regs ∧
    (∀ r l, l < 64 → active i c l = false → g'.landAll.getV r l = g.landAll.getV r l) ∧ FlagsOr g g' (fun l => if active i c l then fl l else 0) ∧ post g g'

/-- Element e of width n in the registers from a base. -/
def element (g : Group) (base n l e : Nat) : Nat := getSub n (e % (64 / n)) (g.getV (base + e / (64 / n)) l).toNat

/-- The registers from d on. -/
def regsFrom (d n : Nat) : List Nat := (List.range n).map (fun i => d + i)

/-- The 32 values of a block in a wide format. -/
def wideBlock (c : Ctx) (f : Fmt) (a l : Nat) : List Machine.Num := (List.range 32).map (fun e => numOf f (element c.g a (fmtBits f) l e))

/-- Byte k of a register changes, and no other (R230). -/
def ByteAt (g g' : Group) (r l k v : Nat) : Prop :=
  ∀ j, j < 8 → getSub 8 j (g'.landAll.getV r l).toNat = if j = k then v % 256 else getSub 8 j (g.landAll.getV r l).toNat

/-- All flags of a list of results. -/
def allFlags (r : List Res) : BitVec 16 := r.foldl (fun fl e => fl ||| e.2) 0

/-- A half-operation of half 1 on two sub-elements (R170). -/
def half1Value (h : HalfOp1) {n : Nat} (a b : BitVec n) : BitVec n :=
  match h with
  | .iadd => a + b
  | .isub => a - b
  | .imin => if a.toInt ≤ b.toInt then a else b
  | .imax => if b.toInt ≤ a.toInt then a else b
  | .ineg => -a
  | .iabs => BitVec.ofInt n |a.toInt|
  | .and => a &&& b
  | .or => a ||| b
  | .xor => a ^^^ b
  | .andn => a &&& ~~~b
  | .not => ~~~a
  | .shl => a <<< b.toNat
  | .shr => a >>> b.toNat
  | .sar => a.sshiftRight b.toNat
  | .rol => a.rotateLeft b.toNat
  | .ror => a.rotateRight b.toNat
  | .empty => 0

/-- A half-operation of half 2 on three sub-elements, with its flags (R170). -/
def half2Value (y : Half2) (a b c : Nat) : Res :=
  let n := 8 * 2 ^ y.ty.toNat
  let f := fmtOf y.ty.toNat
  match y.hop with
  | .imul => (a * b % 2 ^ n, 0)
  | .imad => ((a * b + c) % 2 ^ n, 0)
  | .fmul => roundTo f .rne false (mulNum (numOf f a) (numOf f b))
  | .ffma => roundTo f .rne false (addNum .rne (mulNum (numOf f a) (numOf f b)) (numOf f c))
  | .empty => (0, 0)

/-- The latency of a half (R327). -/
def halfLatency1 (h : HalfOp1) : Nat := if h ∈ [HalfOp1.iadd, .isub, .imin, .imax, .ineg, .iabs] then 4 else 2

/-- The latency of half 2 (R327). -/
def halfLatency2 (y : Half2) : Nat := if y.hop = .imul ∨ y.hop = .imad then 6 else if y.ty = 3 then 8 else 4

end Sys2Proof.Claims

/-- R98, R215 to R222, R319: arithmetic on exact values with one rounding, minimum and maximum, compare, classify, round and scale. Model's readings: log 16. -/
def Obligations.FloatResults : Prop := ∀ (w : Body) (s t : State) (c : Ctx),
  let f := fmtOf w.ty.toNat
  let n := fmtBits f
  let a := fun l k => numOf f (fsrcA w c l k)
  let b := fun l k => numOf f (fsrcB w c l k)
  let x := fun l k => numOf f (fsrcC w c l k)
  let long := if w.ty = 3 then 8 else 4
  (∀ d, w.dst = .v d →
    (Starts (.fadd w) s t c → FloatRuns (.fadd w) w d s t c long (fun l k => roundTo f w.rm false (addNum w.rm (a l k) (b l k)))) ∧
    (Starts (.fsub w) s t c → FloatRuns (.fsub w) w d s t c long (fun l k => roundTo f w.rm false (addNum w.rm (a l k) (negNum (b l k))))) ∧
    (Starts (.fmul w) s t c → FloatRuns (.fmul w) w d s t c long (fun l k => roundTo f w.rm false (mulNum (a l k) (b l k)))) ∧
    (Starts (.ffma w) s t c → FloatRuns (.ffma w) w d s t c long (fun l k => roundTo f w.rm false (addNum w.rm (mulNum (a l k) (b l k)) (x l k)))) ∧
    (Starts (.fmin w) s t c → FloatRuns (.fmin w) w d s t c 2 (fun l k => minMaxF f false (fsrcA w c l k) (fsrcB w c l k))) ∧
    (Starts (.fmax w) s t c → FloatRuns (.fmax w) w d s t c 2 (fun l k => minMaxF f true (fsrcA w c l k) (fsrcB w c l k))) ∧
    (Starts (.fclass w) s t c → FloatRuns (.fclass w) w d s t c 2 (fun l k => (fClass f (fsrcA w c l k), 0))) ∧
    (Starts (.fround w) s t c → FloatRuns (.fround w) w d s t c long (fun l k => fRound (w.sub == 1) w.rm f (fsrcA w c l k))) ∧
    (Starts (.fscale w) s t c → FloatRuns (.fscale w) w d s t c long
      (fun l k => roundTo f w.rm false (scaleNum (a l k) (toSigned n (getSub n k (c.val w.b (immInt n false w.imm) l))))))) ∧
  (∀ d, w.dst = .p d → w.sub ≤ 7 → Starts (.fcmp w) s t c → ElemRunsP (.fcmp w) w.hdr d.toNat s t c n long (c.exec w.hdr n)
    (fun l k =>
      let un := isNaN (a l k) || isNaN (b l k)
      let o := cmpNum (a l k) (b l k)
      match w.sub with
      | 0 => !un && decide (o = .eq)
      | 1 => un || decide (o ≠ .eq)
      | 2 => !un && decide (o = .lt)
      | 3 => !un && decide (o ≠ .lt)
      | 4 => !un && decide (o ≠ .gt)
      | 5 => !un && decide (o = .gt)
      | 6 => un
      | _ => !un)
    (fun l k => if isSNaN (a l k) || isSNaN (b l k) then 1 else 0))

namespace Sys2Proof.Claims

open Machine

/-- The results of R225's table for an operand: the entries of a function for negative infinity, a negative number, the zeros and positive infinity; a NaN gives the
canonical NaN, with NV where it signals. -/
def tableOf (f : Fmt) (negInf neg negZero zero inf : Option Res) (x : Machine.Num) : Option Res :=
  match x with
  | .nan sig => some (canonNaN f, if sig then fNV else 0)
  | .inf s => if s then negInf else inf
  | .fin s m _ => if m = 0 then (if s then negZero else zero) else if s then neg else none

/-- FDIV's special cases (R223): infinity with DZ for a number divided by zero, NaN with NV for 0/0 and for infinities. -/
def divTable (f : Fmt) (x y : Machine.Num) : Option Res :=
  match x, y with
  | .inf _, .inf _ => some (canonNaN f, fNV)
  | .fin s m _, .fin t n _ => if n = 0 then some (if m = 0 then (canonNaN f, fNV) else (packInf f (s != t), fDZ)) else none
  | _, _ => none

/-- A word of the special functions runs to its end, and each result is as said. -/
def SpecialRuns (i : Instr) (w : Body) (d : BitVec 8) (s t : State) (c : Ctx) (lat : Nat) (r : Nat → Nat → Res) (ok : Nat → Nat → Res → Prop) : Prop :=
  (∃ u : State, exec i s = .next u) ∧ FloatRuns i w d s t c lat r ∧ ∀ l k, c.exec w.hdr (fmtBits (fmtOf w.ty.toNat)) l k = true → ok l k (r l k)

end Sys2Proof.Claims

/-- R223, R224, R225, R319: FRCP, FRSQ, FSQRT, FDIV, FEXP2, FLOG2, FSIN, FCOS, FTANH and FSIGM complete for every operand, with R225's result and flags for each special value,
FDIV's for its own, +0 for FLOG2 of 1, NX where a finite operand has no exact result, and for FSIN and FCOS of a large operand a value that is not beyond 1. Model's readings: log 9 and 16. -/
def Obligations.SpecialFunctionResults : Prop := ∀ (w : Body) (d : BitVec 8) (s t : State) (c : Ctx), w.dst = .v d →
  let f := fmtOf w.ty.toNat
  let raw := fun l k => fsrcA w c l k
  let a := fun l k => numOf f (raw l k)
  let b := fun l k => numOf f (fsrcB w c l k)
  let fn := fun (g : Config.SpecialFn) (l k : Nat) => fSpecial g w.ty.toNat f (raw l k)
  let root := if w.ty = 3 then 24 else 12
  let is := fun (x : Option Res) (r : Res) => ∀ y, x = some y → r = y
  let nan : Option Res := some (canonNaN f, 0)
  let inv : Option Res := some (canonNaN f, fNV)
  let val := fun (x : Nat) => (some (x, 0) : Option Res)
  let zero := fun (s : Bool) => val (packMag f s 0 0)
  let one := fun (s : Bool) => val (packMag f s 1 0)
  let inf := fun (s : Bool) => val (packInf f s)
  let pole := fun (s : Bool) => (some (packInf f s, fDZ) : Option Res)
  let inexact := fun (fn : Config.SpecialFn) (l k : Nat) (r : Res) => ∀ s m e, a l k = .fin s m e → m ≠ 0 → ¬ (s = true ∧ (fn = .frsq ∨ fn = .flog2)) →
    exactSpecial fn f s m e = none → r.2 &&& fNX = fNX
  let large := fun (l k : Nat) (r : Res) => ∀ s m e, a l k = .fin s m e → magLt 65536 0 m e = true → ∃ t n g, numOf f r.1 = .fin t n g ∧ magLt 1 0 n g = false
  (Starts (.frcp w) s t c → SpecialRuns (.frcp w) w d s t c root (fun l k => fDiv w.rm f (.fin false 1 0) (a l k)) (fun l k => is (tableOf f (zero true) none (pole true) (pole false) (zero false) (a l k)))) ∧
  (Starts (.fsqrt w) s t c → SpecialRuns (.fsqrt w) w d s t c root (fun l k => fSqrt w.rm f (a l k)) (fun l k => is (tableOf f inv inv (zero true) (zero false) (inf false) (a l k)))) ∧
  (Starts (.fdiv w) s t c → SpecialRuns (.fdiv w) w d s t c (if w.ty = 3 then 32 else 16) (fun l k => fDiv w.rm f (a l k) (b l k)) (fun l k => is (divTable f (a l k) (b l k)))) ∧
  (Starts (.frsq w) s t c → SpecialRuns (.frsq w) w d s t c root (fn .frsq) (fun l k r =>
    is (tableOf f inv inv (pole true) (pole false) (val 0) (a l k)) r ∧ inexact .frsq l k r)) ∧
  (Starts (.fexp2 w) s t c → SpecialRuns (.fexp2 w) w d s t c 10 (fn .fexp2) (fun l k r =>
    is (tableOf f (val 0) none (one false) (one false) (inf false) (a l k)) r ∧ inexact .fexp2 l k r)) ∧
  (Starts (.flog2 w) s t c → SpecialRuns (.flog2 w) w d s t c 10 (fn .flog2) (fun l k r =>
    is (tableOf f inv inv (inf true) (inf true) (inf false) (a l k)) r ∧ inexact .flog2 l k r ∧ (raw l k = packMag f false 1 0 → r = (0, 0)))) ∧
  (Starts (.fsin w) s t c → SpecialRuns (.fsin w) w d s t c 14 (fn .fsin) (fun l k r =>
    is (tableOf f nan none (val (raw l k)) (val (raw l k)) nan (a l k)) r ∧ inexact .fsin l k r ∧ large l k r)) ∧
  (Starts (.fcos w) s t c → SpecialRuns (.fcos w) w d s t c 14 (fn .fcos) (fun l k r =>
    is (tableOf f nan none (one false) (one false) nan (a l k)) r ∧ inexact .fcos l k r ∧ large l k r)) ∧
  (Starts (.ftanh w) s t c → SpecialRuns (.ftanh w) w d s t c 12 (fn .ftanh) (fun l k r =>
    is (tableOf f (one true) none (val (raw l k)) (val (raw l k)) (one false) (a l k)) r ∧ inexact .ftanh l k r)) ∧
  (Starts (.fsigm w) s t c → SpecialRuns (.fsigm w) w d s t c 12 (fn .fsigm) (fun l k r =>
    is (tableOf f (val 0) none (val (packMag f false 1 (-1))) (val (packMag f false 1 (-1))) (one false) (a l k)) r ∧ inexact .fsigm l k r))

/-- R226 to R229, R319: conversions between widths. A narrower destination takes the part that SUB names and leaves the others; a wider one reads that part of its source. Model's readings: log 16. -/
def Obligations.ConversionResults : Prop := ∀ (w : Body) (d : BitVec 8) (s t : State) (c : Ctx), w.dst = .v d →
  let f := fmtOf w.ty.toNat
  let src := fmtOf w.ty2
  let p := w.sub
  let written := fun (ws wd l k : Nat) => c.exec w.hdr wd l k && (decide (ws ≤ wd) || (decide (64 / ws * p ≤ k) && decide (k < 64 / ws * (p + 1))))
  let read := fun (ws wd imm l k : Nat) => getSub ws (if ws ≤ wd then k + 64 / wd * p else k - 64 / ws * p) (c.val w.a imm l)
  let runs := fun (i : Instr) (ws wd imm lat : Nat) (r : Nat → Res) =>
    ElemRunsV i w.hdr d.toNat s t c wd lat (written ws wd) (fun l k => (r (read ws wd imm l k)).1) (fun l k => (r (read ws wd imm l k)).2)
  (Starts (.fcvt w) s t c → runs (.fcvt w) (fmtBits src) (fmtBits f) (immFloat src w.imm) (if w.ty = 3 ∨ w.ty2 = 3 then 8 else 4)
    (fun a => roundTo f w.rm w.sat (numOf src a))) ∧
  (Starts (.f2i w) s t c → runs (.f2i w) (fmtBits src) (intWidth w.ty) (immFloat src w.imm) (if w.ty2 = 3 then 8 else 4)
    (fun a => fToInt w.uns w.rm (intWidth w.ty) (numOf src a))) ∧
  (Starts (.i2f w) s t c → runs (.i2f w) (8 * 2 ^ w.ty2) (fmtBits f) (immInt (8 * 2 ^ w.ty2) w.uns w.imm) (if w.ty = 3 then 8 else 4)
    (fun a => roundTo f w.rm w.sat (numOfInt (val w.uns (BitVec.ofNat (8 * 2 ^ w.ty2) a)))))

/-- R94, R95, R103, R230 to R235, R319: the block words read and write the registers of a block of 32 values, and FDOT sums the products of its sub-elements in order. Model's readings: log 17. -/
def Obligations.BlockFormatResults : Prop := ∀ (w : Body) (d a : BitVec 8) (s t : State) (c : Ctx), w.dst = .v d →
  let f := fmtOf w.ty.toNat
  let n := fmtBits f
  let wide := 32 * n / 64
  let e5 := w.sub == 1
  let v := fun l => wideBlock c f a.toNat l
  let mx := fun l => mxDecode e5 (getSub 8 w.ssel (c.g.getV (a.toNat + 4) l).toNat) ((List.range 32).map (element c.g a.toNat 8 l))
  let q4 := fun l => q4Decode (getSub 8 w.ssel (c.g.getV (a.toNat + 2) l).toNat) ((List.range 32).map (element c.g a.toNat 4 l))
  let counted := t.modCore c.crew.core (fun k => { k with anom := BitVec.ofNat 32 (min (2 ^ 32 - 1)
    (k.anom.toNat + (((List.range 64).filter (active (.q4upk w) c)).map (fun l => (q4 l).2)).sum)) })
  let src := fmtOf w.ty2
  let m := fmtBits src
  (w.a = .v a → w.ty.toNat ≤ 2 →
    (Starts (.mxq w) s t c → WideRuns (.mxq w) w.hdr s t c 16 (regsFrom d.toNat 5) (fun l => (mxQuant e5 w.rm (v l)).2.2) (fun g g' => ∀ l, active (.mxq w) c l = true →
      (∀ e, e < 32 → element g'.landAll d.toNat 8 l e = ((mxQuant e5 w.rm (v l)).2.1[e]?.getD 0) % 256) ∧
      ByteAt g g' (d.toNat + 4) l w.ssel (mxQuant e5 w.rm (v l)).1)) ∧
    (Starts (.mxdq w) s t c → WideRuns (.mxdq w) w.hdr s t c 8 (regsFrom d.toNat wide) (fun l => allFlags ((mx l).map (widen f w.rm))) (fun _ g' => ∀ l, active (.mxdq w) c l = true →
      ∀ e, e < 32 → element g'.landAll d.toNat n l e = (widen f w.rm ((mx l)[e]?.getD default)).1 % 2 ^ n)) ∧
    (Starts (.q4pk w) s t c → WideRuns (.q4pk w) w.hdr s t c 16 (regsFrom d.toNat 3) (fun l => (q4Quant e5 (v l)).2.2) (fun g g' => ∀ l, active (.q4pk w) c l = true →
      (∀ e, e < 32 → element g'.landAll d.toNat 4 l e = ((q4Quant e5 (v l)).2.1[e]?.getD 0) % 16) ∧
      ByteAt g g' (d.toNat + 2) l w.ssel (q4Quant e5 (v l)).1)) ∧
    (Starts (.q4upk w) s t c → WideRuns (.q4upk w) w.hdr s counted c 8 (regsFrom d.toNat wide) (fun l => allFlags ((q4 l).1.map (widen f w.rm)))
      (fun _ g' => ∀ l, active (.q4upk w) c l = true → ∀ e, e < 32 → element g'.landAll d.toNat n l e = (widen f w.rm ((q4 l).1[e]?.getD default)).1 % 2 ^ n))) ∧
  (w.ty = 2 → Starts (.fdot w) s t c → FloatRuns (.fdot w) w d s t c 8 (fun l j =>
    (List.range (32 / m)).foldl (fun r q =>
      let x := roundTo .f32 w.rm false (addNum w.rm (mulNum (numOf src (getSub m (j * (32 / m) + q) (c.val w.a 0 l))) (numOf src (getSub m (j * (32 / m) + q) (c.val w.b 0 l))))
        (numOf .f32 r.1))
      (x.1, r.2 ||| x.2)) (getSub 32 j (c.val w.c 0 l), 0)))

/-- R169 to R171, R327: the halves of a pair word read all sources before either writes, and each half's result follows its own latency. -/
def Obligations.PairWordResults : Prop := ∀ (h : Hdr) (x : Half1) (y : Half2) (s t : State) (c : Ctx), Starts (.pair h x y) s t c →
  (x.hop = .empty ∨ y.hop = .empty ∨ x.d ≠ y.d) →
  let n := 8 * 2 ^ x.ty.toNat
  let m := if y.hop = .fmul ∨ y.hop = .ffma then fmtBits (fmtOf y.ty.toNat) else 8 * 2 ^ y.ty.toNat
  let sub := fun (n r l k : Nat) => getSub n k (c.g.getV r l).toNat
  let r2 := fun (l k : Nat) => half2Value y (sub m y.a.toNat l k) (sub m y.b.toNat l k) (sub m y.c.toNat l k)
  WideRuns (.pair h x y) h s t c 2 ((if x.hop = .empty then [] else [x.d.toNat]) ++ (if y.hop = .empty then [] else [y.d.toNat]))
    (fun l => if y.hop = .empty then 0 else orFlags m (fun _ => true) (fun k => (r2 l k).2))
    (fun g g' =>
      (x.hop ≠ .empty → (∀ l k, active (.pair h x y) c l = true → k < 64 / n → getSub n k (g'.landAll.getV x.d.toNat l).toNat =
          (half1Value x.hop (BitVec.ofNat n (sub n x.a.toNat l k)) (BitVec.ofNat n (sub n x.b.toNat l k))).toNat) ∧
        ∀ cyc l, l < 64 → cyc < c.cyc + halfLatency1 x.hop → (g'.land cyc).getV x.d.toNat l = (g.land cyc).getV x.d.toNat l) ∧
      (y.hop ≠ .empty → (∀ l k, active (.pair h x y) c l = true → k < 64 / m → getSub m k (g'.landAll.getV y.d.toNat l).toNat = (r2 l k).1 % 2 ^ m) ∧
        ∀ cyc l, l < 64 → cyc < c.cyc + halfLatency2 y → (g'.land cyc).getV y.d.toNat l = (g.land cyc).getV y.d.toNat l))

/-- R274 to R277, R319: PRUNE48 keeps the four elements of largest magnitude and their bitmap, BMAP writes the bits of the nonzero elements, and SPEXP expands. -/
def Obligations.SparseHelperResults : Prop := ∀ (w : Body) (d a : BitVec 8) (s t : State) (c : Ctx), w.dst = .v d → w.a = .v a →
  let wide := w.ty = 1
  let n := if wide then 16 else 8
  let el := fun (l j : Nat) => element c.g a.toNat n l j
  let rank := fun (l j : Nat) => pruneRank w.sub (el l j)
  let kept := fun (l j : Nat) => decide (((List.range 8).filter (fun i => decide (rank l j < rank l i ∨ (rank l i = rank l j ∧ i < j)))).length < 4)
  let b := intWidth w.ty
  let nb := w.imm8 * (64 / b)
  let map := fun (l : Nat) => if wide then (c.g.getV (a.toNat + 1) l).toNat % 256 else (c.g.getV a.toNat l).toNat / 2 ^ 32 % 256
  let places := fun (l : Nat) => (List.range 8).filter (fun j => (map l).testBit j)
  (Starts (.prune48 w) s t c → WideRuns (.prune48 w) w.hdr s t c 6 (regsFrom d.toNat (if wide then 2 else 1)) (fun _ => 0) (fun _ g' => ∀ l, active (.prune48 w) c l = true →
    ((List.range 8).filter (kept l)).length = 4 ∧
    (∀ q, q < 4 → getSub n q (g'.landAll.getV d.toNat l).toNat = el l (((List.range 8).filter (kept l))[q]?.getD 0)) ∧
    (∀ j, j < 32 → (g'.landAll.getV (d.toNat + if wide then 1 else 0) l).getLsbD (if wide then j else 32 + j) = (decide (j < 8) && kept l j)) ∧
    (wide → ∀ j, 32 ≤ j → (g'.landAll.getV (d.toNat + 1) l).getLsbD j = false))) ∧
  (Starts (.bmap w) s t c → WideRuns (.bmap w) w.hdr s t c 4 [d.toNat] (fun _ => 0) (fun g g' => ∀ l, active (.bmap w) c l = true → ∀ j, j < 64 →
    (g'.landAll.getV d.toNat l).getLsbD j = if 32 * w.ssel ≤ j ∧ j < 32 * w.ssel + nb then
      (let x := element c.g a.toNat b l (j - 32 * w.ssel)
       if w.sub = 0 then decide (x ≠ 0) else decide (x % 2 ^ (b - 1) ≠ 0))
      else (g.landAll.getV d.toNat l).getLsbD j)) ∧
  (Starts (.spexp w) s t c → WideRuns (.spexp w) w.hdr s t c 4 (regsFrom d.toNat (if wide then 2 else 1)) (fun _ => 0) (fun _ g' => ∀ l, active (.spexp w) c l = true →
    ∀ j, j < 8 → element g'.landAll d.toNat n l j = if (map l).testBit j ∧ (places l).idxOf j < 4 then el l ((places l).idxOf j) else 0))

/-! ### Memory words -/

namespace Sys2Proof.Claims

open Machine

/-- A word runs to its end by one change of its group, and something further follows from it. -/
def GroupRunsThen (i : Instr) (h : Hdr) (s t : State) (c : Ctx) (f : Group → Group) (post : State → State) : Prop :=
  ∃ (u : State) (g g' : Group), exec i s = .next (post (u.deliver c.m.crew c.m.grp)) ∧ OnlyGroup t u c.m.crew c.m.grp ∧ t.group? c.m.crew c.m.grp = some g ∧
    u.group? c.m.crew c.m.grp = some g' ∧ Issued c h (f g) g' ∧ ({ g' with ents := (f g).ents, handler := (f g).handler, issued := (f g).issued } : Group) = f g

/-- A virtual access that has not been translated. -/
def virtAcc (l va size data cmp : Nat) : Acc := ⟨l, va, true, size, data, cmp, none, false, 0, false, false, 0⟩

/-- An access to a known place. -/
def placeAcc (l : Nat) (p : Place) (size data cmp : Nat) : Acc := ⟨l, 0, false, size, data, cmp, some p, true, 0, false, false, 0⟩

/-- The access that one lane makes at the address it formed: none where the lane is dropped (R57). -/
def accsAt (size : Nat) (data cmp : Nat → Nat) (a : Nat × LaneAddr) : List Acc :=
  match a.2 with
  | .virt va => [virtAcc a.1 va size (data a.1) (cmp a.1)]
  | .chip p => [placeAcc a.1 p size (data a.1) (cmp a.1)]
  | _ => []

/-- A register that a load names. -/
def loadsTo (o : Opnd) (pair : Bool) : MDst :=
  match o with
  | .v n => .v n.toNat pair
  | .s n => .s n.toNat
  | .p n => .p n.toNat
  | _ => .none

/-- The outstanding word that a memory word becomes at its issue. -/
def newWord (t : State) (c : Ctx) (w : Body) (op : MemOp) (dst : MDst) (cnt : Option Nat) (lanes : Word) (zero : List Nat) (accs : List Acc) : MemWord :=
  { seq := t.nextSeq, ent := c.m.ent, st := c.st, pos := c.pos, op := op, dst := dst, order := w.fm.order, scope := w.fm.scope, cnt := cnt, lds := cnt.isSome
    clob := [], lanes := lanes, zero := zero, accs := accs, stat := if accs.any (·.virt) then .walking else .ready, blank := false }

/-- A memory word issues: it becomes outstanding, its counter rises by 1, and it is over at once if it makes no access (R64, R120, R243). -/
def MemIssues (i : Instr) (h : Hdr) (s t : State) (c : Ctx) (m : MemWord) : Prop :=
  GroupRunsThen i h s { t with nextSeq := t.nextSeq + 1, free := t.free + 1 } c
    (fun g => { g with mws := g.mws ++ [m], a := match m.cnt with
      | some r => smSet 0 g.a r (g.getA r + 1)
      | none => g.a })
    (fun u => u.finishWord c.m.crew c.m.grp t.nextSeq)

/-- The lanes of a memory word with the addresses that they form: all active lanes, or the entity's one access (R243, R245, R249). -/
def addresses (t : State) (c : Ctx) (o : Op) (w : Body) (act : Word) : List (Nat × LaneAddr) := (addrLanes o act).map (fun l => (l, t.laneAddr c o w l))

/-- No address of a word faults at issue. -/
def NoFault (l : List (Nat × LaneAddr)) : Prop := ∀ a ∈ l, ∀ cause info, a.2 ≠ .bad cause info

/-- The lanes that are dropped. -/
def dropped (l : List (Nat × LaneAddr)) : List Nat := (l.filter (fun a => decide (a.2 = .drop))).map (·.1)

/-- The 64-bit or 128-bit data operand of a lane (R238). -/
def dataAt (t : State) (c : Ctx) (o : Opnd) (size l : Nat) : Nat := if size = 16 then c.val o 0 l + t.upper c o l * 2 ^ 64 else c.val o 0 l % 2 ^ (8 * size)

/-- A word issues with the accesses of its lanes. -/
def LaneWordIssues (o : Op) (w : Body) (s t : State) (c : Ctx) (op : MemOp) (dst : MDst) (cnt : Option Nat) (size : Nat) (data cmp : Nat → Nat) : Prop :=
  Starts (o.mk w) s t c → startAct (o.mk w) c ≠ 0 → NoFault (addresses t c o w (startAct (o.mk w) c)) →
    MemIssues (o.mk w) w.hdr s t c (newWord t c w op dst cnt (startAct (o.mk w) c) (dropped (addresses t c o w (startAct (o.mk w) c)))
      ((addresses t c o w (startAct (o.mk w) c)).flatMap (accsAt size data cmp)))

end Sys2Proof.Claims

/-- R64, R120, R237, R238, R243 to R247: a memory word whose addresses are good becomes an outstanding word with one access for each executing lane that is not dropped, three
for a record, carrying its operation, data, destination, order and scope; nothing else changes at its issue. Model's readings: log 20, 23 and 24. -/
def Obligations.MemoryWordsIssue : Prop := ∀ (w : Body) (s t : State) (c : Ctx),
  let n := memSize w.ty
  let wide := decide (w.ty = 4)
  let none2 := fun (_ : Nat) => 0
  let datB := dataAt t c w.b n
  LaneWordIssues .ld w s t c (.load (w.fm.subm == 1)) (loadsTo w.dst wide) none n none2 none2 ∧
  LaneWordIssues .st w s t c .store .none none n datB none2 ∧
  (∀ a, w.b = .a a → LaneWordIssues .lds w s t c (.load (w.fm.subm == 1)) (loadsTo w.dst wide) (some a.toNat) n none2 none2) ∧
  LaneWordIssues .ldX w s t c (.load (w.fm.subm == 1)) (loadsTo w.dst wide) none n none2 none2 ∧
  LaneWordIssues .stX w s t c .store .none none n datB none2 ∧
  LaneWordIssues .sld w s t c (.load (w.fm.subm == 1)) (loadsTo w.dst false) none n none2 none2 ∧
  LaneWordIssues .sst w s t c .store .none none n datB none2 ∧
  (∀ va, Starts (.recld w) s t c → startAct (.recld w) c ≠ 0 → t.laneAddr c .recld w 0 = .virt va →
    MemIssues (.recld w) w.hdr s t c (newWord t c w .recld .none none (startAct (.recld w) c) []
      [virtAcc 0 va 64 0 0, virtAcc 0 (va + 64) 64 0 0, virtAcc 0 (va + 128) 64 0 0])) ∧
  LaneWordIssues .atom w s t c (.atom w.fm.subm (decide (w.ty = 5 ∨ w.ty = 6))) (loadsTo w.dst false) none n datB (fun l => c.val w.dst 0 l) ∧
  LaneWordIssues .incb w s t c .incb (loadsTo w.dst false) none n datB none2 ∧
  LaneWordIssues .celladd w s t c .cellAdd .none none n (dataAt t c w.b (if w.fm.subm = 3 then 16 else 8)) (fun _ => w.fm.subm.toNat) ∧
  LaneWordIssues .cellrd w s t c (.cellRd w.fm.subm) (loadsTo w.dst (decide (w.fm.subm = 2))) none n none2 none2 ∧
  LaneWordIssues .cellclr w s t c .store .none none n none2 none2

/-- R19, R57, R58, R60, R116, R239, R243 to R247: what address a lane forms, which faults it has at issue, which of several is reported, and that a word without an active lane
does nothing. Model's readings: log 21. -/
def Obligations.MemoryAddressesAndFaults : Prop :=
  (∀ (w : Body) (t : State) (c : Ctx) (o : Op) (l : Nat), o ∈ [Op.ld, .st, .lds, .atom, .incb, .celladd, .cellrd, .cellclr, .monitor] →
    let b := c.g.getB w.fm.bidx.toNat
    let n := opSize o w
    let off : Int := (c.val w.a 0 l : Int) * (b.extractLsb' 64 32).toNat + w.fm.imm24.toInt
    let put := fun (x : Nat) => if b.getLsbD 141 then swizzle x (b.extractLsb' 139 2).toNat (b.extractLsb' 142 6).toNat else x
    let addr := ((b.extractLsb' 0 64).toNat + put off.toNat) % 2 ^ 64
    let lane := if o = .monitor then 0 else l
    let info := fun (x : Int) => faultInfo lane (opWrites o) (wrap 64 x)
    (badRec b (cellUse o w) = true → t.laneAddr c o w l = .bad 0x12 (faultInfo lane (opWrites o) 0)) ∧
    (badRec b (cellUse o w) = false →
      ((off < 0 ∨ (b.extractLsb' 96 40).toNat < off + n) →
        t.laneAddr c o w l = if b.getLsbD 148 then .drop else .bad 0x18 (info off)) ∧
      (0 ≤ off → off + n ≤ (b.extractLsb' 96 40).toNat →
        (addr % n ≠ 0 → t.laneAddr c o w l = .bad 0x1A (info addr)) ∧
        (addr % n = 0 → b.getLsbD 150 = false → t.laneAddr c o w l = .virt addr) ∧
        (∀ p, addr % n = 0 → b.getLsbD 150 = true → t.onchipFor c.crew addr n = some p → t.laneAddr c o w l = .chip p)))) ∧
  (∀ (w : Body) (t : State) (c : Ctx) (o : Op) (l : Nat), o ∈ [Op.ldX, .stX] →
    let n := memSize w.ty
    let off : Int := (c.val w.a 0 l : Int) + w.fm.imm24.toInt
    (off % n = 0 → 0 ≤ off → off + n ≤ 1024 * c.crew.scrKiB → t.laneAddr c o w l = .chip (.mem (scratchKey c.crew.uid off.toNat))) ∧
    (off % n ≠ 0 → t.laneAddr c o w l = .bad 0x1A (faultInfo l (opWrites o) (wrap 64 off)))) ∧
  (∀ (w : Body) (s t : State) (c : Ctx) (o : Op),
    o ∈ [Op.ld, .st, .lds, .ldX, .stX, .sld, .sst, .recld, .atom, .incb, .celladd, .cellrd, .cellclr] → Starts (o.mk w) s t c →
    (startAct (o.mk w) c = 0 → GroupRuns (o.mk w) w.hdr s t c (fun g => g)) ∧
    (startAct (o.mk w) c ≠ 0 → ¬ NoFault (addresses t c o w (startAct (o.mk w) c)) →
      ∃ l cause info, (l, LaneAddr.bad cause info) ∈ addresses t c o w (startAct (o.mk w) c) ∧ Traps (o.mk w) s t c cause info ∧
        ∀ l' cause' info', (l', LaneAddr.bad cause' info') ∈ addresses t c o w (startAct (o.mk w) c) →
          causeRank cause < causeRank cause' ∨ (causeRank cause = causeRank cause' ∧ l ≤ l')))

/-- R121, R249: MONITOR arms or disarms the line that the lowest active lane addresses as a word of the ordering machine, whose one access counts as lane 0; where that access names no virtual line it arms
nothing; and the clear form disarms every line of the group. Model's readings: log 73. -/
def Obligations.MonitorResults : Prop := ∀ (w : Body) (s t : State) (c : Ctx), Starts (.monitor w) s t c → startAct (.monitor w) c ≠ 0 →
  let act := startAct (.monitor w) c
  let l := (lanesOf act).headD 0
  (w.fm.subm = 2 → GroupRuns (.monitor w) w.hdr s t c (fun g =>
    ({ g with monitors := [], latch := none } : Group).writeNow (truths (.monitor w) c w.dst true))) ∧
  (w.fm.subm ≠ 2 → ∀ va, t.laneAddr c .monitor w l = .virt va →
    MemIssues (.monitor w) w.hdr s t c (newWord t c w (.arm (va / 256) (va / 8 % 32) (decide (w.fm.subm = 1))) (loadsTo w.dst false) none act [] [virtAcc 0 va 8 0 0])) ∧
  (w.fm.subm ≠ 2 → (t.laneAddr c .monitor w l = .drop ∨ ∃ p, t.laneAddr c .monitor w l = .chip p) →
    GroupRuns (.monitor w) w.hdr s t c (fun g => g.writeNow (truths (.monitor w) c w.dst (decide (w.fm.subm = 1))))) ∧
  (w.fm.subm ≠ 2 → ∀ cause info, t.laneAddr c .monitor w l = .bad cause info → Traps (.monitor w) s t c cause info)

/-- R42, R120, R122, R123, R250: MWAIT returns at once where no line is armed or the latch is set, which ends every
other MWAIT of the group that is pending too, and waits else; WAITA goes on when the counter has come down to n. Model's readings: log 13 and 80. -/
def Obligations.WaitWordResults : Prop := ∀ (w : Body) (s t : State) (c : Ctx),
  let turns := c.g.isSplit = true ∧ c.m.ent ≠ handlerIdx
  let pending := fun (e : Ent) => match e.wait with
    | some (.mwait _ _) => true
    | _ => false
  let marked := fun (g : Group) => if turns then g.modEnt c.m.ent (fun e => { e with mark := true }) else g
  let reason := fun (l : Latch) => match l.write, l.line with
    | some k, _ => 256 * k
    | none, some k => 1 + 256 * k
    | none, none => 2
  (Starts (.mwait w) s t c → startAct (.mwait w) c ≠ 0 →
    (c.g.monitors = [] → GroupRuns (.mwait w) w.hdr s t c (fun g => (marked g).writeNow (sWrite w.dst 4))) ∧
    (∀ l, c.g.monitors ≠ [] → c.g.latch = some l → (∀ e ∈ c.g.ents ++ (c.g.handler.map (·.ent)).toList, pending e = false) →
      GroupRuns (.mwait w) w.hdr s t c (fun g => ({ marked g with latch := none } : Group).writeNow (sWrite w.dst (reason l)))) ∧
    (∀ l, c.g.monitors ≠ [] → c.g.latch = some l → (c.g.ents.map (·.idx)).Nodup → (∀ e ∈ c.g.ents, e.idx ≠ handlerIdx) →
      ∃ u, exec (.mwait w) s = .next u ∧ ∀ e ∈ c.g.ents, e.idx ≠ c.m.ent → pending e = true → (∃ x, (e.code[e.pos]?).map decode = some (.ok (.mwait x))) →
        ∃ e', u.ent? ⟨c.m.crew, c.m.grp, e.idx⟩ = some e' ∧ e'.wait = none ∧ e'.pos = e.pos + 1) ∧
    (c.g.monitors ≠ [] → c.g.latch = none →
      exec (.mwait w) s = .next ((t.modGroup c.m.crew c.m.grp marked).waits c w.hdr (.mwait t.clock.toNat (c.uval w w.a))))) ∧
  (∀ a, w.a = .a a → Starts (.waita w) s t c → startAct (.waita w) c ≠ 0 →
    let n := c.uval w w.b
    (n ≤ 1023 → (c.g.getA a.toNat).toNat ≤ n → GroupRuns (.waita w) w.hdr s t c (fun g => g)) ∧
    (n ≤ 1023 → n < (c.g.getA a.toNat).toNat → exec (.waita w) s = .next (t.waits c w.hdr (.waita a.toNat n))) ∧
    (1023 < n → Traps (.waita w) s t c 0x10 (misuseInfo c (if w.b = .imm then 22 else 54))))

namespace Sys2Proof.Claims

open Machine

/-- The machine but for the wake latches of its groups. -/
def noLatch (s : State) : State := { s with crews := s.crews.map (fun c => { c with groups := c.groups.map (fun g => { g with latch := none }) }) }

/-- Bytes are stored at keys so that every agent sees them at once: only memory, the list of stores and the latches of armed lines change. -/
def StoredForAll (t u : State) (key : Nat) (bytes : List Byte) : Prop :=
  noLatch { u with mem := t.mem, drained := t.drained, nextSeq := t.nextSeq, counted := t.counted } = noLatch t ∧
  ∀ k, (∀ r, u.readKey r k = ((List.zip (keysFrom key bytes.length) bytes).lookup k).getD (t.readKey r k)) ∧
    u.latestKey k = ((List.zip (keysFrom key bytes.length) bytes).lookup k).getD (t.latestKey k)

/-- The machine but for the wake latches of its groups and the data of plain stores in flight to the barrier at a key. -/
def bareAt (key : Nat) (s : State) : State := { s with crews := s.crews.map (fun c => { c with groups := c.groups.map (fun g => { g with
  latch := none
  mws := g.mws.map (fun m => { m with accs := m.accs.map (fun a => if m.tears key a then { a with data := 0 } else a) }) }) }) }

/-- The 16 bytes of a barrier are stored so that every agent sees them at once. Plain stores in flight to these bytes, of which the update may take some over (R113), may
have other data; without such a store only memory, the list of stores and the latches of armed lines change. -/
def StoredAtBarrier (t u : State) (key : Nat) (bytes : List Byte) : Prop :=
  bareAt key { u with mem := t.mem, drained := t.drained, nextSeq := t.nextSeq, counted := t.counted, free := t.free } = bareAt key t ∧
  (∀ k, (∀ r, u.readKey r k = ((List.zip (keysFrom key bytes.length) bytes).lookup k).getD (t.readKey r k)) ∧
    u.latestKey k = ((List.zip (keysFrom key bytes.length) bytes).lookup k).getD (t.latestKey k)) ∧
  ((∀ x ∈ t.crews, ∀ g ∈ x.groups, ∀ m ∈ g.mws, ∀ a ∈ m.accs, m.tears key a = false) → StoredForAll t u key bytes)

/-- A word updates a transaction barrier and is over. -/
def UpdatesBarrier (i : Instr) (h : Hdr) (s t : State) (c : Ctx) (key : Nat) (b : TBar) : Prop :=
  ∃ t1, StoredAtBarrier t t1 key (bytesOf 16 b.bits) ∧ GroupRuns i h s t1 c (fun g => g)

/-- A phase of a barrier is complete: the next begins with the reload value (R111). -/
def nextPhase (b : TBar) : TBar := { b with phase := (b.phase + 1) % 16, arrive := b.reload, bytes := 0 }

end Sys2Proof.Claims

/-- R77, R110, R111, R113, R242, R253, R254: the words on transaction barriers. TBINIT writes a fresh barrier, TBEXPECT and TBARRIVE update it in one step that every agent sees,
TBTEST and a TBWAIT whose wait is over report it, and TBWAIT waits else; an engine's count takes its bytes away and checks. Model's readings: log 27. -/
def Obligations.TransactionBarrierResults : Prop := ∀ (w : Body) (s t : State) (c : Ctx),
  let off := c.uval w w.a
  let key := scratchKey c.m.crew off
  let b := t.tbar key
  let n := toSigned 32 (c.uval w w.b)
  let inRange := fun (x : Int) => -(2 ^ 31) ≤ x ∧ x ≤ 2 ^ 31 - 1
  let place := off % 16 = 0 ∧ off + 16 ≤ 1024 * c.crew.scrKiB
  let go := fun (i : Instr) => Starts i s t c ∧ startAct i c ≠ 0 ∧ place
  let ph := c.uval w w.b
  let ended := b.phase ≠ ph ∨ b.err = true
  let report := b.phase + (if b.err then 16 else 0) + 32 * b.kind + (if ended then 256 else 0)
  let reads := fun (i : Instr) => GroupRunsThen i w.hdr s t c (fun g => g.writeNow (sWrite w.dst report))
    (fun u => if ended then u.acquire c.m.crew c.m.grp u.nextSeq (keysFrom key 16) else u)
  (go (.tbinit w) → 1 ≤ c.uval w w.b → c.uval w w.b ≤ 0xFFFFF →
    UpdatesBarrier (.tbinit w) w.hdr s t c key ⟨0, c.uval w w.b, c.uval w w.b, 0, false, 0, 0⟩) ∧
  (go (.tbexpect w) →
    (b.rest = 0 → inRange (b.bytes + n) → ¬ (b.arrive = 0 ∧ b.bytes + n = 0) → UpdatesBarrier (.tbexpect w) w.hdr s t c key { b with bytes := b.bytes + n }) ∧
    (b.rest = 0 → b.arrive = 0 ∧ b.bytes + n = 0 → UpdatesBarrier (.tbexpect w) w.hdr s t c key (nextPhase b)) ∧
    (b.rest = 0 → ¬ inRange (b.bytes + n) → UpdatesBarrier (.tbexpect w) w.hdr s t c key { b with err := true, kind := if b.err then b.kind else 7 }) ∧
    (b.rest ≠ 0 → UpdatesBarrier (.tbexpect w) w.hdr s t c key { b with err := true, kind := if b.err then b.kind else 5 })) ∧
  (go (.tbarrive w) →
    (b.rest = 0 → b.arrive ≠ 0 → inRange (b.bytes + n) → ¬ (b.arrive = 1 ∧ b.bytes + n = 0) →
      UpdatesBarrier (.tbarrive w) w.hdr s t c key { b with arrive := b.arrive - 1, bytes := b.bytes + n }) ∧
    (b.rest = 0 → b.arrive = 1 → b.bytes + n = 0 → UpdatesBarrier (.tbarrive w) w.hdr s t c key (nextPhase b)) ∧
    (b.rest = 0 → (b.arrive = 0 ∨ ¬ inRange (b.bytes + n)) → UpdatesBarrier (.tbarrive w) w.hdr s t c key { b with err := true, kind := if b.err then b.kind else 7 }) ∧
    (b.rest ≠ 0 → UpdatesBarrier (.tbarrive w) w.hdr s t c key { b with err := true, kind := if b.err then b.kind else 5 })) ∧
  (go (.tbtest w) → ph ≤ 15 → reads (.tbtest w)) ∧
  (go (.tbwait w) → ph ≤ 15 → ended → reads (.tbwait w)) ∧
  (go (.tbwait w) → ph ≤ 15 → ¬ ended → exec (.tbwait w) s = .next (t.waits c w.hdr (.tbwait off ph))) ∧
  (∀ (x : TBar) (m : Nat),
    let y : TBar := { x with bytes := x.bytes - m }
    x.step (.count m) =
      if x.rest ≠ 0 then { x with err := true, kind := if x.err then x.kind else 5 }
      else if ¬ inRange y.bytes then { x with err := true, kind := if x.err then x.kind else 7 }
      else if y.arrive = 0 ∧ y.bytes = 0 then nextPhase y else y)

/-- R74, R81, R82, R114, R248, R255: a fence word puts a fence of its kind and scope into its group at its place in program order, and every fence that may complete does; BAR
makes its entity wait at the barrier, which completes when every group of the crew has arrived, and a number that the unit does not declare is a misuse. Model's readings: log 13 and 20. -/
def Obligations.FenceAndBarrierWords : Prop := ∀ (w : Body) (s t : State) (c : Ctx),
  let issues := fun (i : Instr) (kind : FenceKind) (scope : BitVec 3) => Starts i s t c → startAct i c ≠ 0 →
    GroupRunsThen i w.hdr s { t with nextSeq := t.nextSeq + 1 } c (fun g => { g with fences := g.fences ++ [⟨t.nextSeq, c.m.ent, kind, scope⟩] }) State.settleFences
  let n := c.uval w w.a
  let u := t.waits c w.hdr (.bar n)
  issues (.fence w) (if w.fm.subm = 0 then .acq else if w.fm.subm = 1 then .rel else .full) w.fm.scope ∧
  issues (.codefence w) .code 4 ∧ issues (.rfence w) .record 0 ∧ issues (.opfence w) .oper 0 ∧
  (Starts (.bar w) s t c → startAct (.bar w) c ≠ 0 → n < 16 → n < c.crew.bars → exec (.bar w) s = .next (if u.barReady c.m.crew n then u.barDone c.m.crew n else u)) ∧
  (Starts (.bar w) s t c → startAct (.bar w) c ≠ 0 → (16 ≤ n ∨ c.crew.bars ≤ n) → Traps (.bar w) s t c 0x10 (misuseInfo c (if w.a = .imm then 22 else 63)))

/-! ### Words that hand work to an engine -/

/-- R106, R109, R115, R251, R252: ACPY becomes a copy in the lowest free slot of its core, with one part for each active lane; CKICK adds its scratch range to its crew's kicks. Model's readings: log 13 and 74. -/
def Obligations.CopyWordsIssue : Prop := ∀ (w : Body) (s t : State) (c : Ctx),
  (Starts (.acpy w) s t c → startAct (.acpy w) c ≠ 0 →
    let act := startAct (.acpy w) c
    let sbar := c.uval w w.dst
    let n := memSize w.ty
    let ends := (lanesOf act).map (fun l => (l, t.acpyLane c w l))
    let spot := fun (a : LaneAddr) => match a with
      | .virt va => some (Spot.virt va)
      | .chip p => some (Spot.at_ p)
      | _ => none
    let free := fun (i : Nat) => decide (i < 128) && !((t.core c.crew.core).copies.map (·.slot)).contains i
    sbar % 16 = 0 → sbar + 16 ≤ 1024 * c.crew.scrKiB → NoFault (ends.flatMap (fun e => [(e.1, e.2.1), (e.1, e.2.2)])) →
    ∀ slot, free slot = true → (∀ j, j < slot → free j = false) →
      GroupRuns (.acpy w) w.hdr s (({ t with nextSeq := t.nextSeq + 1 } : State).modCore c.crew.core (fun k => { k with copies := k.copies ++
        [⟨slot, c.m.crew, c.m.grp, t.nextSeq, .lanes (ends.map (fun e => ⟨e.1, n, spot e.2.1, spot e.2.2⟩)), sbar, false, none, [], [], [], t.acpyRanges c w act, [], [], [], t.nextSeq⟩] }))
        c (fun g => g)) ∧
  (Starts (.ckick w) s t c → startAct (.ckick w) c ≠ 0 →
    let off := c.uval w w.a
    let n := c.uval w w.b
    (1 ≤ n → n ≤ 64 → off % 64 = 0 → off + 64 * n ≤ 1024 * c.crew.scrKiB →
      GroupRuns (.ckick w) w.hdr s (({ t with nextSeq := t.nextSeq + 1 } : State).modCrew c.m.crew (fun x => { x with kicks := x.kicks ++ [⟨c.m.grp, t.nextSeq, off, n⟩] }))
        c (fun g => g)) ∧
    ((n = 0 ∨ 64 < n) → Traps (.ckick w) s t c 0x10 (misuseInfo c (if w.b = .imm then 22 else 54))))

/-- R256, R258, R259: SPAWN that may post enters its task in the matcher and writes the TASKID, or with .try all ones where there is no room; XRED begins a reduction of a new TAG
with its participant. Model's readings: log 37, 38 and 45. -/
def Obligations.SpawnReductionIssue : Prop := ∀ (w : Body) (s t : State) (c : Ctx) (g : Group), t.group? c.m.crew c.m.grp = some g →
  let addr := c.val w.a 0 0
  let t0 : State := { t with nextSeq := t.nextSeq + 1 }
  let im := (t0.image? c.crew.img).getD default
  (∀ (t1 : State) (x : Nat) (path : List (Nat × BitVec 1024)), Starts (.spawn w) s t c → startAct (.spawn w) c ≠ 0 → addr % 128 = 0 →
    t0.releaseReady c.crew c.m.grp g t.nextSeq 4 = true → g.spawnBefore t.nextSeq = false → t0.readRecord c.crew c.m.grp addr 128 State.lineHeld = (t1, .got x) →
    let raw := BitVec.ofNat 1024 x
    let region := if trRegion raw = 0 then c.crew.region else trRegion raw
    t1.path? c.crew.part region = some path → badRecord im raw = false → postable path c.crew.region = true →
    let t2 := t1.cachePath c.crew.part path
    let anc := match t2.task? c.crew.task with
      | some k => k.uid :: k.anc
      | none => []
    let room := t2.inflight c.crew.part < 4096 ∧ t2.tasksOk c.crew.part region = true
    let e := t2.enterTask c.crew.part c.crew.img raw region anc none (g.snapshot c.m.crew c.m.grp t.nextSeq)
    (room → e.2 = ((t2.dev.parts[c.crew.part]?).getD Part.init).nextId ∧
      (trCrews raw ≠ 0 → ∃ k ∈ e.1.tasks, k.id = e.2 ∧ k.raw = raw ∧ k.region = region ∧ k.part = c.crew.part ∧ k.anc = anc ∧ k.left = trCrews raw) ∧
      (∀ g1, e.1.group? c.m.crew c.m.grp = some g1 → GroupRuns (.spawn w) w.hdr s e.1 c (fun g => g.writeNow (sWrite w.dst e.2.toNat)))) ∧
    (¬ room → w.sub = 1 → ∀ g1, t2.group? c.m.crew c.m.grp = some g1 → GroupRuns (.spawn w) w.hdr s t2 c (fun g => g.writeNow (sWrite w.dst (2 ^ 64 - 1)))) ∧
    (¬ room → w.sub ≠ 1 → exec (.spawn w) s = .next (t2.waits c w.hdr (.spawn false addr t.nextSeq)))) ∧
  (∀ (t1 : State) (y : Nat), Starts (.xred w) s t c → startAct (.xred w) c ≠ 0 → addr % 64 = 0 → t.readDescr c.crew c.m.grp addr = (t1, .got y) →
    let x := y % 2 ^ 512
    let l := (List.range (xdNpart x)).map (fun i => y / 2 ^ (512 + 16 * i) % 2 ^ 16)
    badDesc c.crew x = false → t.badList c.crew (xdSelf x) l = false → (∀ r ∈ t1.xreds, r.tag ≠ xdTag x) → ∀ g1, t1.group? c.m.crew c.m.grp = some g1 →
      GroupRuns (.xred w) w.hdr s { t1 with nextSeq := t1.nextSeq + 1, xreds := t1.xreds ++ [⟨xdTag x, xdNblk x, xdE5 x, l,
        [⟨xdSelf x, c.crew.uid, c.crew.core, t1.nextSeq, c.m.grp, xdSrc x, xdSscale x, xdDst x, xdDscale x, xdBar x, c.crew.part, false⟩], [], [], [], [], false⟩] }
        c (fun g => g))

/-! ### Matrix and Beryl words -/

namespace Sys2Proof.Claims

open Machine

/-- A word of the matrix class may act: its entity has lanes (R262). -/
def Acts (i : Instr) (s t : State) (c : Ctx) : Prop := Starts i s t c ∧ c.ent.lanes ≠ 0

/-- A word of a group on the operand buffer or the accumulator memory, with one access for each lane of its entity. -/
def matWordOf (t : State) (c : Ctx) (store : Bool) (dst : MDst) (n : Nat) (place : Nat → Nat) (data : Nat → Nat) : MemWord :=
  { seq := t.nextSeq, ent := c.m.ent, st := c.st, pos := c.pos, op := if store then .store else .load false, dst := dst, order := 0, scope := 0, cnt := none, lds := false
    clob := [], lanes := c.ent.lanes, zero := [], accs := (lanesOf c.ent.lanes).map (fun l => placeAcc l (.mem (place l)) n (data l) 0), stat := .ready, blank := false }

/-- The V register that a word loads, two for 16 bytes. -/
def vLoads (o : Opnd) (n : Nat) : MDst :=
  match o with
  | .v r => .v r.toNat (decide (n = 16))
  | _ => .none

/-- An engine operation of one group is accepted: it joins its core's queue, its ticket is busy and its word is over (R137, R263). -/
def EngineIssues (i : Instr) (w : Body) (s t : State) (c : Ctx) (handles : List Nat) (op : MOp) (early : List RegW) : Prop :=
  let k := ticketOf w.dst
  let t1 : State := { t with nextSeq := t.nextSeq + 1 }
  let t2 := if op.isWbld then t1.modCrew c.m.crew (fun x => { x with wbUsed := true }) else t1
  ((∀ cause info, c.g.ticket k ≠ .failed cause info) →
    GroupRuns i w.hdr s (t2.modCore c.crew.core (fun x => { x with matrix := x.matrix ++
      [⟨c.m.crew, [(c.m.grp, k)], handles, op, [(c.m.grp, t.nextSeq)], [c.ent.lanes], early.map (fun e => (0, e)), false, none, [], t.nextSeq, [(c.m.grp, c.g.opf)]⟩] }))
      c (fun g => { g with k := g.k.set k .busy })) ∧
  (∀ cause info, c.g.ticket k = .failed cause info →
    exec i s = .next ((t.modGroup c.m.crew c.m.grp (fun g => { g with k := g.k.set k .idle })).raise c.m cause info))

/-- The operation that an MMA or MMAS names (R133, R134, R267, R268). -/
def mmaOf (c : Ctx) (w : Body) (sparse : Bool) : MmaP :=
  let r := (c.crew.resv? (c.val w.a 0 0)).getD 0
  let d := BitVec.ofNat 64 (c.val w.b 0 0)
  let bm := match w.c with
    | .v b => b.toNat
    | _ => 0
  match w.a with
  | .v a => ⟨sparse, w.tm, w.tn, w.tk, some a.toNat, regFmt w.ty2, 0, d, bm, w.ssel, w.tile⟩
  | _ => ⟨sparse, w.tm, w.tn, w.tk, none, (r.extractLsb' 16 5).toNat, r, d, bm, w.ssel, w.tile⟩

/-- The arrival at the rendezvous latch that an MMA or MMAS of a ganged group makes (R135). -/
def arrivalOf (t : State) (c : Ctx) (o : Op) (w : Body) (sparse : Bool) : Arrival :=
  let p := mmaOf c w sparse
  ⟨c.m.grp, c.m.ent, t.nextSeq, ticketOf w.dst, c.g.gang, { w with hdr := default, dst := .imm }, p, if p.aReg = none then c.val w.a 0 0 else 0, c.ent.lanes,
    ((t.group? c.m.crew c.m.grp).getD default).earlyOf (bodyUses o w).vregs, c.g.opf⟩

/-- Two arrivals name one operation and one gang (R135). -/
def Agrees (x y : Arrival) : Prop :=
  x.word = y.word ∧ x.handle = y.handle ∧ x.item.wdesc = y.item.wdesc ∧ x.item.sparse = y.item.sparse ∧ x.gang = y.gang

/-- The word of an arrival ends in a trap. -/
def endsInTrap (uid : Nat) (cause : BitVec 8) (info : Word) (s : State) (x : Arrival) : State :=
  (s.modEnt ⟨uid, x.grp, x.ent⟩ (fun e => { e with wait := none })).raise ⟨uid, x.grp, x.ent⟩ cause info

/-- TRAPINFO of GANGMISMATCH where no listed group has retired: the members whose word differs from that of the lowest index, and that index (R135). -/
def mismatchInfo (l : List Arrival) (ref : Arrival) : Word :=
  BitVec.ofNat 64 (((l.filter (fun x => !ref.same x)).map (fun x => 2 ^ x.grp)).sum + ref.grp * 2 ^ 32)

/-- The ganged form (R135, R137, R142). The word waits at the latch until every listed group has arrived; the last arrival queues one operation for all, in gang order, makes
each member's ticket busy and ends each member's word; and an arrival that differs from those held ends all their words in GANGMISMATCH. -/
def GangWord (i : Instr) (o : Op) (w : Body) (sparse : Bool) (s t : State) (c : Ctx) : Prop :=
  let a := arrivalOf t c o w sparse
  let uid := c.m.crew
  let u := (({ t with nextSeq := t.nextSeq + 1 } : State).modCrew uid (fun x => { x with rdv := x.rdv ++ [a] })).waits c w.hdr .rendezvous
  let live := fun (k : Nat) => ∃ g, t.group? uid k = some g ∧ g.retired = false
  let usable := fun (x : Arrival) => ∃ g, t.group? uid x.grp = some g ∧ (g.ticket x.ticket = .idle ∨ ∃ ids, g.ticket x.ticket = .done ids)
  let stays := t.preempting uid c.m.grp = false ∨ c.m.ent = handlerIdx
  c.g.gang ≠ [] → (∀ k ∈ c.g.gang, live k) → usable a →
    (c.crew.rdv = [] → 2 ≤ c.g.gang.length → exec i s = .next u) ∧
    (∀ x0 held, c.crew.rdv = x0 :: held → stays → (∀ x ∈ x0 :: held, usable x ∧ x.grp ≠ c.m.grp) → ((x0 :: held).map (·.grp)).Nodup → x0.gang = c.g.gang →
      (∀ x ∈ x0 :: held, ∀ y ∈ x0 :: held, Agrees x y) → (∀ x ∈ x0 :: held, x.grp ∈ c.g.gang) →
      let all := (x0 :: held) ++ [a]
      (Agrees a x0 → all.length = c.g.gang.length → c.g.gang.Nodup → c.m.grp ∈ c.g.gang → t.scoreboard c.crew.core = [] → c.crew.core < t.cores.length →
        (∀ x ∈ all, (t.ent? ⟨uid, x.grp, x.ent⟩).isSome) →
        let l := c.g.gang.filterMap (fun k => all.find? (fun x => x.grp == k))
        ∃ (v : State) (op : MatOp), exec i s = .next v ∧ (v.core c.crew.core).matrix = (t.core c.crew.core).matrix ++ [op] ∧
          op.crew = uid ∧ op.op = .mma x0.item ∧ op.members = l.map (fun x => (x.grp, x.ticket)) ∧ op.seqs = l.map (fun x => (x.grp, x.seq)) ∧
          op.fenced = l.map (fun x => (x.grp, x.opf)) ∧ op.lanes = l.map (·.lanes) ∧ op.handles = (if x0.item.aReg = none then [x0.handle] else []) ∧ op.started = false ∧
          (v.crew? uid).map (·.rdv) = some [] ∧
          ∀ x ∈ all, ∃ g g' e e', t.group? uid x.grp = some g ∧ v.group? uid x.grp = some g' ∧ g'.k = g.k.set x.ticket .busy ∧
            t.ent? ⟨uid, x.grp, x.ent⟩ = some e ∧ v.ent? ⟨uid, x.grp, x.ent⟩ = some e' ∧ e'.wait = none ∧ e'.pos = e.pos + 1) ∧
      (¬ Agrees a x0 → c.m.grp ∈ c.g.gang → ∀ ref ∈ all, (∀ x ∈ all, ref.grp ≤ x.grp) →
        exec i s = .next (all.foldl (endsInTrap uid 0x15 (mismatchInfo all ref)) (u.modCrew uid (fun x => { x with rdv := x.rdv.filter (fun y => !all.contains y) })))))

/-- The faults of a tile and of lengths and places, in the order in which they are reported. -/
def firstFaultOf (l : List (Bool × BitVec 8 × Nat × Bool)) : Option (BitVec 8 × Word) :=
  (l.find? (·.1)).map (fun e => (e.2.1, faultInfo 0 e.2.2.2 e.2.2.1))

/-- A word of the Beryl unit is accepted with its operands, and its issue is over (R149). -/
def BerylIssues (i : Instr) (w : Body) (s t : State) (c : Ctx) (op : BOp) (f : Group → Group) : Prop :=
  GroupRuns i w.hdr s (({ t with nextSeq := t.nextSeq + 1 } : State).modCore c.crew.core (fun k => { k with beryl := k.beryl ++
    [⟨c.m.crew, c.m.grp, t.nextSeq, c.m.ent, c.st, c.pos, op⟩] })) c f

/-- The 33 accesses of an accumulator image at a scratch offset (R144). -/
def imageWord (c : Ctx) (seq off : Nat) (op : MemOp) (blank : Bool) : MemWord :=
  { seq := seq, ent := c.m.ent, st := c.st, pos := c.pos, op := op, dst := .none, order := 0, scope := 0, cnt := none, lds := false, clob := [], lanes := 0, zero := []
    accs := (List.range 33).map (fun j => placeAcc j (.mem (scratchKey c.m.crew (off + 16 * j))) 16 0 0), stat := .ready, blank := blank }

end Sys2Proof.Claims

/-- R128, R265, R271: OBRES takes the lowest free handle for a reservation that fits and overlaps none of the crew's, and all ones else; OBREL gives a handle back and traps
ILLEGAL on one that is not held; OBST, OBLD, AMLD and AMST become words of their group with one access for each lane of the entity. Model's readings: log 13 and 34. -/
def Obligations.OperandBufferResults : Prop := ∀ (w : Body) (s t : State) (c : Ctx),
  let n := memSize w.ty
  let r := BitVec.ofNat 64 (c.val w.a 0 0 % 2 ^ 60)
  let first := fun (x : BitVec 64) => (x.extractLsb' 0 8).toNat
  let last := fun (x : BitVec 64) => (x.extractLsb' 0 8).toNat + (x.extractLsb' 8 8).toNat
  let fits := c.crew.resv.length < 8 ∧ t.resvCount c.crew.core < 64 ∧ last r < c.crew.obKiB ∧ ∀ x ∈ c.crew.resv, last x.2 < first r ∨ last r < first x.2
  let h := c.uval w w.a
  (Acts (.obres w) s t c → fits → ∀ f, f < 64 → (∀ x ∈ c.crew.resv, x.1 ≠ f) → (∀ j, j < f → ∃ x ∈ c.crew.resv, x.1 = j) →
    GroupRuns (.obres w) w.hdr s (t.modCrew c.m.crew (fun x => { x with resv := x.resv ++ [(f, r)] })) c (fun g => g.writeNow (sWrite w.dst f))) ∧
  (Acts (.obres w) s t c → ¬ fits → GroupRuns (.obres w) w.hdr s t c (fun g => g.writeNow (sWrite w.dst (2 ^ 64 - 1)))) ∧
  (Acts (.obrel w) s t c → (∃ x ∈ c.crew.resv, x.1 = h) →
    GroupRuns (.obrel w) w.hdr s (t.modCrew c.m.crew (fun x => { x with resv := x.resv.filter (fun y => y.1 != h) })) c (fun g => g)) ∧
  (Acts (.obrel w) s t c → (∀ x ∈ c.crew.resv, x.1 ≠ h) → Traps (.obrel w) s t c 0x10 (misuseInfo c (if w.a = .imm then 22 else 63))) ∧
  (∀ h x, w.a = .s h → c.crew.resv? (c.val w.a 0 0) = some x → swizzleOk (x.getLsbD 53) (x.extractLsb' 51 2).toNat (x.extractLsb' 54 6).toNat = true →
    let off := fun (l : Nat) => c.val w.b 0 l
    let place := fun (l : Nat) => opbufKey c.crew.uid (1024 * first x + if x.getLsbD 53 then swizzle (off l) (x.extractLsb' 51 2).toNat (x.extractLsb' 54 6).toNat else off l)
    (∀ l, c.ent.lanes.getLsbD l = true → off l % n = 0 ∧ off l + n ≤ 1024 * (last x + 1 - first x)) →
    (Acts (.obst w) s t c → MemIssues (.obst w) w.hdr s t c (matWordOf t c true .none n place (dataAt t c w.c n))) ∧
    (Acts (.obld w) s t c → MemIssues (.obld w) w.hdr s t c (matWordOf t c false (vLoads w.dst n) n place (fun _ => 0)))) ∧
  ((∀ l, c.ent.lanes.getLsbD l = true → c.val w.a 0 l % n = 0 ∧ c.val w.a 0 l + n ≤ 4096 * c.crew.accN) →
    let place := fun (l : Nat) => accKey c.crew.uid (c.val w.a 0 l)
    (Acts (.amst w) s t c → MemIssues (.amst w) w.hdr s t c (matWordOf t c true .none n place (dataAt t c w.b n))) ∧
    (Acts (.amld w) s t c → MemIssues (.amld w) w.hdr s t c (matWordOf t c false (vLoads w.dst n) n place (fun _ => 0))))

/-- R127, R135, R137, R142, R262, R263, R266 to R273: the engine operations of one group join their core's queue; an MMA or MMAS of a gang waits at the rendezvous latch, whose last
arrival queues one operation for all members, and raises GANGMISMATCH in every member where one differs; a failed ticket's fault is raised first; TWAIT ends on a ticket that is
not busy. Model's readings: log 13, 33, 34, 35 and 81. -/
def Obligations.MatrixWordsIssue : Prop := ∀ (w : Body) (s t : State) (c : Ctx),
  let u := w.tm * w.tn / 1024
  let tileOk := w.tile % u = 0 ∧ w.tile + u ≤ c.crew.accN
  let tileInfo := faultInfo 0 true (4096 * w.tile)
  let early := fun (o : Op) => ((t.group? c.m.crew c.m.grp).getD default).earlyOf (bodyUses o w).vregs
  let handle := c.val w.a 0 0
  let mma := fun (i : Instr) (o : Op) (sparse : Bool) => Acts i s t c →
    (∀ cause info, c.mmaFault w sparse = some (cause, info) → Traps i s t c cause info) ∧
    (c.mmaFault w sparse = none → c.g.gang = [] →
      EngineIssues i w s t c (if (mmaOf c w sparse).aReg = none then [handle] else []) (.mma (mmaOf c w sparse)) (early o)) ∧
    (c.mmaFault w sparse = none → GangWord i o w sparse s t c ∧ (c.g.gang ≠ [] → ∀ cause info, c.g.ticket (ticketOf w.dst) = .failed cause info →
      exec i s = .next ((t.modGroup c.m.crew c.m.grp (fun g => { g with k := g.k.set (ticketOf w.dst) .idle })).raise c.m cause info)))
  mma (.mma w) .mma false ∧ mma (.mmas w) .mmas true ∧
  (Acts (.wbld w) s t c →
    let dst := c.val w.a 0 0
    let src := c.val w.b 0 0
    let len := c.val w.c 0 0
    let side : Side := if w.sub = 0 then .scratch c.m.crew src else .onchip (t.ownersAt c.crew src) src
    let fault := firstFaultOf [(decide (dst % 16 ≠ 0), 0x1A, dst, true), (decide (src % 16 ≠ 0), 0x1A, src, false), (decide (len % 16 ≠ 0), 0x1A, len, false),
      (decide (393216 < dst + len), 0x18, dst, true), (!t.wbldSourceOk c side len, 0x18, src, false)]
    ((len < 16 ∨ 393216 < len) → Traps (.wbld w) s t c 0x10 (misuseInfo c 45)) ∧
    (16 ≤ len → len ≤ 393216 → (∀ cause info, fault = some (cause, info) → Traps (.wbld w) s t c cause info) ∧
      (fault = none → EngineIssues (.wbld w) w s t c [] (.wbld dst side len) []))) ∧
  (Acts (.amzero w) s t c → (¬ tileOk → Traps (.amzero w) s t c 0x18 tileInfo) ∧
    (tileOk → EngineIssues (.amzero w) w s t c [] (.amzero w.tile w.tm w.tn) [])) ∧
  (Acts (.amcvt w) s t c →
    (c.crew.resv? handle = none → Traps (.amcvt w) s t c 0x10 (misuseInfo c 63)) ∧
    (∀ x, c.crew.resv? handle = some x →
      let f := match w.ty2 with
        | 0 => 6
        | 1 => 5
        | 4 => 7
        | 5 => 8
        | _ => 0
      let size := w.tm * w.tn * (if f = 5 ∨ f = 6 then 2 else 1)
      x.getLsbD 21 = false → (x.extractLsb' 16 5).toNat = f → swizzleOk (x.getLsbD 53) (x.extractLsb' 51 2).toNat (x.extractLsb' 54 6).toNat = true → tileOk →
      size ≤ 1024 * ((x.extractLsb' 8 8).toNat + 1) → EngineIssues (.amcvt w) w s t c [handle] (.amcvt w.tile w.tm w.tn f w.sat w.rnd2 x) [])) ∧
  (Acts (.twait w) s t c →
    let k := ticketOf w.a
    let idle := fun (g : Group) => { g with k := g.k.set k .idle }
    (c.g.ticket k = .busy → exec (.twait w) s = .next (t.waits c w.hdr (.twait k))) ∧
    (c.g.ticket k = .idle → GroupRuns (.twait w) w.hdr s t c idle) ∧
    (∀ ids, c.g.ticket k = .done ids → GroupRuns (.twait w) w.hdr s t c (fun g =>
      { idle g with acq := (g.acq ++ ids.map (fun i => (t.nextSeq, Seen.store i))).eraseDups.filter (fun x => t.unsettled t.drained x.2) })) ∧
    (∀ cause info, c.g.ticket k = .failed cause info → exec (.twait w) s = .next ((t.modGroup c.m.crew c.m.grp idle).raise c.m cause info)))

/-- R80, R144, R146, R149, R278 to R283: the Beryl words are accepted with their operands; a degree above 63 is a misuse; QSAVE and QLOAD check their image. Model's readings: log 13 and 36. -/
def Obligations.BerylWordsIssue : Prop := ∀ (w : Body) (s t : State) (c : Ctx),
  let wd := if w.ty.toNat < 4 then 8 * 2 ^ w.ty.toNat else fmtBits (qFmt w.ty.toNat)
  let factors := fun (i : Instr) => (lanesOf (startAct i c)).flatMap (fun l => (List.range (64 / wd)).map (fun k => (getSub wd k (c.val w.a 0 l), getSub wd k (c.val w.b 0 l))))
  let deg := c.uval w w.a
  let go := fun (i : Instr) => Starts i s t c ∧ startAct i c ≠ 0
  let bad := misuseInfo c (if w.a = .imm then 22 else 63)
  (∀ q, w.dst = .q q →
    (go (.qinit w) → deg ≤ 63 → BerylIssues (.qinit w) w s t c (.init q.toNat deg (decide (w.sub = 1))) (fun g => g)) ∧
    (go (.qinit w) → 63 < deg → Traps (.qinit w) s t c 0x10 bad) ∧
    (go (.qdeg w) → deg ≤ 63 → BerylIssues (.qdeg w) w s t c (.deg q.toNat deg) (fun g => g)) ∧
    (go (.qdeg w) → 63 < deg → Traps (.qdeg w) s t c 0x10 bad) ∧
    (Starts (.qmul w) s t c → BerylIssues (.qmul w) w s t c (.mul q.toNat w.ty.toNat w.uns (factors (.qmul w))) (fun g => g)) ∧
    (Starts (.qmuls w) s t c → BerylIssues (.qmuls w) w s t c (.muls q.toNat w.ty.toNat w.uns ((factors (.qmuls w)).map (·.1))) (fun g => g)) ∧
    (Starts (.qdiv w) s t c → BerylIssues (.qdiv w) w s t c (.div q.toNat w.ty.toNat w.uns (factors (.qdiv w))) (fun g => g)) ∧
    (∀ a b, w.a = .q a → w.b = .q b → go (.qconv w) → BerylIssues (.qconv w) w s t c (.conv q.toNat a.toNat b.toNat) (fun g => g)) ∧
    (go (.qnorm w) → BerylIssues (.qnorm w) w s t c (.norm q.toNat (BitVec.ofNat 32 deg)) (fun g => g)) ∧
    (go (.qload w) → deg % 16 = 0 → deg + 528 ≤ 1024 * c.crew.scrKiB →
      let m := imageWord c t.nextSeq deg (.load false) false
      let raw := ((List.range 33).map (fun j => t.loadVal (c.crew.agent c.m.grp) ((t.group? c.m.crew c.m.grp).getD default) m
        (placeAcc j (.mem (scratchKey c.m.crew (deg + 16 * j))) 16 0 0) * 2 ^ (128 * j))).foldl (· + ·) 0
      let reserved := nbits raw (8 * 512 + 39) 1 ≠ 0 ∨ nbits raw (8 * 512 + 45) 83 ≠ 0
      (¬ reserved → BerylIssues (.qload w) w s t c (.load q.toNat raw) (fun g => g)) ∧
      (reserved → Traps (.qload w) s t c 0x12 (faultInfo 0 false 0)))) ∧
  (∀ d q, w.dst = .v d → w.a = .q q → go (.qrd w) →
    BerylIssues (.qrd w) w s t c (.rd d.toNat (decide (w.ty = 3)) q.toNat w.imm8 (startAct (.qrd w) c)) (fun g => g)) ∧
  (∀ q, w.a = .q q → go (.qsave w) →
    let off := c.uval w w.b
    off % 16 = 0 → off + 528 ≤ 1024 * c.crew.scrKiB →
      BerylIssues (.qsave w) w s t c (.save q.toNat) (fun g => { g with mws := g.mws ++ [imageWord c t.nextSeq off .store true] }))

/-! ### Steps of the groups -/

/-- R13, R14, R161: ISSUE_CHOICE takes as lead a ready entity that none precedes in R14's order, and packs with it only entities of other groups that stand at the same word of
the same state of one image, up to a width of 64 lanes; the pipe is then busy for one cycle. R53: a wait that PREEMPT ends is no issue of the pipe.
R318: RESULT_LAND lands what is due and nothing else; R10: CODE_SEGMENT_DELIVER gives a waiting entity the words of its segment. Model's readings: log 12, 49, 50 and 51. -/
def Obligations.IssueAndLandingSteps : Prop :=
  (∀ (core pipe : Nat) (s : State) (k : Core) (lead : Cand),
    let all := s.cands core pipe (s.cyc core)
    let pack := packOf lead all
    pipe < 2 → core < 160 → s.cores[core]? = some k → k.pipes[pipe]?.getD 0 ≤ s.cyc core →
    s.abandoning core (s.cyc core) = [] → leadOf all = some lead →
    ∃ t : State, exec (.issueChoice core pipe) s = .next t ∧ t.issue = pack.map (·.m) ∧
      t.cores[core]? = some { k with pipes := k.pipes.set pipe (s.cyc core + 1) } ∧ (∀ j, j ≠ core → t.cores[j]? = s.cores[j]?) ∧
      ({ t with issue := s.issue, cores := s.cores, crews := s.crews } : State) = s ∧
      lead ∈ all ∧ ((∀ x ∈ all, x.turn < 223) → ∀ x ∈ all, x.leads lead = false) ∧
      (∀ x ∈ pack, x ∈ all ∧ x.img = lead.img ∧ x.st = lead.st ∧ x.pos = lead.pos ∧ x.code = lead.code) ∧
      (lead.width ≤ 64 → (pack.map (·.width)).sum ≤ 64) ∧ (pack.map (fun x => (x.m.crew, x.m.grp))).Nodup) ∧
  (∀ (core pipe : Nat) (s : State) (k : Core), pipe < 2 → core < 160 → s.cores[core]? = some k → k.pipes[pipe]?.getD 0 ≤ s.cyc core →
    s.abandoning core (s.cyc core) ≠ [] → ∃ t : State, exec (.issueChoice core pipe) s = .next t ∧ t.issue = s.issue ∧ t.cores.map (·.pipes) = s.cores.map (·.pipes)) ∧
  (∀ (g : GRef) (s : State) (c : Crew) (gr : Group), s.crew? g.crew = some c → s.group? g.crew g.grp = some gr → (∃ p ∈ gr.pend, p.due ≤ s.cyc c.core) →
    ∃ (t : State) (g' : Group), exec (.resultLand g) s = .next t ∧ OnlyGroup s t g.crew g.grp ∧ t.group? g.crew g.grp = some g' ∧
      g'.pend = gr.pend.filter (fun p => decide (s.cyc c.core < p.due)) ∧
      g' = gr.land (s.cyc c.core) ∧ ({ g' with v := gr.v, p := gr.p, s := gr.s, pend := gr.pend } : Group) = gr) ∧
  (∀ (m : Member) (s s1 : State) (c : Crew) (g : Group) (e : Ent) (bytes : List Byte),
    s.crew? m.crew = some c → s.group? m.crew m.grp = some g → g.ent? m.ent = some e → e.wait = some .fetch → c.phase = .resident → c.stopped = false → g.free? e = true →
    let im := (s.image? c.img).getD default
    let d := im.states[e.st]?.getD default
    let r := s.fetchPages c m.grp ((im.base + im.codeOff + d.seg) % 2 ^ 64) (ceilDiv (12 * d.nword) 4096)
    r.2 = .ok bytes → c.core < s.cores.length → r.1.putSeg c.core ⟨c.img, e.st, codeOf bytes d.nword, s.nextSeq, false⟩ = some s1 →
    ∃ t : State, exec (.codeSegmentDeliver m) s = .next t ∧ t.ent? m = some { e with code := codeOf bytes d.nword, wait := none })

/-- R31 to R36, R39, R47, R50: the vote of an unsplit group. Without a live lane the group retires; a set that is a key enters its successor state; of the other sets a single
block is entered in its home state, parks at a merge block or traps BINDING at a stub, and an overflow keeps every lane that goes on.
R40: parked lanes come back as split 0 when nothing is active or deferred. R42: the 1,024th entry marks a split. R50: a handler's set without a successor is fatal. Model's readings: log 30, 48 and 84. -/
def Obligations.VoteSteps : Prop :=
  (∀ (g : GRef) (s : State) (c : Crew) (gr : Group) (e : Ent), s.crew? g.crew = some c → s.group? g.crew g.grp = some gr → c.phase = .resident → c.stopped = false →
    gr.retired = false → gr.handler = none → gr.ents = [e] → gr.isSplit = false → gr.votes (s.cyc c.core) e = true → s.lastHeld c gr e.lanes = false →
    let r := s.nexts c gr e.lanes
    let n := voteOf r.2
    let on := r.2.filter (fun x => x.2 != exitBlk)
    let im := (s.image? c.img).getD default
    let key := if n.length ≤ 7 then im.succ? n else none
    let m : Member := ⟨g.crew, g.grp, e.idx⟩
    let enters := fun (st : Nat) => ∃ (t : State) (g' : Group) (e' : Ent), exec (.stateVote g) s = .next t ∧ t.group? g.crew g.grp = some g' ∧ t.ent? m = some e' ∧
      e'.st = st ∧ e'.pos = 0 ∧ e'.mark = false ∧ e'.lanes = maskOf (on.map (·.1)) ∧
      ∀ x ∈ on, (g'.lane x.1).blk = BitVec.ofNat 16 x.2 ∧ (g'.lane x.1).occ = BitVec.ofNat 16 x.2 ∧ (g'.lane x.1).marked = false
    (n = [] → c.rdv = [] → ∃ (t : State) (g' : Group), exec (.stateVote g) s = .next t ∧ t.group? g.crew g.grp = some g' ∧ g'.retired = true ∧ g'.nblk = 0 ∧ g'.ents = []) ∧
    (e.idx < 4 → (∀ l, e.lanes.getLsbD l = true → (gr.lane l).valid = true) → gr.atVote = [] → c.preempt = none → n ≠ [] →
      (∀ st, key = some st → enters st) ∧
      (∀ b, key = none → n = [b] → r.1.isStub c b = false → r.1.isMerge c b = false → enters (r.1.homeOf c b)) ∧
      (∀ b, key = none → n = [b] → r.1.isStub c b = false → r.1.isMerge c b = true →
        ∃ (t : State) (g' : Group), exec (.stateVote g) s = .next t ∧ t.group? g.crew g.grp = some g' ∧ g'.ents = [] ∧ g'.parked = [(b, maskOf (on.map (·.1)))]) ∧
      (∀ b entry home, key = none → n = [b] → r.1.isStub c b = true → r.1.handlerEntry c 1 = some (entry, home) →
        ∃ (t : State) (g' : Group), exec (.stateVote g) s = .next t ∧ t.group? g.crew g.grp = some g' ∧ g'.cause = causeBinding ∧ g'.info = BitVec.ofNat 64 b ∧ g'.handler.isSome) ∧
      (key = none → 2 ≤ n.length →
        ∃ (t : State) (g' : Group), exec (.stateVote g) s = .next t ∧ t.group? g.crew g.grp = some g' ∧ g'.liveMask = maskOf (on.map (·.1))))) ∧
  (∀ (g : GRef) (s : State) (c : Crew) (gr : Group) (b : Nat) (lanes : Word), s.crew? g.crew = some c → s.group? g.crew g.grp = some gr → c.phase = .resident →
    c.stopped = false → gr.retired = false → gr.handler = none → gr.traps = [] → gr.ents = [] → gr.deferred = [] → gr.parked = [(b, lanes)] → lanes ≠ 0 →
    gr.atVote = [] → c.preempt = none → s.camHeld c gr [] = false →
    ∃ (t : State) (g' : Group) (e' : Ent), exec (.splitGroupCycle g) s = .next t ∧ t.group? g.crew g.grp = some g' ∧ g'.parked = [] ∧ g'.ents = [e'] ∧
      e'.idx = 0 ∧ e'.lanes = lanes ∧ e'.pos = 0 ∧ e'.st = (((s.image? c.img).getD default).succ? [b]).getD (s.homeOf c b)) ∧
  (∀ (m : Member) (s : State) (g : Group) (e : Ent), s.group? m.crew m.grp = some g → g.ent? m.ent = some e → g.isSplit = true → m.ent ≠ handlerIdx → 1024 ≤ e.entries →
    e.mark = false → ∃ t : State, exec (.stateEntryCountLimit m) s = .next t ∧ OnlyGroup s t m.crew m.grp ∧ t.ent? m = some { e with mark := true }) ∧
  (∀ (g : GRef) (s : State) (c : Crew) (gr : Group) (h : Handler), s.crew? g.crew = some c → s.group? g.crew g.grp = some gr → c.phase = .resident → c.stopped = false →
    gr.retired = false → gr.handler = some h → gr.votes (s.cyc c.core) h.ent = true → s.descHeld c gr h.ent.lanes = false →
    let n := voteOf (s.nexts c gr h.ent.lanes).2
    let im := (s.image? c.img).getD default
    (n ≠ [] → (if n.length ≤ 7 then im.succ? n else none) = none →
      ∃ t : State, exec (.stateVote g) s = .next t ∧ t.kills = s.kills ++ [⟨c.region, c.part, 1, c.taskId⟩] ∧ (t.crew? g.crew).map (·.stopped) = some true) ∧
    (∀ st, n ≠ [] → (if n.length ≤ 7 then im.succ? n else none) = some st →
      ∃ t : State, exec (.stateVote g) s = .next t ∧ (t.ent? ⟨g.crew, g.grp, handlerIdx⟩).map (·.st) = some st))

/-! ### Steps of the ordering machine -/

/-- R67, R68, R86, R87, R240, R243, R246, R380: a performed load gives its lane the value it reads and changes no byte, and writes it to the lane's register unless a lost module could still cut the word short, which is then
written when its last access is done; a word whose last access is done leaves;
an uncorrectable error stops the crew; an atomic replaces the newest value by the one R246 gives; a drained store is the newest at its bytes, its own group reads it, and an agent
outside its instance reads as before; a propagated store becomes visible at the next instance; a word's line passes the map point; a delivered word starts over, and its operand log entry
is held until it completes. Model's readings: log 19, 22 and 54. -/
def Obligations.OrderingSteps : Prop :=
  (∀ (g : GRef) (seq lane : Nat) (s : State) (c : Crew) (gr : Group) (m : MemWord) (a : Acc), s.actor g seq lane = some (c, gr, m, a) →
    let me := c.agent g.grp
    let v := s.accLoad c g.grp gr m a
    let done := fun (val : Nat) => modAcc m.accs lane (fun x => { x with done := true, val := val })
    let writes := fun (t : State) (lvl key n data : Nat) =>
      (∀ k, t.latestKey k = ((List.zip (keysFrom key n) (bytesOf n data)).lookup k).getD (s.latestKey k)) ∧
      (∀ k, t.readKey me k = ((List.zip (keysFrom key n) (bytesOf n data)).lookup k).getD (s.readKey me k)) ∧
      ∀ r, sameInst lvl me r = false → sameInst 1 me r = false → ∀ k, t.readKey r k = s.readKey r k
    (s.opsBefore c.core c.uid g.grp m.seq = [] → v = s.loadVal me gr m a) ∧
    (∀ sign, m.op = .load sign → s.badPlace a.place a.size = none →
      ∃ t : State, exec (.perform g seq lane) s = .next t ∧ (∀ r k, t.readKey r k = s.readKey r k) ∧
        ((s.group? g.crew g.grp).bind (fun x => x.word? m.seq) = some m →
          ((done v).all (·.done) = false → ∃ m', ((t.group? g.crew g.grp).bind (fun x => x.word? m.seq)) = some m' ∧ m'.accs = done v) ∧
          ((done v).all (·.done) = true → ((t.group? g.crew g.grp).bind (fun x => x.word? m.seq)) = none) ∧
          (∀ r, m.dst = .v r false → (m.lds = false ∨ m.clob = []) → r < 16 * gr.nblk → (m.accs.map (·.lane)).Nodup → (∀ x ∈ m.accs, x.lane < 64 ∧ ¬ x.lane ∈ m.zero) →
            let ext := fun (x : Acc) => BitVec.ofNat 64 (if sign ∧ x.size < 8 then sext64 (8 * x.size) x.val else x.val)
            ∃ g', t.group? g.crew g.grp = some g' ∧
              (m.byLane = true → g'.landAll.getV r lane = ext { a with val := v }) ∧
              (m.byLane = false → (done v).all (·.done) = true → ∀ x ∈ done v, g'.landAll.getV r x.lane = ext x)))) ∧
    (∀ k, m.op.readsData = true → s.badPlace a.place a.size = some k →
      ∃ t : State, exec (.perform g seq lane) s = .next t ∧ t.kills = s.kills ++ [⟨c.region, c.part, 5, c.taskId⟩] ∧
        ∃ rec_, t.faq = s.faq ++ [(rec_, none)] ∧ rec_.kind = 0x13 ∧ rec_.phys = true ∧ rec_.addr = BitVec.ofNat 64 (k / 8 / 256 * 256)) ∧
    (∀ op uns key, m.op = .atom op uns → a.place = some (.mem key) → s.badPlace a.place a.size = none →
      let old := ofBytes ((keysFrom key a.size).map s.latestKey)
      ∃ t : State, exec (.perform g seq lane) s = .next t ∧
        (∀ new, atomNew op uns a.size old a.data a.cmp = some new → writes t (m.drainLevel) key a.size new) ∧
        (atomNew op uns a.size old a.data a.cmp = none → ∀ r k, t.readKey r k = s.readKey r k)) ∧
    (∀ key, m.op = .store → a.place = some (.mem key) →
      ∃ t : State, exec (.drain g seq lane) s = .next t ∧ writes t m.drainLevel key a.size a.data) ∧
    (∀ x y reg l b, m.op = .store → a.place = some (.vreg x y reg l b) → ∃ t : State, exec (.drain g seq lane) s = .next t ∧ ∀ r k, t.readKey r k = s.readKey r k)) ∧
  (∀ (s : State) (pre post : List Drained) (d : Drained), s.drained = pre ++ d :: post → (∀ x ∈ pre, x.id ≠ d.id) → (∀ x ∈ post, x.id ≠ d.id) → d.level < 5 →
    let up : Drained := { d with level := d.level + 1 }
    ∃ t : State, exec (.propagate d.id) s = .next t ∧ (∀ k, t.latestKey k = s.latestKey k) ∧
      (∀ r, up.visible r = d.visible r → ∀ k, t.readKey r k = s.readKey r k) ∧
      (∀ r k b, up.visible r = true → cellAt d.cells k = some b → (∀ x ∈ post, cellAt x.cells k = none) → t.readKey r k = b)) ∧
  (∀ (g : GRef) (seq lane : Nat) (s : State) (gr : Group) (m : MemWord), s.group? g.crew g.grp = some gr → gr.word? seq = some m →
    (∀ a k, m.stat = .ready → m.accs.find? (fun x => x.lane == lane && x.virt && !x.passed) = some a → a.place = some (.mem k) → s.mapHeld (k / 8) = false →
      ∃ (t : State) (m' : MemWord), exec (.mapPointPass g seq lane) s = .next t ∧ OnlyGroup { s with nextSeq := s.nextSeq + 1 } t g.crew g.grp ∧
        (t.group? g.crew g.grp).bind (fun x => x.word? seq) = some m' ∧ (∀ x ∈ m'.accs, x.virt = true → x.line = a.line → x.passed = true) ∧
        m'.accs.map (fun x => ({ x with passed := false, first := 0 } : Acc)) = m.accs.map (fun x => ({ x with passed := false, first := 0 } : Acc))) ∧
    (m.stat = .resolved → s.capLines m = [] →
      ∃ (t : State) (m' : MemWord), exec (.mapPointPass g seq lane) s = .next t ∧ (t.group? g.crew g.grp).bind (fun x => x.word? seq) = some m' ∧ m'.stat = .ready) ∧
    (∀ line rest, m.stat = .resolved → gr.logBars m = false → s.capLines m = line :: rest →
      ∃ t : State, exec (.mapPointPass g seq lane) s = .next t ∧ ∃ rec_, t.faq = s.faq ++ [(rec_, none)] ∧ rec_.kind = 0x11 ∧ rec_.addr = BitVec.ofNat 64 (256 * line))) ∧
  (∀ (g : GRef) (seq : Nat) (s : State) (c : Crew) (gr : Group) (m : MemWord), s.crew? g.crew = some c → s.group? g.crew g.grp = some gr → gr.word? seq = some m →
    m.stat = .delivered → gr.handler = none → gr.traps = [] → c.phase = .resident →
    ∃ (t : State) (g' : Group) (m' : MemWord), exec (.replay g seq) s = .next t ∧ OnlyGroup s t g.crew g.grp ∧ t.group? g.crew g.grp = some g' ∧ g'.word? seq = some m' ∧
      m'.logged = true ∧ m'.stat = (if m.accs.any (fun a => a.virt && !a.done) then .walking else .ready) ∧ (∀ a ∈ m'.accs, a.virt = true → a.done = false → a.place = none) ∧
      ∀ r, m.cnt = some r → g'.getA r = gr.getA r + 1)

/-! ### The ends of waits -/

namespace Sys2Proof.Claims

open Machine

/-- A step is taken, and its state is as said. -/
def Goes (i : Instr) (s : State) (p : State → Prop) : Prop := ∃ t : State, exec i s = .next t ∧ p t

/-- An entity but for the note that its lanes have met without a common state, which a binding handler takes over (R47, R75). -/
def unmet (e : Ent) : Ent := { e with met := false }

/-- The word in which an entity waits is over. -/
def WordOver (t : State) (m : Member) (e : Ent) : Prop := (t.ent? m).map unmet = some (unmet { e with pos := e.pos + 1, wait := none })

/-- Every byte reads as before to every agent. -/
def SameBytes (s t : State) : Prop := ∀ r k, t.readKey r k = s.readKey r k

end Sys2Proof.Claims

/-- R22, R23, R111, R114, R120, R122, R123, R137, R191, R250, R254, R255, R270: each wait ends when what it waits for has come, and its word is then over: RACQ when its granules are
free, a crew barrier when every group has arrived, TBWAIT when the phase has changed or an error stands, WAITA when the counter has come down, TWAIT when the ticket is not busy,
MWAIT at a set latch or at its timeout. Model's readings: log 27. -/
def Obligations.WaitEndSteps : Prop :=
  (∀ (core n : Nat) (m : Member) (s : State) (c : Crew) (g : Group) (e : Ent), s.racqFirst core = some (m, n) → s.crew? m.crew = some c → s.group? m.crew m.grp = some g →
    g.ent? m.ent = some e → (n - g.nblk) * (c.width / 8) ≤ s.freeGranules core →
    Goes (.racqGrant core) s (fun t => WordOver t m e ∧ (t.group? m.crew m.grp).map (·.nblk) = some (max g.nblk n) ∧ SameBytes s t)) ∧
  (∀ (crew n : Nat) (s : State) (c : Crew), s.crew? crew = some c → s.barReady crew n = true → (∀ g ∈ c.groups, (g.ents.map (·.idx)).Nodup ∧ (∀ e ∈ g.ents, e.idx < 4) ∧ ∀ h, g.handler = some h → h.ent.idx = handlerIdx) →
    Goes (.barComplete crew n) s (fun t => SameBytes s t ∧
      ∀ m e, m.crew = crew → s.ent? m = some e → (e.wait = some (.bar n) → WordOver t m e) ∧ (e.wait ≠ some (.bar n) → (t.ent? m).map unmet = some (unmet e)))) ∧
  (∀ (m : Member) (s : State) (g : Group) (e : Ent), s.group? m.crew m.grp = some g → g.ent? m.ent = some e →
    (∀ off ph x w, e.wait = some (.tbwait off ph) → s.waiting m = some (x, .tbwait, w) →
      let b := s.tbar (scratchKey m.crew off)
      (b.phase ≠ ph ∨ b.err = true) → Goes (.tbwaitEnd m) s (fun t => WordOver t m e ∧ SameBytes s t ∧
        (∀ d, w.dst = .s d → d ≠ 0 → g.traps = [] → ∃ g', t.group? m.crew m.grp = some g' ∧
          g'.landAll.getS d.toNat = BitVec.ofNat 64 (b.phase + (if b.err then 16 else 0) + 32 * b.kind + 256)))) ∧
    (∀ a n, e.wait = some (.waita a n) → (g.getA a).toNat ≤ n → Goes (.waitaEnd m) s (fun t => WordOver t m e ∧ SameBytes s t)) ∧
    (∀ k, e.wait = some (.twait k) →
      ((g.ticket k = .idle ∨ ∃ ids, g.ticket k = .done ids) → Goes (.twaitEnd m) s (fun t => WordOver t m e ∧ SameBytes s t ∧
        (t.group? m.crew m.grp).map (fun x => x.ticket k) = some .idle)) ∧
      (∀ cause info, g.ticket k = .failed cause info → exec (.twaitEnd m) s =
        .next (((s.modGroup m.crew m.grp (fun x => { x with k := x.k.set k .idle })).modEnt m (fun x => { x with wait := none })).raise m cause info))) ∧
    (∀ since lim x w, e.wait = some (.mwait since lim) → s.waiting m = some (x, .mwait, w) → g.traps = [] →
      let gives := fun (i : Instr) (r : Nat) => Goes i s (fun t => WordOver t m e ∧ SameBytes s t ∧
        ∃ g', t.group? m.crew m.grp = some g' ∧ g'.latch = none ∧ ∀ d, w.dst = .s d → d ≠ 0 → g'.landAll.getS d.toNat = BitVec.ofNat 64 r)
      (∀ l, g.latch = some l → g.mwaiters = [m.ent] →
        let r := match l.write, l.line with
          | some k, _ => 256 * k
          | none, some k => 1 + 256 * k
          | none, none => 2
        gives (.mwaitWake m) r ∧ (lim ≠ 0 → since + lim ≤ s.clock.toNat → gives (.mwaitTimeout m) r)) ∧
      (g.latch = none → lim ≠ 0 → since + lim ≤ s.clock.toNat → gives (.mwaitTimeout m) 3)))

/-! ### Work and its placement -/

/-- R256, R257, R338, R340, R341, R343, R347: a posted record enters its partition's matcher under the next TASKID; a host record is read into hand or skipped; a placed crew
stands on its core with its grid point and its launch state; a crew whose groups have retired leaves, and with its last crew its task; a kill ends every crew and task of the domain. Model's readings: log 37, 39, 40, 56 and 83. -/
def Obligations.TaskSteps : Prop :=
  (∀ (m : Member) (s t1 : State) (c : Crew) (g : Group) (e : Ent) (try_ : Bool) (addr seq x : Nat) (path : List (Nat × BitVec 1024)) (cx : Ctx) (w : Body),
    s.crew? m.crew = some c → s.group? m.crew m.grp = some g → g.ent? m.ent = some e → e.wait = some (.spawn try_ addr seq) → s.waiting m = some (cx, .spawn, w) →
    c.phase = .resident → s.releaseReady c m.grp g seq 4 = true → g.spawnBefore seq = false → s.readRecord c m.grp addr 128 State.lineHeld = (t1, .got x) →
    let raw := BitVec.ofNat 1024 x
    let region := if trRegion raw = 0 then c.region else trRegion raw
    let t2 := t1.cachePath c.part path
    let id := (s.dev.parts[c.part]?.getD Part.init).nextId
    t1.path? c.part region = some path → badRecord ((s.image? c.img).getD default) raw = false → postable path c.region = true → t2.inflight c.part < 4096 →
    t2.tasksOk c.part region = true → trCrews raw ≠ 0 →
    Goes (.taskEnter (.spawn m)) s (fun t => WordOver t m e ∧
      ∃ k ∈ t.tasks, k.id = id ∧ k.raw = raw ∧ k.region = region ∧ k.part = c.part ∧ k.placed = 0 ∧ k.left = trCrews raw)) ∧
  (∀ (fn q part img : Nat) (raw : BitVec 1024) (s : State), (s.queue fn q).hand = some (img, raw) → s.queuePart fn q = some part → (s.queue fn q).en = true →
    s.nextHand part = some (4 * fn + q) →
    let x := s.queue fn q
    let region := if trRegion raw = 0 then x.region.toNat else trRegion raw
    (s.hostBad part img x raw = false → trCrews raw ≠ 0 → Goes (.taskEnter (.host fn q)) s (fun t => (t.queue fn q).head = x.head + 1 ∧ (t.queue fn q).hand = none ∧
      ∃ k ∈ t.tasks, k.id = (s.dev.parts[part]?.getD Part.init).nextId ∧ k.raw = raw ∧ k.region = region ∧ k.part = part ∧ k.queue = some (fn, q))) ∧
    (s.hostBad part img x raw = true → Goes (.taskEnter (.host fn q)) s (fun t => (t.queue fn q).head = x.head + 1 ∧ (t.queue fn q).skip = true ∧
      (t.queue fn q).hand = none ∧ t.tasks = s.tasks ∧ SameBytes s t ∧ t.dev.vectors = s.dev.vectors ++ (if fn = 0 then [] else [(fn, 1)])))) ∧
  (∀ (fn q img part : Nat) (im : Image) (s : State), fn < 32 → q < 4 → s.image? img = some im → im.part = part → s.queuePart fn q = some part →
    s.nextQueue part = some (4 * fn + q) →
    let x := s.queue fn q
    let raw := BitVec.ofNat 1024 (s.readNum .device (.mem (hostKey x.entryAddr)) 128)
    let region := if trRegion raw = 0 then x.region.toNat else trRegion raw
    let good := badRecord im raw = false ∧ ∃ path, s.path? part region = some path ∧ postable path x.region.toNat = true
    let read := s.cachePath part (s.path part region)
    (good → Goes (.queueRecordRead fn q img) s (fun t => t.queue fn q = { x with hand := some (img, raw) } ∧ SameBytes read t)) ∧
    (¬ good → (s.path? part region = none → s.pathWaits part region 16 = false) → Goes (.queueRecordRead fn q img) s (fun t =>
      (t.queue fn q).head = x.head + 1 ∧ (t.queue fn q).skip = true ∧ (t.queue fn q).hand = none ∧ SameBytes read t ∧
      t.dev.vectors = read.dev.vectors ++ (if fn = 0 then [] else [(fn, 1)])))) ∧
  (∀ (part core : Nat) (s : State) (k : Task), s.nextPlaced part = some k → s.draining part = false → s.taskFits k core = true → s.savedAbove part k.eff = false →
    (∀ c ∈ s.crews, c.uid < s.nextUid) →
    let n := s.needOf k
    Goes (.placementDecision part core) s (fun t => ∃ c, t.crew? s.nextUid = some c ∧ c.core = core ∧ c.task = k.uid ∧ c.taskId = k.id ∧ c.part = k.part ∧ c.region = k.region ∧
      c.grid = gridOf k.raw k.placed ∧ c.phase = .resident ∧ s.freeSlot core = some c.slot ∧ c.groups.length = n.groups ∧
      ∀ i g, c.groups[i]? = some g → g.liveMask = maskOf ((List.range n.width).filter (fun l => decide (i * n.width + l < trRows k.raw))) ∧
        g.v = [] ∧ g.p = [] ∧ g.s = [] ∧ g.b = [] ∧ g.a = [] ∧ g.pend = [] ∧ g.mws = [])) ∧
  (∀ (crew : Nat) (s : State) (c : Crew) (k : Task), s.crew? crew = some c → c.phase = .resident → (∀ g ∈ c.groups, g.retired = true) → s.crewBusy c = false →
    s.task? c.task = some k →
    Goes (.crewRetire crew) s (fun t => t.crew? crew = none ∧ (2 ≤ k.left → ∃ k', t.task? c.task = some k' ∧ k'.left = k.left - 1) ∧ (k.left ≤ 1 → t.task? c.task = none))) ∧
  (∀ (s : State) (k : KillReq) (rest : List KillReq), s.kills = k :: rest → s.killWaits k = false →
    let root := s.killRoot k
    Goes .kill s (fun t => t.dev.killCnt = s.dev.killCnt + 1 ∧ t.dev.vectors = s.dev.vectors ++ [(0, 1)] ∧
      (∀ c ∈ t.crews, ¬ (c.part = k.part ∧ s.under k.part c.region root = true)) ∧ (∀ u ∈ t.tasks, ¬ (u.part = k.part ∧ s.under k.part u.region root = true)) ∧
      ∀ r ∈ t.rcbs, r.1 = regionKey k.part root → rcbKilled r.2 = true))

/-! ### Pre-emption and context -/

/-- R54, R122, R346, R347, R366 to R371: PREEMPT is raised with the grace budget's deadline and the image reserved; a budget that runs out kills the domain with cause 2; a crew
at rest leaves its core with its translations and its landed registers, its shadow halves drain, and a restored crew stands on its new core with its armed lines' latches set, and one flip may save a crew and restore another. Model's readings: log 41, 55, 56 and 85. -/
def Obligations.ContextSteps : Prop :=
  (∀ (crew : Nat) (s : State) (c : Crew), s.crew? crew = some c →
    (s.canPreempt c = true → (s.draining c.part = true ∨ ∃ w ∈ s.waitingCrews c.part, s.callsFor c w.1 w.2 = true) →
      Goes (.preemptRaise crew) s (fun t => SameBytes s t ∧ ∃ c', t.crew? crew = some c' ∧
        c'.preempt = some (s.clock.toNat + rcbGrace (effRcb (s.path c.part c.region) 2)) ∧ c'.image = some (roundUp (448 + c.scrKiB + c.obKiB + 4 * c.accN) 4))) ∧
    (∀ d, c.preempt = some d → d ≤ s.clock.toNat → (∃ g ∈ c.groups, g.retired = false ∧ g.preDone = false) → c.stopped = false →
      Goes (.graceExpiry crew) s (fun t => t.kills = s.kills ++ [⟨c.region, c.part, 2, c.taskId⟩] ∧ SameBytes s t)) ∧
    (c.phase = .resident → c.preempt.isSome → c.stopped = false → (∀ g ∈ c.groups, g.atRest = true) → (∃ g ∈ c.groups, g.retired = false) → c.core < s.cores.length →
      (∀ x ∈ (s.core c.core).matrix, x.crew ≠ crew) → (∀ x ∈ (s.core c.core).beryl, x.crew ≠ crew) →
      s.shadowMeets c.core c.obBase c.obKiB c.accBase c.accN c.scrKiB = false →
      Goes (.crewFlip crew) s (fun t => (∃ c', t.crew? crew = some c' ∧ c'.phase = .saved ∧ c'.preempt = none ∧ c'.groups = c.groups.map Group.landAll) ∧
        (crew, c.scrKiB, c.obBase, c.accBase) ∈ (t.core c.core).shadow ∧ ∀ x ∈ t.tlb1 ++ t.tlb2, x.crew ≠ crew)) ∧
    (∀ core, s.canRestore c core = true → s.savedAbove c.part (s.taskPrio c) = false → (∀ k, s.nextPlaced c.part = some k → k.eff ≤ s.taskPrio c) →
      Goes (.crewRestore crew core) s (fun t => ∃ c', t.crew? crew = some c' ∧ c'.core = core ∧ c'.phase = .resident ∧ c'.image = none ∧ c'.order = s.nextSeq ∧
        ∀ (i : Nat) (g : Group), c.groups[i]? = some g → g.retired = false → g.monitors ≠ [] → ∃ g' : Group, c'.groups[i]? = some g' ∧ g'.latch.map (·.restore) = some true)) ∧
    (∀ core, s.canRestore c core = false → (∀ o ∈ s.onCore core, o.uid ≠ crew) → (s.exchange c core).isSome →
      Goes (.crewRestore crew core) s (fun t => (∃ o ∈ s.onCore core, (t.crew? o.uid).map (·.phase) = some .saved) ∧ ∃ c', t.crew? crew = some c' ∧ c'.core = core ∧
        c'.phase = .resident ∧ c'.image = none))) ∧
  (∀ (core crew : Nat) (s : State) (k : Core), s.cores[core]? = some k → (∃ x ∈ k.shadow, x.1 = crew) →
    (∀ c, s.crew? crew = some c → s.arenaHeld c.part = false) →
    Goes (.shadowDrain core crew) s (fun t => t.cores[core]? = some { k with shadow := k.shadow.filter (fun x => x.1 != crew) } ∧
      (∀ j, j ≠ core → t.cores[j]? = s.cores[j]?) ∧ ({ t with cores := s.cores } : State) = s))

/-! ### Translation, verdicts and shootdowns -/

/-- R58, R352 to R365: a walk gives the word's lowest open line its place, or posts a waiting record under a token; the oldest record is written to the host's ring; a verdict
lets the word walk again or delivers PAGE; a copy's walk is one that the copy needs; a flushed entry leaves its cache and in harvest mode ORs A and D
into its leaf, which it owes while the leaf's line waits at the map point; a shootdown leaves no translation of its range. Model's readings: log 31, 54, 58, 59 and 71. -/
def Obligations.TranslationSteps : Prop :=
  (∀ (g : GRef) (seq lane line : Nat) (rest : List Nat) (uc cf : Bool) (s : State) (c : Crew) (gr : Group) (m : MemWord), s.crew? g.crew = some c →
    s.group? g.crew g.grp = some gr → gr.word? seq = some m → c.phase = .resident → m.stat = .walking → m.openLines = line :: rest → gr.lineWaits m line = false →
    (∃ a ∈ m.accs, a.virt = true ∧ a.place = none ∧ a.lane = lane ∧ a.line = line) →
    let read := s.translate ⟨c.core, c.uid, c.part, m.op.writes, false, g.grp⟩ (256 * line) uc cf
    let r := read.2
    (∀ l pa, r = .ok l pa → Goes (.pageWalk (.word g seq lane) uc cf) s (fun t => ∃ m', (t.group? g.crew g.grp).bind (fun x => x.word? seq) = some m' ∧
      ∀ a ∈ m'.accs, a.virt = true → a.line = line → a.place = some (.mem (plocKey l (pa + a.va % 256))))) ∧
    (∀ k, r = .fault k → s.capLines m = [] → gr.logBars m = false → Goes (.pageWalk (.word g seq lane) uc cf) s (fun t =>
      ((t.group? g.crew g.grp).bind (fun x => x.word? seq)).map (·.stat) = some (.asked s.nextTok.toNat) ∧
      (∃ l, read.1.faq = s.faq ++ l ∧ ∀ x ∈ l, x.1.wait = false ∧ x.1.kind = 0x13 ∧ x.1.acc = 6) ∧
      ∃ f, t.faq = read.1.faq ++ [(f, some (.word ⟨c.uid, g.grp⟩ seq))] ∧ f.kind = BitVec.ofNat 8 k ∧ f.wait = true ∧ f.token = s.nextTok ∧
        f.addr = BitVec.ofNat 64 (256 * line)))) ∧
  (∀ (core slot va : Nat) (wr uc cf : Bool) (s : State) (cp : Copy) (c : Crew), s.copy? core slot = some cp → s.crew? cp.crew = some c → c.phase = .resident →
    let read := s.translate ⟨c.core, c.uid, c.part, wr, false, cp.grp⟩ (va / 256 * 256) uc cf
    (s.copyNeeds cp (va / 256, wr) = true → read.2 ≠ .wait → exec (.pageWalk (.copy core slot va wr) uc cf) s = .next read.1) ∧
    (s.copyNeeds cp (va / 256, wr) = false → exec (.pageWalk (.copy core slot va wr) uc cf) s = .refused (.notEnabled "PAGE_WALK"))) ∧
  (∀ (s : State) (r : FaqRec × Option Asker) (rest : List (FaqRec × Option Asker)), s.dev.faqEn = true → s.faq = r :: rest →
    let n := (s.dev.faqTail - s.dev.faqHead).toNat
    let addr := s.dev.faqBase.toNat / 4096 * 4096 + 32 * (s.dev.faqTail.toNat % 2 ^ s.dev.faqLog.toNat)
    (n < 2 ^ s.dev.faqLog.toNat → Goes .faqRecordPost s (fun t => t.faq = rest ∧ t.dev = { s.dev with faqTail := s.dev.faqTail + 1, vectors := s.dev.vectors ++ [(0, 0)] } ∧
      ∀ a k, t.readKey a k = ((List.zip (keysFrom (hostKey addr) 32) (bytesOf 32 r.1.bits.toNat)).lookup k).getD (s.readKey a k))) ∧
    (2 ^ s.dev.faqLog.toNat ≤ n → (∀ x ∈ s.faq, x.1.wait = true) → s.dev.faqOvf = false → exec .faqRecordPost s = .next { s with dev := { s.dev with faqOvf := true } }) ∧
    (2 ^ s.dev.faqLog.toNat ≤ n → r.1.wait = false → Goes .faqRecordPost s (fun t => t.faq = rest ∧ t.dev.faqOvf = true ∧ SameBytes s t ∧
      t.dev.faqDrop = (if s.dev.faqDrop = 0xFFFF then s.dev.faqDrop else s.dev.faqDrop + 1)))) ∧
  (∀ (token : BitVec 32) (s : State),
    ((s.dev.ready = false ∨ s.asked.find? (fun a => a.1 == token.toNat) = none) → exec (.faqRespResolved token) s = .next s ∧ exec (.faqRespDeclined token) s = .next s) ∧
    (∀ g seq addr gr m, s.dev.ready = true → s.asked.find? (fun a => a.1 == token.toNat) = some (token.toNat, .word g seq, addr) →
      (∀ r ∈ s.faq, ¬ (r.1.wait = true ∧ r.1.token = token)) → s.group? g.crew g.grp = some gr → gr.word? seq = some m → m.stat = .asked token.toNat →
      Goes (.faqRespResolved token) s (fun t => OnlyGroup (({ s with asked := s.asked.filter (fun a => a.1 != token.toNat) } : State).forgetLines g.crew (addr / 256 :: m.restartLines)) t g.crew g.grp ∧
        ((t.group? g.crew g.grp).bind (fun x => x.word? seq)).map (·.stat) = some (if m.accs.any (fun a => a.virt && !a.done) then .walking else .ready)) ∧
      (gr.retired = false → (s.crew? g.crew).map (·.phase) = some .resident → Goes (.faqRespDeclined token) s (fun t =>
        ((t.group? g.crew g.grp).bind (fun x => x.word? seq)).map (·.stat) = some .delivered ∧ SameBytes s t)))) ∧
  (∀ (second : Bool) (unit idx : Nat) (s : State) (e : TlbE), ((if second then s.tlb2 else s.tlb1).filter (fun x => x.unit == unit))[idx]? = some e →
    Goes (.tlbFlush second unit idx) s (fun t => t.tlb1 = (if second then s.tlb1 else s.tlb1.erase e) ∧ t.tlb2 = (if second then s.tlb2.erase e else s.tlb2) ∧
      t.owed = s.owed ++ (if (s.walkerMode e.part = false ∧ s.keyHeld e.leaf = true) ∧ (e.a = true ∨ e.d = true) then [e] else []) ∧
      ∀ k, t.latestKey k = if k = e.leaf ∧ s.walkerMode e.part = false ∧ s.keyHeld e.leaf = false then s.latestKey k ||| (if e.a then 0x10 else 0) ||| (if e.d then 0x20 else 0) else s.latestKey k)) ∧
  (∀ (part : BitVec 5) (s : State),
    (s.dev.ready = false → exec (.mapShootdown part) s = .next s ∧ exec (.mapHarvest part) s = .next s) ∧
    (s.dev.ready = true → s.dev.sdCmd = none → exec (.mapShootdown part) s = .next { s with dev := { s.dev with sdCmd := some (part, false) } } ∧
      exec (.mapHarvest part) s = .next { s with dev := { s.dev with sdCmd := some (part, true) } }) ∧
    (s.dev.ready = true → s.dev.sdCmd.isSome → exec (.mapShootdown part) s = .next { s with dev := { s.dev with sdErr := true } } ∧
      exec (.mapHarvest part) s = .next { s with dev := { s.dev with sdErr := true } }) ∧
    (∀ harvest, s.dev.sdCmd = some (part, harvest) →
      let addr := s.dev.sdAddr.toNat / 4096 * 4096
      let pages := s.dev.sdLen.toNat
      let inside := fun (e : TlbE) => e.part = part.toNat ∧ (pages = 0 ∨ (e.vbase < addr + 4096 * pages ∧ addr < e.vbase + e.size))
      (harvest = true ∨ s.linesOpen part.toNat addr pages = false) → (∀ e ∈ s.owed, ¬ inside e) → (∀ e ∈ s.tlb1 ++ s.tlb2, s.keyHeld e.leaf = false) →
      Goes .shootdownComplete s (fun t => t.dev = { s.dev with sdCmd := none, sdDone := s.dev.sdDone + 1 } ∧
        (harvest = true → t.tlb1 = s.tlb1 ∧ t.tlb2 = s.tlb2) ∧ (harvest = false → ∀ e ∈ t.tlb1 ++ t.tlb2, ¬ inside e))))

/-! ### The memory tiers -/

/-- R84, R85, R377, R378, R381 to R386, R401, R405: CAP_LIVE moves between sweeps up to Cap(N); TMB_RETIRE starts a sweep only where the new map holds what is live; the watermark
moves down one granule at a time, its unperformed lines return, and no byte below CAP_LIVE changes; a stack freezes at 105 °C, resumes at 95 °C, and a freeze of more than 10 s
is counted once, by the timeout or by the resumption (R405); a marked line that the Tumbler reads is posted, and vector 4 tells that a recommendation ends (R401). Model's
readings: log 7, 42 and 43. Model's readings: log 7, 42 and 43. -/
def Obligations.TierSteps : Prop :=
  (∀ (v : Word) (s : State), s.dev.ready = true →
    let m := v.extractLsb' 20 28
    let ok := s.sweeping = false ∧ m.toNat ≤ capOf s.dev.table_.length
    (ok → exec (.capLiveWrite v) s = .next { s with dev := { s.dev with capLive := m } }) ∧
    (¬ ok → exec (.capLiveWrite v) s = .next { s with dev := { s.dev with tmbErr := true } })) ∧
  (∀ (stack : BitVec 4) (s : State) (x : Stack), s.dev.ready = true → s.dev.hbm[stack.toNat]? = some x →
    let n := s.dev.table_.length
    let ok := s.dev.sweep = none ∧ s.sweeping = false ∧ stack.toNat ∈ s.dev.table_ ∧ x.state = 0 ∧ 9 ≤ n ∧ s.dev.capLive.toNat ≤ capOf (n - 1)
    (ok → s.dev.capLive ≠ 0 → exec (.tmbRetire stack) s = .next { s with dev := { s.dev with
      hbm := s.dev.hbm.set stack.toNat { x with state := 2 }, phase := s.dev.phase + 1, watermark := BitVec.ofNat 20 s.dev.capLive.toNat, sweep := some ⟨stack.toNat, s.dev.capLive.toNat⟩ } }) ∧
    (¬ ok → exec (.tmbRetire stack) s = .next { s with dev := { s.dev with tmbErr := true } })) ∧
  (∀ (s : State) (w : Sweep), s.dev.sweep = some w → s.sweepPaused = false → w.next ≠ 0 → s.granTested (w.next - 1) = false →
    let g := w.next - 1
    let marked := fun (x : Nat) => x ∈ s.poison ∧ x % 8 = 0 ∧ granule (x / 8 * 256) = g
    (g ≠ 0 → Goes .tumblerGranuleMove s (fun t => (s.owed = [] → SameBytes s t) ∧ ((∀ x, ¬ marked x) → s.owed = [] →
        t.dev = { s.dev with watermark := BitVec.ofNat 20 g, sweep := some ⟨w.stack, g⟩ }) ∧
      (∀ x, marked x → ∃ f, (f, none) ∈ t.faq ∧ f.kind = 0x13 ∧ f.phys = true ∧ f.addr = BitVec.ofNat 64 (x / 8 * 256)) ∧
      ∀ c ∈ t.crews, ∀ x ∈ c.groups, ∀ m ∈ x.mws, ∀ a ∈ m.accs, ∀ k, a.place = some (.mem k) → k % 8 = 0 → granule (k / 8) = g → a.done = false → a.passed = false)) ∧
    (g = 0 → Goes .tumblerGranuleMove s (fun t => t.dev.sweep = none ∧ t.dev.phase = s.dev.phase + 1 ∧ t.dev.table_ = s.dev.table_.filter (fun k => k != w.stack) ∧
      t.dev.hbm = s.dev.hbm.modify w.stack (fun x => { x with state := 3, rec_ := false, since := none }) ∧ t.flash.dead = s.flash.dead ++ [w.stack] ∧
      (0, 2) ∈ t.dev.vectors ∧ ((s.stack w.stack).rec_ = true → (0, 4) ∈ t.dev.vectors) ∧
      ∀ r k, s.owed = [] → ¬ (k % 8 = 0 ∧ s.dev.capLive.toNat ≤ granule (k / 8)) → t.readKey r k = s.readKey r k))) ∧
  (∀ (k : Nat) (temp : BitVec 8) (s : State) (x : Stack), k < 12 → s.dev.hbm[k]? = some x →
    let gives := fun (y : Stack) => Host.Outcome.next ({ s with dev := { s.dev with hbm := s.dev.hbm.set k y } } : State)
    (105 ≤ temp.toNat → (x.state = 0 ∨ x.state = 2) → exec (.stackFreeze k temp) s = gives { x with state := 1, temp := temp, since := some s.clock.toNat }) ∧
    (temp.toNat ≤ 95 → x.state = 1 → (∀ t0, x.since = some t0 → s.clock.toNat ≤ t0 + 10 ^ 10) → s.owed = [] →
      exec (.stackResume k temp) s = gives { x with state := if s.dev.sweep.map (·.stack) = some k then 2 else 0, temp := temp, since := none }) ∧
    (∀ t0, x.since = some t0 → x.state = 1 → t0 + 10 ^ 10 < s.clock.toNat →
      let f := if x.froze = 15 then 15 else x.froze + 1
      let due := 32 ≤ x.lrow.toNat ∨ 8 ≤ x.unc.toNat ∨ 3 ≤ f.toNat
      let y : Stack := { x with froze := f, since := none, rec_ := x.rec_ || decide due }
      Goes (.freezeTimeout k) s (fun t => t.dev.hbm[k]? = some y ∧ SameBytes s t) ∧
      (temp.toNat ≤ 95 → s.owed = [] → Goes (.stackResume k temp) s (fun t => SameBytes s t ∧
        t.dev.hbm[k]? = some { y with state := if s.dev.sweep.map (·.stack) = some k then 2 else 0, temp := temp }))) ∧
    (x.state ≠ 3 → exec (.refreshInterrupt k) s = .next s))

/-! ### Errors, monitors and power -/

/-- R401 to R405, R407, R408: a reported error takes the log's next entry and its path; a self-test writes its verdict, and a lasting one counts its row once; a spare row is mapped on a core without crews; a monitor
unit samples when its period has elapsed, and a stack that it finds at 105 °C freezes (R385); the clocks step by 50 MHz, power goes at 115 °C, and idle blocks gate and wake. Model's readings: log 44, 61, 62 and 91. -/
def Obligations.ErrorAndPowerSteps : Prop :=
  (∀ (unit : BitVec 4) (unc : Bool) (place : BitVec 8) (loc : BitVec 28) (s : State), unit.toNat ≤ 5 → s.underTest ⟨unit, unc, place, loc⟩ = false →
    s.dev.elHead.toNat < s.dev.elog.length →
    let logged := fun (t : State) => t.dev.elHead = s.dev.elHead + 1 ∧ t.dev.elog[s.dev.elHead.toNat]? = some ⟨true, s.clock, unit, unc, 0, place, loc⟩ ∧ SameBytes s t
    (unc = false → Goes (.errorDetect unit unc place loc .nobody) s (fun t => logged t ∧
      ∀ x, unit.toNat ≤ 1 → s.dev.hbm[place.toNat]? = some x → t.dev.hbm[place.toNat]? = some { x with corr := if x.corr = BitVec.allOnes 32 then x.corr else x.corr + 1 })) ∧
    (∀ k, unc = true → unit.toNat ≤ 2 → s.errKey ⟨unit, unc, place, loc⟩ = some k → Goes (.errorDetect unit unc place loc .nobody) s (fun t => logged t ∧ t.poisoned k = true ∧
      ∃ f, t.faq = s.faq ++ [(f, none)] ∧ f.kind = 0x13 ∧ f.phys = true ∧ f.wait = false ∧ f.addr = BitVec.ofNat 64 (k / 2048 * 256))) ∧
    (∀ uid c, unc = true → (unit = 3 ∨ unit = 5) → s.crew? uid = some c → c.phase = .resident → c.core = place.toNat →
      Goes (.errorDetect unit unc place loc (.crew uid)) s (fun t => logged t ∧ t.kills = s.kills ++ [⟨c.region, c.part, 5, c.taskId⟩]))) ∧
  (∀ (entry : Nat) (pass : Bool) (s : State) (x : SelfTest), s.dev.tests[entry]? = some x → ¬ (x.err.unit.toNat ≤ 1 ∧ (s.stack x.err.place.toNat).state = 1) → x.err.unit ≠ 4 →
    Goes (.selfTestComplete entry pass) s (fun t => t.dev.tests = s.dev.tests.eraseIdx entry ∧ (s.owed = [] → SameBytes s t) ∧
      (∀ y, x.err.unit.toNat ≤ 1 → pass = false → s.dev.hbm[x.err.place.toNat]? = some y → ∃ z, t.dev.hbm[x.err.place.toNat]? = some z ∧
        let row := Config.rowOf x.err.loc.toNat
        z.lrow = (if row ∈ y.rows ∨ y.lrow = BitVec.allOnes 12 then y.lrow else y.lrow + 1) ∧
        z.unc = (if x.err.sev = false ∨ row ∈ y.uncRows ∨ y.unc = BitVec.allOnes 8 then y.unc else y.unc + 1)) ∧
      (∀ i e, x.slot = some i → s.dev.elog[i]? = some e → t.dev.elog[i]? = some { e with verdict := if pass then 1 else 2 }) ∧
      (∀ k, x.err.unit = 3 → s.cores[x.err.place.toNat]? = some k → t.cores[x.err.place.toNat]? = some { k with needRow := if pass then k.needRow else k.needRow + 1 }))) ∧
  (∀ (core : Nat) (s : State) (k : Core), core < 160 → s.cores[core]? = some k → 0 < k.needRow → 0 < k.spare → s.onCore core = [] →
    exec (.spareRowMap core) s = .next { s with cores := s.cores.set core { k with needRow := k.needRow - 1, spare := k.spare - 1 } }) ∧
  (∀ (unit : Nat) (v : BitVec 32) (s : State) (u : MonU), s.dev.mons[unit]? = some u → u.on = true → u.next ≤ s.clock.toNat →
    let y := s.sampled u v
    Goes (.monitorSample unit v) s (fun t => (s.owed = [] → SameBytes s t) ∧ ∃ u', t.dev.mons[unit]? = some u' ∧ u'.samples = (if u.samples = BitVec.allOnes 32 then u.samples else u.samples + 1) ∧
      u'.next = u.next + 1000 * monPeriod u.ctl ∧ u'.ctl = u.ctl ∧
      (monMode u.ctl = 1 → u'.value = if u.samples = 0 ∨ y.toInt < u.value.toInt then y else u.value) ∧
      (monMode u.ctl = 2 → u'.value = if u.samples = 0 ∨ u.value.toInt < y.toInt then y else u.value) ∧ (monMode u.ctl = 3 → u'.value = u.value) ∧
      (∀ x, monSrc u.ctl = 1 → monIndex u.ctl < 12 → s.dev.hbm[monIndex u.ctl]? = some x → 105 ≤ (v.setWidth 8).toNat → (x.state = 0 ∨ x.state = 2) →
        t.dev.hbm[monIndex u.ctl]? = some { x with state := 1, temp := v.setWidth 8, since := some s.clock.toNat }))) ∧
  (∀ (unit : Nat) (v : Word) (s : State) (u : MonU), s.dev.ready = true → unit < 16 → s.dev.mons[unit]? = some u →
    Goes (.monCtlWrite unit v) s (fun t => ({ t with dev := s.dev } : State) = s ∧ ∃ u', t.dev.mons = s.dev.mons.set unit u' ∧ u'.value = 0 ∧ u'.samples = 0 ∧
      u'.hist = List.replicate 16 0 ∧ monSrc u'.ctl = monSrc v ∧ monMode u'.ctl = monMode v ∧ monIndex u'.ctl = monIndex v ∧
      monPeriod u'.ctl = (if monPeriod v = 0 then monPeriod u.ctl else monPeriod v) ∧ u'.next = s.clock.toNat + 1000 * monPeriod u'.ctl)) ∧
  (∀ (die : Nat) (temp : BitVec 8) (power : BitVec 16) (s : State) (x : BitVec 12), die < 2 → s.dev.statC[die]? = some x →
    let gives := fun (mhz : Nat) => Host.Outcome.next ({ s with dev := { s.dev with
      statC := s.dev.statC.set die (BitVec.ofNat 12 mhz), statT := s.dev.statT.set die temp, statP := power } } : State)
    ((100 < temp.toNat ∨ 2800 < power.toNat) → 50 ≤ x.toNat → exec (.clockStepDown die temp power) s = gives (x.toNat - 50)) ∧
    (temp.toNat < 95 → power.toNat < 2700 → x.toNat < 1800 → exec (.clockStepUp die temp power) s = gives (min 1800 (x.toNat + 50)))) ∧
  (∀ (temp : BitVec 8) (s : State), 115 ≤ temp.toNat →
    exec (.thermalShutdown temp) s = .next { s with dev := { s.dev with power := false }, flash := { s.flash with thermal := true } }) ∧
  (∀ (b : PowerBlock) (s : State),
    (blockValid b = true → ¬ b ∈ s.dev.gated → (∀ n c, b = .cluster n → c ∈ s.crews → c.core / 8 = n → c.phase ≠ .resident) →
      exec (.powerGate b) s = .next { s with dev := { s.dev with gated := s.dev.gated ++ [b] } }) ∧
    (b ∈ s.dev.gated → exec (.powerWake b) s = .next { s with dev := { s.dev with gated := s.dev.gated.erase b } }))

/-! ### Links and resets -/

/-- R7, R89, R391, R394 to R397, R400: flit retries are counted; a port that trains or goes down raises vector 3, and the modules that it cut off, the peer of a failed flit and a
peer that reports a reset are lost; a module reset leaves the machine empty with host memory as it was, and boots it step by step, as STAGE shows, until it is ready or halts at
the failed step; a function-level reset stops its queues. Model's readings: log 7, 60, 65 and 68. -/
def Obligations.LinkAndResetSteps : Prop :=
  (∀ (port : Nat) (s : State) (x : Port), port < 18 → s.dev.ports[port]? = some x →
    let gives := fun (y : Port) (v : List (Nat × Nat)) => Host.Outcome.next ({ s with dev := { s.dev with ports := s.dev.ports.set port y, vectors := s.dev.vectors ++ v } } : State)
    (x.up = true → exec (.flitRetry port) s = gives { x with retry := x.retry + 1 } []) ∧
    (∀ peer, x.up = false → exec (.portUp port peer) s = gives { x with up := true, peer := peer } [(0, 3)]) ∧
    (x.up = true → 64 ≤ x.retry.toNat → Goes (.flitRetryLimit port) s (fun t => t.dev.lost.getLsbD x.peer.toNat = true)) ∧
    (x.up = true → Goes (.portDown port) s (fun t => t.dev.ports = s.dev.ports.set port { x with up := false } ∧
      ∀ (m : Nat) (r : BitVec 18), m < 256 → s.dev.route[m]? = some r → r.getLsbD port = true →
        (∀ q y, q ≠ port → q < 18 → r.getLsbD q = true → s.dev.ports[q]? = some y → y.up = false) → t.dev.lost.getLsbD m = true))) ∧
  (∀ (m : BitVec 8) (s : State), (∃ p ∈ s.dev.ports, p.up = true ∧ p.peer = m) → Goes (.peerReset m) s (fun t => t.dev.lost.getLsbD m.toNat = true)) ∧
  (∀ (s : State), Goes (.moduleReset .start) s (fun t =>
    t.dev.ready = false ∧ t.dev.halt = false ∧ t.dev.stage = 0 ∧ t.dev.power = true ∧ t.crews = [] ∧ t.tasks = [] ∧ t.images = [] ∧ t.issue = [] ∧
    t.drained = [] ∧ t.clock = s.clock ∧ t.flash = s.flash ∧ ∀ k, k % 8 = 2 ∨ k % 8 = 3 → t.mem.get k = s.latestKey k)) ∧
  (∀ (s : State), s.dev.power = true → s.dev.ready = false → s.dev.halt = false →
    let st := s.dev.stage
    let gives := fun (d : Dev) => exec (.moduleReset .next) s = .next { s with dev := { d with stage := st + 1 } }
    (st = 0 ∨ st = 1 ∨ st = 3 → gives s.dev) ∧
    (st = 2 →
      let cap := BitVec.ofNat 28 (min s.flash.cap.toNat (capOf s.flash.table.length))
      gives { s.dev with coreen := s.flash.coreen, table_ := s.flash.table, self := s.flash.modNo, capLive := cap }) ∧
    (st = 4 → gives { s.dev with meas := (s.flash.stages.mapIdx (fun i x => (i, x))).foldl (fun l e => l.modify (measOf e.1) (fun m => extendMeas m e.2)) s.dev.meas }) ∧
    (st = 5 → gives { s.dev with hbm := (List.range 12).map s.flash.stackAt }) ∧
    (∀ (cause : BitVec 8), 1 ≤ st.toNat → st.toNat ≤ 5 → 1 ≤ cause.toNat → cause.toNat ≤ 6 →
      exec (.moduleReset (.fail cause)) s = .next { s with dev := { s.dev with halt := true, cause := cause } }) ∧
    (∀ (ports : List (Nat × BitVec 8)), st = 6 → Goes (.moduleReset (.ready ports)) s (fun t => t.dev.ready = true ∧ t.dev.halt = false ∧ t.dev.stage = 6 ∧
      t.dev.statC = [1800, 1800] ∧ t.dev.table_ = s.dev.table_ ∧ t.dev.capLive = s.dev.capLive ∧ t.crews = s.crews ∧ SameBytes s t ∧ t.flash.thermal = false ∧
      (s.flash.thermal = true → (0, 4) ∈ t.dev.vectors) ∧ ∀ p m, (p, m) ∈ ports → p < s.dev.ports.length → p < 18 → ((t.dev.ports[p]?).getD default).up = true)) ∧
    (5 < st.toNat → exec (.moduleReset .next) s = .refused (.notEnabled "MODULE_RESET"))) ∧
  (∀ (fn : Nat) (s : State), 1 ≤ fn → fn < 32 → s.dev.queues.length = 128 →
    Goes (.functionLevelReset fn) s (fun t => ({ t with dev := s.dev } : State) = s ∧ ∀ f q, f < 32 → q < 4 →
      let x := s.queue f q
      t.queue f q = if f ≠ fn then x
        else if s.tasks.any (fun k => k.queue.map (·.1) == some fn) then { x with en := false, hand := none, flr := true }
        else { x with en := false, hand := none, flr := false, head := 0, tail := 0, done := 0 }))

/-! ### The host's side -/

namespace Sys2Proof.Claims

open Machine

/-- The event of a Keyway command acts on the command in progress with its argument, or, with none in progress, on the register's (R348). -/
def KwyTakes (s : State) (op : Nat) (arg : Word) : Prop := s.dev.kwyBusy = some (BitVec.ofNat 4 op, arg) ∨ (s.dev.kwyBusy = none ∧ arg = s.dev.kwyArg)

/-- An uncorrectable line that holds a key has a record to be posted, with its physical address (R363, R401). -/
def Posted (t : State) (k : Nat) : Prop := ∃ f, (f, none) ∈ t.faq ∧ f.kind = 0x13 ∧ f.phys = true ∧ f.addr = BitVec.ofNat 64 (k / 2048 * 256)

end Sys2Proof.Claims

/-- R6, R7, R89, R336, R339, R340, R348, R349, R351, R361, R379, R388 to R392, R397 to R399: a register write is aligned, of 8 bytes, and waits for READY; the registers that an event names take
their fields, refuse what is out of range and flag it; the Keyway's and the mailbox's commands and the attestation report come to their ends; a host access reads or writes its
bytes at system scope, reports the marked lines that it reads (R401), and a copied line keeps its error mark (R380); a load that would read or write a line which the map point
holds does not begin (R387); what a register of the sensors shows is a free value. Model's readings: log 38, 63, 64, 66, 67, 83 and 90. -/
def Obligations.HostSteps : Prop :=
  (∀ (fn off : Nat) (v : Word) (s : State),
    (∀ size, (size ≠ 8 ∨ off % 8 ≠ 0 ∨ s.dev.ready = false) → exec (.registerWrite fn off ⟨size, v⟩) s = .next s) ∧
    (s.dev.ready = true →
      exec (.registerWrite 0 0x200000 ⟨8, v⟩) s = .next { s with dev := { s.dev with faqBase := BitVec.ofNat 64 (v.toNat / 4096 * 4096) } } ∧
      exec (.registerWrite 0 0x200010 ⟨8, v⟩) s = .next { s with dev := { s.dev with faqHead := v.setWidth 32 } } ∧
      exec (.registerWrite 0 0x100200 ⟨8, v⟩) s = (if canonical (v.toNat / 4096 * 4096) then
        .next { s with dev := { s.dev with sdAddr := BitVec.ofNat 64 (v.toNat / 4096 * 4096) } } else .next s) ∧
      exec (.registerWrite 0 0x100208 ⟨8, v⟩) s = .next { s with dev := { s.dev with sdLen := v.setWidth 32 } } ∧
      exec (.registerWrite 0 0x300000 ⟨8, v⟩) s = .next { s with dev := { s.dev with kwyArg := v } } ∧
      (1 ≤ v.toNat % 16 → v.toNat % 16 ≤ 4 → s.dev.kwyBusy.isSome → exec (.registerWrite 0 0x300008 ⟨8, v⟩) s = .next { s with dev := { s.dev with kwyErr := true } }) ∧
      exec (.registerWrite 0 0x000608 ⟨8, v⟩) s = .next { s with dev := { s.dev with mboxData := v } } ∧
      (∀ p r, p < 32 → s.dev.parts[p]? = some r → Goes (.registerWrite 0 (0x300 + 8 * p) ⟨8, v⟩) s (fun t => ({ t with dev := s.dev } : State) = s ∧
        ∃ y, t.dev.parts = s.dev.parts.set p { r with ptroot := y } ∧ y.getLsbD 0 = v.getLsbD 0 ∧ y.extractLsb' 12 40 = v.extractLsb' 12 40 ∧
          y.extractLsb' 52 2 = if v.extractLsb' 52 2 = 3 then r.ptroot.extractLsb' 52 2 else v.extractLsb' 52 2)) ∧
      (∀ f q, f < 32 → q < 4 → exec (.registerWrite 0 (0x800000 + 0x4000 * f + 0x1000 * q) ⟨8, v⟩) s =
        .next (s.modQueue f q (fun x => { x with base := v &&& 0xFFFFFFFFFFFFF000 }))))) ∧
  (∀ (fn q : Nat) (v : Word) (s : State) (x : Queue), s.dev.ready = true → fn < 32 → q < 4 → s.dev.queues[4 * fn + q]? = some x →
    let gives := fun (y : Queue) => Host.Outcome.next ({ s with dev := { s.dev with queues := s.dev.queues.set (4 * fn + q) y } } : State)
    let tail : BitVec 32 := v.setWidth 32
    let n := (v.extractLsb' 0 5).toNat
    exec (.qTailWrite fn q v) s = gives (if 2 ^ x.log2n.toNat < (tail - x.head).toNat then { x with ovf := true } else { x with tail := tail }) ∧
    exec (.qCfgWrite fn q v) s = gives { x with en := v.getLsbD 8, log2n := if 4 ≤ n ∧ n ≤ 16 then BitVec.ofNat 5 n else x.log2n }) ∧
  (∀ (part : Nat) (v : Word) (s : State) (x : Part), s.dev.ready = true → part < 32 → s.dev.parts[part]? = some x →
    let ok := v = 0 ∨ ∃ r, s.rcb? part v.toNat = some r ∧ rcbParent r = 0 ∧ (∀ i, i < 4 → rcbOvr r i = true) ∧ rcbPartition r = part
    (ok → exec (.devPartrootWrite part v) s = .next { s with dev := { s.dev with parts := s.dev.parts.set part { x with root := v } } }) ∧
    (¬ ok → exec (.devPartrootWrite part v) s = .next { s with dev := { s.dev with kwyErr := true } })) ∧
  (∀ (arg : Word) (s : State), s.dev.ready = true →
    let z : State := { s with dev := { s.dev with kwyBusy := none } }
    let addr := arg.toNat
    let p := addr % 32
    let refused := Host.Outcome.next ({ z with dev := { z.dev with kwyErr := true } } : State)
    (KwyTakes s 1 arg → s.refreshWaits addr = false → Goes .kwyRefresh s (fun t =>
      ({ t with rcbs := z.rcbs, tasks := z.tasks } : State) = { z.refreshRead addr with rcbs := z.rcbs, tasks := z.tasks } ∧
      t.tasks.map (·.uid) = s.tasks.map (·.uid) ∧
      (∀ k ∈ t.tasks, t.path k.part k.region ≠ [] → k.base = min (trPrio k.raw) (rcbPrio (effRcb (t.path k.part k.region) 0))) ∧
      (∀ r ∈ s.rcbs, r.1 % 2 ^ 64 ≠ addr → r ∈ t.rcbs) ∧
      ∀ r ∈ t.rcbs, r.1 % 2 ^ 64 = addr → ∃ k, z.rcbPlace (r.1 / 2 ^ 64) addr = some k ∧ r.2 = BitVec.ofNat 1024 (z.readNum .device (.mem k) 128))) ∧
    (∀ part, KwyTakes s 2 arg → s.kwyWaits 2 addr = false → z.regionPart addr = some part →
      let root := z.killRoot ⟨addr, part, 4, 0⟩
      Goes .kwyKill s (fun t => t.dev.killCnt = s.dev.killCnt + 1 ∧ t.dev.vectors = s.dev.vectors ++ [(0, 1)] ∧
        (∀ c ∈ t.crews, ¬ (c.part = part ∧ z.under part c.region root = true)) ∧ ∀ u ∈ t.tasks, ¬ (u.part = part ∧ z.under part u.region root = true))) ∧
    (KwyTakes s 2 arg → s.kwyWaits 2 addr = false → z.regionPart addr = none → exec .kwyKill s = .next z) ∧
    (s.dev.parts.length = 32 →
      (KwyTakes s 3 arg → (s.draining p = true → exec .kwyDrain s = refused) ∧ (s.draining p = false → Goes .kwyDrain s (fun t => t.draining p = true ∧ SameBytes s t))) ∧
      (KwyTakes s 4 arg → (s.draining p = false → exec .kwyEndDrain s = refused) ∧ (s.draining p = true → Goes .kwyEndDrain s (fun t => t.draining p = false ∧ SameBytes s t)))) ∧
    (∀ op e, (op, e) ∈ [(1, Instr.kwyRefresh), (2, .kwyKill), (3, .kwyDrain), (4, .kwyEndDrain)] →
      (KwyTakes s op arg → s.kwyWaits op addr = true → exec e s = .next { s with dev := { s.dev with kwyBusy := some (BitVec.ofNat 4 op, arg) } }) ∧
      (∀ o, s.dev.kwyBusy = some (o, arg) → o.toNat ≠ op → exec e s = .next { s with dev := { s.dev with kwyErr := true } }))) ∧
  (∀ (arg : BitVec 16) (s : State), s.dev.ready = true →
    let takes := fun (op : BitVec 4) (a : BitVec 16) => Host.Outcome.next (if s.dev.mboxBusy.isSome then s else ({ s with dev := { s.dev with mboxBusy := some (op, a) } } : State))
    exec (.mboxReadEntry arg) s = takes 1 arg ∧ exec .mboxAppend s = takes 2 0 ∧ exec .mboxReadCount s = takes 3 0) ∧
  (∀ (op : BitVec 4) (arg : BitVec 16) (s : State), s.dev.mboxBusy = some (op, arg) →
    let e := s.dev.mboxData &&& 0x3FFFFFFFFFFFF
    let fits := s.flash.bad.length < 4096 ∧ badEntryOk e = true
    let done : Dev := { s.dev with mboxBusy := none, vectors := s.dev.vectors ++ [(0, 5)] }
    (∀ x, op = 1 → s.flash.bad[arg.toNat]? = some x → exec .mailboxResponseReady s = .next { s with dev := { done with mboxData := x } }) ∧
    (op = 1 → s.flash.bad[arg.toNat]? = none → exec .mailboxResponseReady s = .next { s with dev := { done with mboxErr := true } }) ∧
    (op = 2 → fits → exec .mailboxResponseReady s = .next { s with dev := done, flash := { s.flash with bad := s.flash.bad ++ [e] } }) ∧
    (op = 2 → ¬ fits → exec .mailboxResponseReady s = .next { s with dev := { done with mboxErr := true } }) ∧
    (op = 3 → exec .mailboxResponseReady s = .next { s with dev := { done with mboxData := BitVec.ofNat 64 s.flash.bad.length } })) ∧
  (∀ (i : Nat) (v : Word) (s : State), s.dev.ready = true →
    (s.dev.secBusy = false → exec .secReportRequest s = .next { s with dev := { s.dev with secBusy := true, secDone := false } } ∧
      (i < 4 → Goes (.secNonceWrite i v) s (fun t => ∃ x, t = { s with dev := { s.dev with nonce := x, secDone := false, report := 0 } } ∧ x.extractLsb' (64 * i) 64 = v ∧
        ∀ j, j < 4 → j ≠ i → x.extractLsb' (64 * j) 64 = s.dev.nonce.extractLsb' (64 * j) 64))) ∧
    (s.dev.secBusy = true → exec .secReportRequest s = .next s ∧ exec (.secNonceWrite i v) s = .next s ∧
      Goes .secReportDone s (fun t => t.dev.secBusy = false ∧ t.dev.secDone = true ∧ ({ t with dev := s.dev } : State) = s ∧
        t.dev.report.extractLsb' 0 256 = s.dev.nonce ∧
        ∀ j x, j < 8 → s.dev.meas[j]? = some x → t.dev.report.extractLsb' (256 + 256 * j) 256 = x))) ∧
  (∀ (l : PLoc) (pa : Nat) (s : State),
    (∀ bytes, s.outsideOk l pa bytes.length = true → Goes (.hostAccess (.store l pa bytes)) s (fun t => StoredForAll s t (plocKey l pa) bytes)) ∧
    (∀ n, s.outsideOk l pa n = true →
      let ks := keysFrom (plocKey l pa) n
      let got := ks.map (s.readKey .host)
      ((∀ k ∈ ks, s.poisoned k = false) → exec (.hostAccess (.read l pa n)) s = .next { s with hostIn := got }) ∧
      Goes (.hostAccess (.read l pa n)) s (fun t => t.hostIn = got ∧ SameBytes s t ∧ ∀ k ∈ ks, s.poisoned k = true → Posted t k)) ∧
    (∀ l' pa', pa % 256 = 0 → pa' % 256 = 0 → s.outsideOk l pa 256 = true → s.outsideOk l' pa' 256 = true → Goes (.hostAccess (.moveLine l pa l' pa')) s (fun t =>
      StoredForAll { s with poison := t.poison, dev := t.dev, faq := t.faq } t (plocKey l' pa') ((keysFrom (plocKey l pa) 256).map (s.readKey .host)) ∧
      (s.poisoned (plocKey l pa) = false → t.dev = s.dev ∧ t.faq = s.faq) ∧ (s.poisoned (plocKey l pa) = true → Posted t (plocKey l pa)) ∧
      t.poisoned (plocKey l' pa') = (s.poisoned (plocKey l' pa') || s.poisoned (plocKey l pa))))) ∧
  (∀ (fn off size : Nat) (s : State), Goes (.hostAccess (.readReg fn off size)) s (fun t =>
    ({ t with hostIn := s.hostIn, free := s.free, dev := s.dev } : State) = s ∧
    (∃ a p h, t.dev = { s.dev with statT := a, statP := p, hbm := h } ∧ h.map (fun x => { x with temp := 0 }) = s.dev.hbm.map (fun x => { x with temp := 0 })) ∧
    (¬ (fn = 0 ∧ (off = 0x500000 ∨ (0x100100 ≤ off ∧ off < 0x100160))) → t.dev = s.dev ∧ t.free = s.free) ∧
    (fn = 0 → off = 0 → size = 8 → t.hostIn = bytesOf 8 ((if s.dev.ready then 1 else 0) + (if s.dev.halt then 2 else 0) + 256 * s.dev.stage.toNat + 65536 * s.dev.cause.toNat)) ∧
    (size = 8 → off % 8 = 0 → s.dev.ready = false → ¬ (fn = 0 ∧ off = 0) → t.hostIn = bytesOf 8 0) ∧ ((size ≠ 8 ∨ off % 8 ≠ 0) → t.hostIn = []))) ∧
  (∀ (part base : Nat) (s : State), s.dev.ready = true → part < 32 → s.loadStops part base = false → Goes (.hostAccess (.loadImage part base)) s (fun t =>
    (t.images = s.images ∧ SameBytes s t ∧ ∃ code, t.hostIn = [code]) ∨
    (∃ im, t.images = s.images ++ [im] ∧ im.part = part ∧ im.base = base ∧ (∀ x ∈ s.images, x.id < im.id) ∧ t.hostIn = 0 :: bytesOf 8 im.id))) ∧
  (∀ (part base : Nat) (s : State), s.dev.ready = true → part < 32 → s.loadStops part base = true → exec (.hostAccess (.loadImage part base)) s = .refused (.notEnabled "HOST_ACCESS"))

/-! ### The engines -/

namespace Sys2Proof.Claims

open Machine

/-- The little-endian number that memory holds at keys. -/
def memNum (s : State) (keys : List Nat) : Nat := ofBytes (keys.map s.latestKey)

/-- Nothing but the bytes at some keys changes. -/
def OnlyBytes (s t : State) (keys : Nat → Prop) : Prop := ∀ k, ¬ keys k → t.latestKey k = s.latestKey k

/-- Element n of packed codes: two to a byte, one to a byte, or two bytes each. -/
def codeAt (f : Nat) (byte : Nat → Nat) (n : Nat) : Nat :=
  match efmtBits f with
  | 4 => byte (n / 2) / 16 ^ (n % 2) % 16
  | 16 => byte (2 * n) + 256 * byte (2 * n + 1)
  | _ => byte n

/-- Element q of a run of codes with a scale for each 32: KQ4, an MX format, or a plain one (R92, R94, R95). -/
def elemOf (f : Nat) (code scale : Nat → Nat) (q : Nat) : Machine.Num :=
  if f = 11 then ((q4Decode (scale (q / 32)) ((List.range 32).map (fun u => code (32 * (q / 32) + u)))).1[q % 32]?).getD default
  else if f = 9 ∨ f = 10 then (mxDecode (f == 10) (scale (q / 32)) [code q]).headD default
  else efmtNum f (code q)

/-- The A element of a row that the array takes: from the reservation, or from the lane of the contributor that the row falls to (R130, R133). -/
def IsA (s : State) (cr : Crew) (x : MatOp) (p : MmaP) (i q : Nat) (v : Machine.Num) : Prop :=
  let f := p.aFmt
  let byte := fun (o : Nat) => (s.latestKey (opbufKey cr.uid (resvAddr p.aRec o))).toNat
  (p.aReg = none → v = elemOf f (fun n => codeAt f byte (i * p.k + n)) (fun b => byte (16 * resvSoff p.aRec + (i * p.k / 32 + b))) q) ∧
  (∀ a, p.aReg = some a → x.early = [] → x.kept = [] →
    let n := 64 / efmtBits f
    let ci := i / cr.width
    let l := i % cr.width
    let g := ((s.group? x.crew ((x.members[ci]?).getD (0, 0)).1).getD default).landAll
    v = if (x.lanes[ci]?.getD 0).getLsbD l then efmtNum f (getSub (efmtBits f) (q % n) (g.getV (a + q / n) l).toNat) else .fin false 0 0)

/-- The bit that takes part in a product for an A element: of the bitmap registers of MMAS, of the reservation's bitmap, or 1 (R130, R139, R140). -/
def IsABit (s : State) (cr : Crew) (x : MatOp) (p : MmaP) (i q : Nat) (b : Bool) : Prop :=
  (p.sparse = true → x.early = [] → x.kept = [] →
    let lane := 8 * p.sel + i / 2
    let g := ((s.group? x.crew ((x.members[lane / cr.width]?).getD (0, 0)).1).getD default).landAll
    b = (g.getV (p.bmReg + q / 32) (lane % cr.width)).getLsbD (32 * (i % 2) + q % 32)) ∧
  (p.sparse = false → p.aReg = none → resvBen p.aRec = true →
    b = (s.latestKey (opbufKey cr.uid (resvAddr p.aRec (16 * resvBoff p.aRec + i * p.k / 8 + q / 8)))).getLsbD (q % 8)) ∧
  (p.sparse = false → (p.aReg ≠ none ∨ resvBen p.aRec = false) → b = true)

/-- The B element of a column and whether it is present: dense, or from the slot that its bit of the bitmap names (R132, R140). -/
def IsB (s : State) (core : Nat) (p : MmaP) (j q : Nat) (v : Machine.Num) (there : Bool) : Prop :=
  let f := wdFmt p.wdesc
  let byte := fun (o : Nat) => (s.latestKey (wbufKey core o)).toNat
  let code := codeAt f (fun o => byte (16 * wdWoff p.wdesc + o))
  let scale := fun (b : Nat) => byte (16 * wdSo p.wdesc + (j * p.k / 32 + b))
  let bits := fun (q : Nat) => byte (16 * wdBmo p.wdesc + j * p.k / 8 + q / 8)
  (wdCmp p.wdesc = false → there = true ∧ v = elemOf f (fun n => code (j * p.k + n)) scale q) ∧
  (wdCmp p.wdesc = true → f ≠ 11 → there = (bits q).testBit (q % 8) ∧
    v = if (bits q).testBit (q % 8) then elemOf f (fun n => code ((j * p.k / 8 + n / 8) * 4 + popcount (bits n % 2 ^ (n % 8)) 8)) scale q else .fin false 0 0)

/-- The accumulator element after an operation of k products: INT8 modulo 2^32, else each step of 32 exactly summed with the value before it and rounded once (R100). -/
def IsAcc (int : Bool) (k c : Nat) (a b : Nat → Machine.Num) (there : Nat → Bool) (z : Nat) : Prop :=
  let prod := fun (q : Nat) => if there q then mulNum (a q) (b q) else .fin false 0 0
  (int = false → ∃ v : Nat → Nat, v 0 = c ∧ v (k / 32) = z ∧ ∀ t, t < k / 32 →
    v (t + 1) = (roundTo .f32 .rne false (((List.range 32).map (fun u => prod (32 * t + u))).foldl (addNum .rne) (numOf .f32 (v t)))).1) ∧
  (int = true → ∀ α β : Nat → Int, (∀ q, q < k → a q = numOfInt (α q) ∧ b q = numOfInt (β q)) →
    (z : Int) = ((c : Int) + ((List.range k).map (fun q => if there q then α q * β q else 0)).foldl (· + ·) 0) % 2 ^ 32)

/-- What a conversion of a tile's element gives: INT32 saturated to INT8, or FP32 rounded to the target, E4M3 saturating always and E5M2 where SAT says so (R99, R273). -/
def cvtOf (f : Nat) (sat : Bool) (rnd : BitVec 2) (c : Nat) : Nat :=
  let x := numOf .f32 c
  if f = 0 then wrap 8 (max (-128) (min 127 (toSigned 32 c)))
  else if f = 5 then (roundTo .bf16 (rmOf rnd) false x).1
  else if f = 6 then (roundTo .f16 (rmOf rnd) false x).1
  else if f = 7 then (roundTo .e4m3 (rmOf rnd) true x).1
  else (roundTo .e5m2 (rmOf rnd) sat x).1

end Sys2Proof.Claims

/-- R83, R92, R94, R95, R99, R100, R103, R106 to R108, R111, R112, R116, R125 to R127, R130 to R133, R137 to R140, R260, R263, R266, R268, R272, R273: the requests of a kick join their core's list; a good linear request takes the lowest free slot and a malformed
one records kind 5; a piece whose bytes arrive is stored, and changes besides only the barriers that count it; an operation starts and completes in its queue's order with its
members' tickets done or failed, and leaves in the accumulators, the weight buffer or the reservation what its operands give; a block of a reduction takes its next hop. That a
request takes the lowest free slot is the model's choice (log 74). Model's readings: log 25, 26, 33, 45 and 74. -/
def Obligations.EngineSteps : Prop :=
  (∀ (crew : Nat) (s : State) (c : Crew) (k : Kick) (rest : List Kick), s.crew? crew = some c → c.kicks = k :: rest → c.phase = .resident → c.core < s.cores.length →
    (∃ g, c.groups[k.grp]? = some g ∧ g.doneBefore k.seq = true) →
    Goes (.kickReadComplete crew) s (fun t => SameBytes s t ∧ (t.crew? crew).map (·.kicks) = some rest ∧
      (t.core c.core).reqs = (s.core c.core).reqs ++ (List.range k.count).map (fun i => ⟨crew, k.grp, k.seq, k.off + 64 * i,
        BitVec.ofNat 512 (s.readNum (c.agent k.grp) (.mem (scratchKey crew (k.off + 64 * i))) 64), none, false⟩))) ∧
  (∀ (core : Nat) (s : State) (r : CopyReq) (c : Crew), s.nextReq core = some r → s.crew? r.crew = some c → reqSbar r.raw % 16 = 0 → reqSbar r.raw + 16 ≤ 1024 * c.scrKiB →
    (badRequest r.raw = true → Goes (.copyAccept core) s (fun t => (t.core core).reqs = (s.core core).reqs.erase r ∧ (t.core core).copies = (s.core core).copies ∧
      let b := s.tbar (scratchKey c.uid (reqSbar r.raw))
      t.tbar (scratchKey c.uid (reqSbar r.raw)) = { b with err := true, kind := if b.err then b.kind else 5 })) ∧
    (badRequest r.raw = false → reqKind r.raw = 0 → reqDbv r.raw = false →
      let dst := s.sideOf c (reqDsp r.raw) (reqDst r.raw)
      let free := fun (i : Nat) => decide (i < 128) && !((s.core core).copies.map (·.slot)).contains i
      (s.core core).copies.length < 128 → (∀ x ∈ s.sideRanges c dst (reqLength r.raw), s.sbCount x.1 < 128) →
      ∀ slot, free slot = true → (∀ j, j < slot → free j = false) →
        Goes (.copyAccept core) s (fun t => SameBytes s t ∧ (t.core core).reqs = (s.core core).reqs.erase r ∧ (t.core core).copies = (s.core core).copies ++
          [⟨slot, c.uid, r.grp, r.seq, .linear (s.sideOf c (reqSsp r.raw) (reqSrc r.raw)) dst (reqLength r.raw), reqSbar r.raw, false, none, [], [], [],
            s.sideRanges c dst (reqLength r.raw), [], [], [], s.nextSeq⟩]))) ∧
  (∀ (core slot off len : Nat) (s : State) (c : Copy) (cr : Crew), s.poison = [] → s.copy? core slot = some c → s.crew? c.crew = some cr → s.pieceReady c off len = true → s.sectorFree core c off = true →
    let ends := (List.range len).map (fun j => s.moveEnds c.body (off + j))
    let r := s.checkLines c cr (pieceLines ends)
    let dest := ends.filterMap (fun e => match e.2 with
      | .at_ (.mem k) => some k
      | .virt va | .half va => (match linePlace r.2 va true with
        | .ok (.mem k) => some k
        | _ => none)
      | _ => none)
    let bars := (tbKey c.crew c.sbar :: c.arriveKeys off).flatMap (fun k => keysFrom k 16)
    (∀ x ∈ r.2, ((∃ l pa, x.2 = .ok l pa) ∨ ∃ k, x.2 = .err k) ∧ x.2.waits r.1 State.lineHeld = false) → (∀ p ∈ piecePlaces ends r.2, s.returnedAt p 1 = false) →
      Goes (.copyLineArrive core slot off len) s (fun t => (∀ k, ¬ k ∈ dest → ¬ k ∈ bars → t.latestKey k = r.1.latestKey k) ∧
        (∀ c' : Copy, t.copy? core slot = some c' → ∃ kind, (off, len, kind) ∈ c'.runs) ∧
        (s.drained = [] → pieceLines ends = [] → dest.Nodup → (∀ k ∈ dest, ¬ k ∈ bars) →
          ∀ e ∈ ends, ∀ x k, e.1 = .at_ (.mem x) → e.2 = .at_ (.mem k) → c.overtaken off (.mem k) = false → t.latestKey k = s.mem.get x))) ∧
  (∀ (core : Nat) (s : State) (k : Core) (x : MatOp) (rest : List MatOp), s.cores[core]? = some k → k.matrix = x :: rest →
    (x.started = false → s.opReady x = true → exec (.matrixOpStart core) s = .next { s with cores := s.cores.set core { k with matrix :=
      { x with started := true, fail := s.opFails core x, mark := if x.op.isWbld then s.nextSeq else x.mark } :: rest } }) ∧
    (∀ c, x.started = true → s.crew? x.crew = some c → c.rdv = [] →
      let ends := fun (t : State) (ticket : Ticket) => (t.core core).matrix = rest ∧ ∀ mm ∈ x.members, ∀ g, s.group? x.crew mm.1 = some g → g.retired = false →
        mm.2 < g.k.length → (t.group? x.crew mm.1).map (fun y => y.ticket mm.2) = some ticket
      (x.fail = none → Goes (.matrixOpComplete core) s (fun t => ends t (.done [s.nextSeq]))) ∧
      (∀ cause info, x.fail = some (cause, info) → Goes (.matrixOpComplete core) s (fun t => ends t (.failed cause info) ∧ SameBytes s t)) ∧
      (∀ tile m n, x.fail = none → x.op = .amzero tile m n → s.drained = [] →
        Goes (.matrixOpComplete core) s (fun t => (∀ e i, e < m * n → i < 4 → t.latestKey (accKey c.uid (4096 * tile + 4 * e + i)) = 0) ∧
          OnlyBytes s t (fun k => ∃ e, e < m * n ∧ k ∈ tileKeys c.uid tile e))) ∧
      (∀ p, x.fail = none → x.op = .mma p → s.drained = [] → p.k % 32 = 0 → p.aFmt ∈ [0, 5, 6, 7, 8, 9, 10, 11] → wdFmt p.wdesc ∈ [0, 5, 6, 7, 8, 9, 10, 11] →
        (∀ a, p.aReg = some a → p.aFmt < 9) →
        Goes (.matrixOpComplete core) s (fun t => OnlyBytes s t (fun k => ∃ e, e < p.m * p.n ∧ k ∈ tileKeys c.uid p.tile e) ∧
          ∀ i j, i < p.m → j < p.n → ∃ (a b : Nat → Machine.Num) (bit there : Nat → Bool) (z : Nat),
            (∀ q, q < p.k → IsA s c x p i q (a q) ∧ IsABit s c x p i q (bit q) ∧ IsB s c.core p j q (b q) (there q)) ∧
            IsAcc (p.aFmt == 0) p.k (memNum s (tileKeys c.uid p.tile (i * p.n + j))) (fun q => if bit q then a q else .fin false 0 0) b (fun q => bit q && there q) z ∧
            (tileKeys c.uid p.tile (i * p.n + j)).map t.latestKey = bytesOf 4 z)) ∧
      (∀ dst src len, x.fail = none → x.op = .wbld dst src len → s.drained = [] → Goes (.matrixOpComplete core) s (fun t =>
        OnlyBytes s t (fun k => ∃ i, i < len ∧ k = wbufKey c.core (dst + i)) ∧
        ∀ i k, i < len → s.sidePlace src i 1 = some (.mem k) → t.latestKey (wbufKey c.core (dst + i)) = s.latestKey k)) ∧
      (∀ tile m n f sat rnd r, x.fail = none → x.op = .amcvt tile m n f sat rnd r → s.drained = [] → f ∈ [0, 5, 6, 7, 8] → swizzleOk (resvSwen r) (resvChunk r) (resvSwsrc r) = true →
        let w := if f = 5 ∨ f = 6 then 2 else 1
        let keys := fun (e : Nat) => (List.range w).map (fun i => opbufKey c.uid (resvAddr r (e * w + i)))
        Goes (.matrixOpComplete core) s (fun t => OnlyBytes s t (fun k => ∃ e, e < m * n ∧ k ∈ keys e) ∧
          ∀ e, e < m * n → (keys e).map t.latestKey = bytesOf w (cvtOf f sat rnd (memNum s (tileKeys c.uid tile e))))))) ∧
  (∀ (rid blk : Nat) (remote : BitVec 264) (s : State) (x : Reduction), s.xreds[rid]? = some x → blk < x.nblk → ¬ blk ∈ x.dones → x.asked = [] → s.allIssued x = true → x.mixed = false →
    let n := x.plist.length
    let cur := x.partials.find? (fun e => e.1 == blk)
    let j := (cur.map (·.2.1)).getD 0
    let old := (cur.map (·.2.2)).getD 0
    let k := (blk + j) % n
    let moved := fun (t : State) (y : BitVec 264) => (t.xreds[rid]?).map (·.partials) =
      some (x.partials.filter (fun e => e.1 != blk) ++ [(blk, j + 1, if j = 0 then y else hop x.e5 old y)])
    (x.part? k = none → s.outOfReach (x.plist[k]?.getD 0 / 2) = false → j + 1 ≠ n → Goes (.xredHop rid blk remote) s (fun t => moved t remote ∧ SameBytes s t)) ∧
    (∀ p, x.part? k = some p → p.dead = false → s.poison = [] → j + 1 ≠ n →
      let vas := blockVas p.src p.ssc blk
      let r := s.partLines x p vas false
      ∀ places, hopRes r.2 vas false = .ok places → r.1.returnedHop (.ok places) = false → Goes (.xredHop rid blk remote) s (fun t => moved t (s.partBlock p places))))

namespace Sys2Proof.Claims

open Machine

/-- A list of factors, applied one at a time. -/
def Chain {α β : Type} (step : α → β → β → Prop) (l : List α) (x y : β) : Prop :=
  match l with
  | [] => y = x
  | f :: t => ∃ z, step f x z ∧ Chain step t z y

/-- An accumulator that differs from another in coefficients and status alone: those up to DEG are given, and every other is zero (R143). -/
def HasCoefs (x y : QAcc) (f : Nat → Word) (st : BitVec 5) : Prop :=
  y = { x with coef := y.coef, st := st } ∧ ∀ k, smGet 0 y.coef k = if k ≤ x.deg.toNat then f k else 0

/-- Normalise and store (R147, R151): coefficients move by whole steps of 2^64 against the exponent, as few as bring the largest into [2^-64, 2^64) unless EXPR is set, none where a
factor or a coefficient is not finite, where all are zero or where the largest lies there already; each is then rounded to FP32. -/
def Normalised (ops : List Machine.Num) (v : Nat → Machine.Num) (e : Int) (x y : QAcc) : Prop :=
  let l := (List.range (x.deg.toNat + 1)).map v
  let fin := ops.all finite && l.all finite
  ∃ (t : Int) (expr nonfin : Bool),
    let stored := fun (k : Nat) => (roundTo .f32 .rne false (scaleNum (v k) (-64 * t))).1
    HasCoefs { x with exp := y.exp } y (fun k => BitVec.ofNat 64 (stored k)) (x.st ||| ((if expr then stExpr else 0) ||| (if nonfin then stNonfin else 0))) ∧
    y.exp.toInt = e + 64 * t ∧
    (nonfin = true ↔ fin = false ∨ ∃ k, k ≤ x.deg.toNat ∧ finite (numOf .f32 (stored k)) = false) ∧
    (fin = true → ∀ top, topExp l = some top → expr = false → -64 ≤ top - 64 * t ∧ top - 64 * t < 64) ∧
    (-(2 ^ 31) ≤ e → e < 2 ^ 31 →
      ((fin = false ∨ topExp l = none) → t = 0 ∧ expr = false) ∧
      (fin = true → ∀ top, topExp l = some top →
        (-64 ≤ top → top < 64 → t = 0 ∧ expr = false) ∧
        (64 ≤ top → 0 ≤ t ∧ 0 ≤ top - 64 * t ∧ (expr = true ↔ 64 ≤ top - 64 * t) ∧ (expr = true → 2 ^ 31 ≤ e + 64 * t + 64)) ∧
        (top < -64 → t ≤ 0 ∧ top - 64 * t < 0 ∧ (expr = true ↔ top - 64 * t < -64) ∧ (expr = true → e + 64 * t - 64 < -(2 ^ 31)))))

/-- The operation on an accumulator of the other mode: INV, and its coefficients are the canonical NaN or 0 (R152). -/
def Invalid (x y : QAcc) : Prop := HasCoefs x y (fun _ => if x.int then 0 else 0x7FC00000) (x.st ||| (if x.int then stInv else stInv ||| stNonfin))

/-- The coefficient below k. -/
def below (x : QAcc) (k : Nat) : Word := if k = 0 then 0 else smGet 0 x.coef (k - 1)

/-- One factor a + b·x (R146). -/
def Multiplied (ty : Nat) (uns : Bool) (f : Nat × Nat) (x y : QAcc) : Prop :=
  let i := fun (n : Nat) => BitVec.ofInt 64 (qInt ty uns n)
  let r := fun (n : Nat) => numOf (qFmt ty) n
  (x.int = true → HasCoefs x y (fun k => i f.1 * smGet 0 x.coef k + i f.2 * below x k) x.st) ∧
  (x.int = false → Normalised [r f.1, r f.2] (fun k => round24 (addNum .rne (mulNum (r f.1) (x.num k)) (mulNum (r f.2) (prevNum x k)))) x.exp.toInt x y)

/-- One factor (1 − p) + p·x, or 1 + v·x (R146). -/
def MultipliedBy (ty : Nat) (uns : Bool) (f : Nat) (x y : QAcc) : Prop :=
  let p := numOf (qFmt ty) f
  (x.int = true → HasCoefs x y (fun k => smGet 0 x.coef k + BitVec.ofInt 64 (qInt ty uns f) * below x k) x.st) ∧
  (x.int = false → Normalised [p] (fun k => round24 (addNum .rne (x.num k) (mulNum p (addNum .rne (prevNum x k) (negNum (x.num k)))))) x.exp.toInt x y)

/-- One factor a + b·x removed by the forward recurrence (R150). -/
def Divided (ty : Nat) (uns : Bool) (f : Nat × Nat) (x y : QAcc) : Prop :=
  let i := fun (n : Nat) => qInt ty uns n
  let a := numOf (qFmt ty) f.1
  let b := numOf (qFmt ty) f.2
  (x.int = true →
    let unit := BitVec.ofInt 64 (i f.1)
    let st := x.st ||| (if (i f.1).natAbs < (i f.2).natAbs then stCond else 0)
    ((unit = 1 ∨ unit = -1) → HasCoefs x y (fun k => unit * (smGet 0 x.coef k - BitVec.ofInt 64 (i f.2) * below y k)) st) ∧
    (unit ≠ 1 → unit ≠ -1 → HasCoefs x y (fun _ => 0) (st ||| stInv))) ∧
  (x.int = false →
    let x1 : QAcc := { x with st := x.st ||| (if magGt b a then stCond else 0) }
    (∀ s e, a = .fin s 0 e → HasCoefs x y (fun _ => 0x7FC00000) (x1.st ||| stInv ||| stNonfin)) ∧
    ((∀ s e, a ≠ .fin s 0 e) → ∃ v : Nat → Machine.Num, v 0 = div24 (x.num 0) a ∧ (∀ k, v (k + 1) = div24 (addNum .rne (x.num (k + 1)) (negNum (mulNum b (v k)))) a) ∧
      Normalised [a, b] v x.exp.toInt x1 y))

/-- The factors of a word: none changes nothing, those of the other mode are a mismatch, and the others apply in their order (R146, R148, R278). -/
def Factored {α : Type} (ty : Nat) (step : α → QAcc → QAcc → Prop) (l : List α) (x y : QAcc) : Prop :=
  (l = [] → y = x) ∧ (l ≠ [] → (x.int = true ↔ ty < 4) → Chain step l x y) ∧ (l ≠ [] → ¬ (x.int = true ↔ ty < 4) → Invalid x y)

/-- The product of two accumulators, cut at the destination's DEG (R151, R152). -/
def Convolved (a b d y : QAcc) : Prop :=
  ((a.int ≠ d.int ∨ b.int ≠ d.int) → Invalid d y) ∧
  (a.int = d.int → b.int = d.int →
    (d.int = true → HasCoefs d y (fun k => ((List.range (k + 1)).map (fun i => smGet 0 a.coef i * smGet 0 b.coef (k - i))).foldl (· + ·) 0) d.st) ∧
    (d.int = false → Normalised [] (fun k => round24 (((List.range k).map (fun i => mulNum (a.num (i + 1)) (b.num (k - (i + 1))))).foldl (addNum .rne)
      (mulNum (a.num 0) (b.num k)))) (a.exp.toInt + b.exp.toInt) d y))

/-- The value of coefficient k in a format, saturated: its exponent moved by d, a NaN canonical and an infinity as it is; and whether it saturated (R153, R154). -/
def saturated (f : Fmt) (x : QAcc) (d : Int) (k : Nat) : Nat × Bool :=
  match x.num k with
  | .fin s m e => ((roundTo f .rne true (.fin s m (e + d))).1, decide ((roundTo f .rne true (.fin s m (e + d))).2 &&& fOF ≠ 0))
  | .inf s => (packInf f s, false)
  | .nan _ => (canonNaN f, false)

/-- The exponent moves to n (R154); in mode .i nothing changes. -/
def Rebased (n : BitVec 32) (x y : QAcc) : Prop :=
  (x.int = true → y = x) ∧
  (x.int = false → ∃ sat : Bool, HasCoefs { x with exp := n } y (fun k => BitVec.ofNat 64 (saturated .f32 x (x.exp.toInt - n.toInt) k).1) (x.st ||| (if sat then stSat else 0)) ∧
    (sat = true ↔ ∃ k, k ≤ x.deg.toNat ∧ (saturated .f32 x (x.exp.toInt - n.toInt) k).2 = true))

/-- What QRD reads of coefficient k (R153). -/
def readOf (x : QAcc) (wide : Bool) (k : Nat) : Nat × Bool :=
  if x.deg.toNat < k then (0, false)
  else if x.int then ((smGet 0 x.coef k).toNat % 2 ^ (if wide then 64 else 32), false)
  else saturated (if wide then .f64 else .f32) x x.exp.toInt k

/-- Sixteen bytes of an image from byte 16i as a number: two coefficients, or the header (R144). -/
def imagePart (x : QAcc) (i : Nat) : Nat :=
  if i < 32 then (smGet 0 x.coef (2 * i)).toNat + 2 ^ 64 * (smGet 0 x.coef (2 * i + 1)).toNat
  else x.exp.toNat + 2 ^ 32 * x.deg.toNat + 2 ^ 38 * (if x.int then 1 else 0) + 2 ^ 40 * x.st.toNat

/-- The accumulator that a word of the unit may change. -/
def accOf (o : BOp) : Option Nat :=
  match o with
  | .init q _ _ | .deg q _ | .mul q _ _ _ | .muls q _ _ _ | .div q _ _ _ | .conv q _ _ | .norm q _ | .load q _ | .rd _ _ q _ _ => some q
  | .save _ => none

end Sys2Proof.Claims

/-- R143 to R155, R278 to R283: the Beryl unit completes its oldest word. QINIT sets the mode, DEG and c_0 = 1, every other coefficient, e and the status to 0; QDEG sets DEG and
zeroes every coefficient above it, so that raising DEG exposes only zeros; QMUL, QMULS and QDIV apply their factors in order, QCONV multiplies, QNORM rebases, each with its status;
QLOAD takes its image, QSAVE supplies the image that its stores write, and QRD writes the coefficient it names to its lanes, in either width; no other accumulator changes, and a
group that has retired loses its accumulators after its last word. That QRD.d of mode .f gives binary64 follows R153 over R91 (log 88). -/
def Obligations.BerylSteps : Prop :=
  ∀ (core : Nat) (s : State) (b : BerylOp) (rest : List BerylOp), (s.core core).beryl = b :: rest →
    Goes (.berylOpComplete core) s (fun t => (t.core core).beryl = rest ∧ SameBytes s t ∧ ∀ g, s.group? b.crew b.grp = some g →
      (g.retired = true → (s.modCore core (fun k => { k with beryl := rest })).berylLeft b.crew b.grp = false → (t.group? b.crew b.grp).map (·.q) = some noAccs) ∧
      ((g.retired = false ∨ ∃ b' ∈ rest, b'.crew = b.crew ∧ b'.grp = b.grp) → ∃ g', t.group? b.crew b.grp = some g' ∧
        (∀ r, accOf b.op ≠ some r → g'.acc r = g.acc r) ∧
        (∀ q deg int, b.op = .init q deg int → q < g.q.length → (g'.acc q).deg = BitVec.ofNat 6 deg ∧ (g'.acc q).int = int ∧ (g'.acc q).exp = 0 ∧ (g'.acc q).st = 0 ∧
          ∀ j, smGet 0 (g'.acc q).coef j = if j = 0 then (if int then 1 else 0x3F800000) else 0) ∧
        (∀ q deg, b.op = .deg q deg → q < g.q.length → (∀ j, smGet 0 (g'.acc q).coef j = if j ≤ deg then smGet 0 (g.acc q).coef j else 0) ∧
          ((∀ j, (g.acc q).deg.toNat < j → smGet 0 (g.acc q).coef j = 0) → ∀ j, (g.acc q).deg.toNat < j → smGet 0 (g'.acc q).coef j = 0) ∧
          ({ g'.acc q with deg := (g.acc q).deg, coef := (g.acc q).coef } : QAcc) = g.acc q ∧ (g'.acc q).deg = BitVec.ofNat 6 deg) ∧
        (∀ q ty uns fs, b.op = .mul q ty uns fs → q < g.q.length → Factored ty (Multiplied ty uns) fs (g.acc q) (g'.acc q)) ∧
        (∀ q ty uns fs, b.op = .muls q ty uns fs → q < g.q.length → Factored ty (MultipliedBy ty uns) fs (g.acc q) (g'.acc q)) ∧
        (∀ q ty uns fs, b.op = .div q ty uns fs → q < g.q.length → Factored ty (Divided ty uns) fs (g.acc q) (g'.acc q)) ∧
        (∀ q qa qb, b.op = .conv q qa qb → q < g.q.length → Convolved (g.acc qa) (g.acc qb) (g.acc q) (g'.acc q)) ∧
        (∀ q n, b.op = .norm q n → q < g.q.length → Rebased n (g.acc q) (g'.acc q)) ∧
        (∀ q x, b.op = .load q x → q < g.q.length → g'.acc q = qOfImage x) ∧
        (∀ q m, b.op = .save q → m ∈ g.mws → m.seq = b.seq → ∃ m' ∈ g'.mws, m'.blank = false ∧ ({ m' with blank := m.blank, accs := m.accs } : MemWord) = m ∧
          m'.accs.map (fun a => { a with data := 0 }) = m.accs.map (fun a => { a with data := 0 }) ∧
          ∀ i a, i < 33 → m'.accs[i]? = some a → a.data = imagePart (g.acc q) i) ∧
        (∀ dst wide q idx lanes, b.op = .rd dst wide q idx lanes →
          (∀ l, l < 64 → lanes.getLsbD l = true → dst < 16 * g.nblk → g'.landAll.getV dst l = BitVec.ofNat 64 (readOf (g.acc q) wide (l + idx)).1) ∧
          (q < g.q.length → ∃ sat : Bool, g'.acc q = { g.acc q with st := (g.acc q).st ||| (if sat then stSat else 0) } ∧
            (sat = true ↔ ∃ l, l < 64 ∧ lanes.getLsbD l = true ∧ (readOf (g.acc q) wide (l + idx)).2 = true)))))


/-! ### The machine as a whole -/

/-- R158, R159, R163 to R173: the decoder gives back every well-formed instruction from its word, with every operand and field. Model's readings: log 13, 15 and 82. -/
def Obligations.DecodeOfEncode : Prop := ∀ (i : Instr) (c : Code), i.wf = true → encode i = some c → decode c = .ok i

/-- R158, R163, R169, R173: a word that decodes is the word of the instruction it decodes to, which is well formed: no bit of an encoding is dropped, and no two words mean one
instruction. Model's readings: log 13, 15 and 82. -/
def Obligations.EncodeOfDecode : Prop := ∀ (c : Code) (i : Instr), decode c = .ok i → i.wf = true ∧ encode i = some c

/-- Every step keeps memory in its one canonical form: the invariant of the model's list of bytes. Model's readings: log 3. -/
def Obligations.StepKeepsMemoryCanonical : Prop := ∀ (s t : State), MemOk s → step s = .next t → MemOk t

/-- R7, R339 to R341, R348, R358, R361, R377, R392, R394, R397, R402, R407: the values that the register maps give for module reset, with nothing resident and memory canonical. -/
def Obligations.ResetValues : Prop :=
  let s := State.reset
  MemOk s ∧ s.crews = [] ∧ s.tasks = [] ∧ s.tlb1 = [] ∧ s.tlb2 = [] ∧ s.walks = [] ∧ s.rcbs = [] ∧
  s.dev.status = 0 ∧ s.dev.partmap = List.replicate 160 0x80 ∧ s.dev.phase = 0 ∧ s.dev.watermark = 0 ∧ s.dev.sweep = none ∧ s.dev.tmbErr = false ∧
  (∀ p, p < 32 → (s.partReg p).root = 0 ∧ (s.partReg p).ptroot = 0 ∧ (s.partReg p).savebase = 0 ∧ (s.partReg p).savesize = 0 ∧ s.draining p = false) ∧
  (∀ p, p < 32 → (s.partReg p).nextId = 1) ∧
  (∀ f q, f < 32 → q < 4 → let x := s.queue f q; x.base = 0 ∧ x.log2n = 4 ∧ x.en = false ∧ x.region = 0 ∧ x.head = 0 ∧ x.tail = 0 ∧ x.done = 0 ∧ x.skip = false ∧ x.ovf = false ∧ x.nskip = 0 ∧ x.erridx = 0) ∧
  s.dev.faqBase = 0 ∧ s.dev.faqLog = 6 ∧ s.dev.faqEn = false ∧ s.dev.faqHead = 0 ∧ s.dev.faqTail = 0 ∧ s.dev.faqOvf = false ∧ s.dev.faqDrop = 0 ∧
  s.dev.sdAddr = 0 ∧ s.dev.sdLen = 0 ∧ s.dev.sdCmd = none ∧ s.dev.sdErr = false ∧ s.dev.sdDone = 0 ∧ s.dev.kwyArg = 0 ∧ s.dev.kwyErr = false ∧ s.dev.kwyBusy = none ∧ s.dev.killCnt = 0 ∧
  (∀ p, p < 18 → s.port p = ⟨false, 0, 0⟩) ∧ s.dev.lost = 0 ∧ s.dev.elHead = 0 ∧ s.dev.elLost = 0 ∧ s.dev.mboxBusy = none ∧ s.dev.mboxErr = false ∧
  (∀ u, u < 16 → (s.mon u).ctl = 0 ∧ (s.mon u).low = 0 ∧ (s.mon u).width = 1 ∧ (s.mon u).value = 0 ∧ (s.mon u).samples = 0)

/-- R158, R160 to R173: words that the spec writes out, byte by byte, decode to the instructions that it gives for them: its examples of MMA, LD, BR, IADD, TERN and of a pair word. -/
def Obligations.SpecWordsDecode : Prop :=
  let word := fun (l : List Nat) => decode (codeOfBytes (l.map (BitVec.ofNat 8)))
  word [0x07, 0x00, 0x08, 0x80, 0x00, 0x00, 0x40, 0x42, 0x84, 0x7A, 0x55, 0x80] =
    .ok (.mma ⟨⟨7, false, 0, 0, false, false⟩, 2, .k 2, .s 8, .s 9, .r ⟨.v 0, 0, 0, 0x80, 0, true, false, 0⟩⟩) ∧
  word [0x07, 0x00, 0x02, 0x04, 0x00, 0x40, 0x02, 0x80, 0x00, 0x05, 0x04, 0x60] =
    .ok (.ld ⟨⟨7, false, 0, 0, false, false⟩, 2, .v 5, .v 1, .v 0, .m ⟨0, 1, 0, 4, 0x40, 2⟩⟩) ∧
  word [0x10, 0x00, 0x40, 0x00, 0x00, 0x00, 0x00, 0x80, 0xFF, 0x00, 0x00, 0x00] =
    .ok (.br ⟨⟨0, false, 1, 0, false, false⟩, 0, .v 0, .imm, .v 0, .i ⟨1, 0, false, false, 0⟩⟩) ∧
  word [0x01, 0x03, 0x00, 0x19, 0x00, 0x00, 0xC0, 0x7F, 0x00, 0x01, 0x06, 0x10] =
    .ok (.iadd ⟨⟨1, false, 0, 3, false, false⟩, 3, .v 1, .v 0, .imm, .i ⟨100, 0, false, false, 0⟩⟩) ∧
  word [0x07, 0x01, 0x00, 0xE8, 0x00, 0x60, 0x80, 0x80, 0x00, 0x0A, 0x54, 0x18] =
    .ok (.tern ⟨⟨7, false, 0, 1, false, false⟩, 2, .v 10, .v 1, .v 2, .r ⟨.v 3, 0, 0, 0xE8, 0, false, false, 0⟩⟩) ∧
  word [0x07, 0x82, 0x00, 0x02, 0x01, 0x04, 0x02, 0x09, 0x02, 0x01, 0x09, 0x0E] =
    .ok (.pair ⟨7, false, 0, 2, false, false⟩ ⟨.iadd, 2, 4, 1, 2, 0⟩ ⟨.ffma, 2, 9, 1, 2, 9⟩)

/-- R12, R30, R67, R158, R173, R408: a step runs the instruction that the word at the issuing entity's place decodes to; a word that is none raises ILLEGAL with its state, its
place, and the WHY and FIELD of its defect, whatever its lanes; without an issuing word the step is the next one of the agenda, at its time; without power there is none. Model's readings: log 2. -/
def Obligations.StepRunsDecodedWord : Prop :=
  (∀ (s : State) (m : Member) (rest : List Member) (e : Ent) (code : Code), s.issue = m :: rest → s.ent? m = some e → e.code[e.pos]? = some code →
    e.st < 2 ^ 16 → e.pos < 2 ^ 16 →
    let s1 : State := { s with issue := rest }
    let core := ((s.crew? m.crew).map (·.core)).getD 0
    (∀ i, decode code = .ok i → step s = exec i { s1 with cur := some ⟨m, e.st, e.pos, if core / 80 = 0 then s.cyc0 else s.cyc1⟩ }) ∧
    (∀ d, decode code = .error d → step s = .next (s1.raise m 0x10
      (BitVec.ofNat 64 (e.st + e.pos * 2 ^ 16 + d.why * 2 ^ 32 + d.field * 2 ^ 36))))) ∧
  (∀ (s : State) (e : Sched) (rest : List Sched), s.issue = [] → s.agenda = e :: rest → (s.dev.power = true ∨ ∃ b, e.ev = .moduleReset b) →
    step s = exec e.ev { s with agenda := rest, clock := s.clock + BitVec.ofNat 64 e.ns, cyc0 := s.cyc0 + e.c0, cyc1 := s.cyc1 + e.c1 }) ∧
  (∀ (s : State) (e : Sched) (rest : List Sched), s.issue = [] → s.agenda = e :: rest → s.dev.power = false → (∀ b, e.ev ≠ .moduleReset b) → step s = .fault .noPower)
end

