-- ==== Sys2Proof/Laws/Sparse.lean ====
section
/-!
SUPPORT. Sparse contents: a read after a write, and that every write keeps the canonical form.
-/

namespace Sys2Proof.Machine

/-! ### Reads -/

@[simp] theorem smGet_nil {α : Type} (d : α) (k : Nat) : smGet d [] k = d := rfl

theorem smGet_put {α : Type} (d : α) (m : SMap α) (k j : Nat) (v : α) : smGet d (smPut m k v) j = if j = k then v else smGet d m j := by
  induction m with
  | nil => simp [smPut, smGet]
  | cons e t ih =>
    obtain ⟨a, x⟩ := e
    unfold smPut
    split_ifs with h1 h2 h3
    · simp only [smGet]; split_ifs <;> simp_all
    · simp only [smGet]; split_ifs <;> simp_all
    · simp only [smGet]; split_ifs <;> simp_all
    · simp only [smGet]; split_ifs <;> simp_all
    all_goals (simp only [smGet, ih]; split_ifs <;> simp_all)

theorem smGet_del {α : Type} (d : α) (m : SMap α) (k j : Nat) : smGet d (smDel m k) j = if j = k then d else smGet d m j := by
  unfold smDel
  induction m with
  | nil => simp
  | cons e t ih =>
    obtain ⟨a, x⟩ := e
    by_cases ha : a = k
    · subst ha; simp only [List.filter_cons, bne_self_eq_false, Bool.false_eq_true, ↓reduceIte, ih, smGet]; split_ifs <;> rfl
    · have : (a != k) = true := by simp [ha]
      simp only [List.filter_cons, this, ↓reduceIte, smGet, ih]
      split_ifs <;> simp_all

/-- A read after a write. -/
@[simp] theorem smGet_set {α : Type} [DecidableEq α] (d : α) (m : SMap α) (k j : Nat) (v : α) :
    smGet d (smSet d m k v) j = if j = k then v else smGet d m j := by
  unfold smSet
  by_cases h : v = d
  · rw [if_pos h, smGet_del, h]
  · rw [if_neg h, smGet_put]

/-! ### The canonical form -/

/-- A looser bound. -/
theorem smWfFrom_mono {α : Type} [DecidableEq α] (d : α) (m : SMap α) (lo hi : Nat) (h : smWfFrom d hi m = true) (hl : lo ≤ hi) : smWfFrom d lo m = true := by
  cases m with
  | nil => rfl
  | cons e t =>
    obtain ⟨a, v⟩ := e
    simp only [smWfFrom, Bool.and_eq_true, decide_eq_true_eq] at h ⊢
    exact ⟨⟨by omega, h.1.2⟩, h.2⟩

theorem smWfFrom_put {α : Type} [DecidableEq α] (d : α) (m : SMap α) (lo k : Nat) (v : α) (h : smWfFrom d lo m = true) (hk : lo ≤ k) (hv : v ≠ d) :
    smWfFrom d lo (smPut m k v) = true := by
  induction m generalizing lo with
  | nil => simp [smPut, smWfFrom, hk, hv]
  | cons e t ih =>
    obtain ⟨a, x⟩ := e
    simp only [smWfFrom, Bool.and_eq_true, decide_eq_true_eq] at h
    unfold smPut
    split_ifs with h1 h2 <;> simp only [smWfFrom, Bool.and_eq_true, decide_eq_true_eq]
    · exact ⟨⟨hk, hv⟩, ⟨by omega, h.1.2⟩, h.2⟩
    · exact ⟨⟨hk, hv⟩, smWfFrom_mono d t (k + 1) (a + 1) h.2 (by omega)⟩
    · exact ⟨h.1, ih (a + 1) h.2 (by omega)⟩

theorem smWfFrom_filter {α : Type} [DecidableEq α] (d : α) (m : SMap α) (lo : Nat) (f : Nat × α → Bool) (h : smWfFrom d lo m = true) :
    smWfFrom d lo (m.filter f) = true := by
  induction m generalizing lo with
  | nil => rfl
  | cons e t ih =>
    obtain ⟨a, x⟩ := e
    simp only [smWfFrom, Bool.and_eq_true, decide_eq_true_eq] at h
    rw [List.filter_cons]
    split_ifs
    · simp only [smWfFrom, Bool.and_eq_true, decide_eq_true_eq]; exact ⟨h.1, ih (a + 1) h.2⟩
    · exact smWfFrom_mono d _ lo (a + 1) (ih (a + 1) h.2) (by omega)

/-- Every write keeps the canonical form. -/
theorem smWf_set {α : Type} [DecidableEq α] (d : α) (m : SMap α) (k : Nat) (v : α) (h : smWf d m = true) : smWf d (smSet d m k v) = true := by
  unfold smSet
  by_cases hv : v = d
  · rw [if_pos hv]; exact smWfFrom_filter d m 0 _ h
  · rw [if_neg hv]; exact smWfFrom_put d m 0 k v h (Nat.zero_le k) hv

/-- Keeping some of the keys keeps the canonical form. -/
theorem smWf_filter {α : Type} [DecidableEq α] (d : α) (m : SMap α) (f : Nat → Bool) (h : smWf d m = true) : smWf d (smFilter f m) = true :=
  smWfFrom_filter d m 0 _ h

/-! ### Memory -/

/-- A byte read after a byte written. -/
@[simp] theorem Memory.get_set (m : Memory) (k j : Nat) (b : Byte) : (m.set k b).get j = if j = k then b else m.get j := smGet_set _ m k j b

theorem Memory.wf_set (m : Memory) (k : Nat) (b : Byte) (h : m.wf = true) : (m.set k b).wf = true := smWf_set _ m k b h

/-- A list of writes keeps the canonical form. -/
theorem Memory.wf_setAll (l : List (Nat × Byte)) (m : Memory) (h : m.wf = true) : (m.setAll l).wf = true := by
  unfold Memory.setAll
  induction l with
  | nil => exact h
  | cons e t ih => exact Memory.wf_set _ e.1 e.2 ih

/-- A byte read after a list of writes. -/
theorem Memory.get_setAll (l : List (Nat × Byte)) (m : Memory) (k : Nat) :
    (m.setAll l).get k = ((l.find? (fun e => e.1 == k)).map (·.2)).getD (m.get k) := by
  unfold Memory.setAll
  induction l with
  | nil => rfl
  | cons e t ih =>
    rw [List.foldr_cons, Memory.get_set, List.find?_cons]
    by_cases h : k = e.1
    · simp [h]
    · have h' : ¬ e.1 = k := fun x => h x.symm
      rw [if_neg h, ih]; simp only [beq_iff_eq, h', if_false, beq_eq_false_iff_ne.mpr h']

/-- Empty memory is canonical and reads as unlisted everywhere. -/
theorem Memory.wf_nil : Memory.wf [] = true := rfl

theorem Memory.get_nil (k : Nat) : Memory.get [] k = unlistedByte := rfl

end Sys2Proof.Machine
end

