-- ==== Sys2Proof/Laws/State.lean ====
section
/-!
SUPPORT. One lemma per field per update of the state, each true by unfolding, so that no proof unfolds a record update.
-/

namespace Sys2Proof.Machine

/-! ### State.modCrew -/

@[simp] theorem State.modCrew_mem (s : State) (uid : Nat) (f : Crew → Crew) : (s.modCrew uid f).mem = s.mem := rfl
@[simp] theorem State.modCrew_drained (s : State) (uid : Nat) (f : Crew → Crew) : (s.modCrew uid f).drained = s.drained := rfl
@[simp] theorem State.modCrew_counted (s : State) (uid : Nat) (f : Crew → Crew) : (s.modCrew uid f).counted = s.counted := rfl
@[simp] theorem State.modCrew_cores (s : State) (uid : Nat) (f : Crew → Crew) : (s.modCrew uid f).cores = s.cores := rfl
@[simp] theorem State.modCrew_tlb1 (s : State) (uid : Nat) (f : Crew → Crew) : (s.modCrew uid f).tlb1 = s.tlb1 := rfl
@[simp] theorem State.modCrew_tlb2 (s : State) (uid : Nat) (f : Crew → Crew) : (s.modCrew uid f).tlb2 = s.tlb2 := rfl
@[simp] theorem State.modCrew_walks (s : State) (uid : Nat) (f : Crew → Crew) : (s.modCrew uid f).walks = s.walks := rfl
@[simp] theorem State.modCrew_spans (s : State) (uid : Nat) (f : Crew → Crew) : (s.modCrew uid f).spans = s.spans := rfl
@[simp] theorem State.modCrew_owed (s : State) (uid : Nat) (f : Crew → Crew) : (s.modCrew uid f).owed = s.owed := rfl
@[simp] theorem State.modCrew_descs (s : State) (uid : Nat) (f : Crew → Crew) : (s.modCrew uid f).descs = s.descs := rfl
@[simp] theorem State.modCrew_tasks (s : State) (uid : Nat) (f : Crew → Crew) : (s.modCrew uid f).tasks = s.tasks := rfl
@[simp] theorem State.modCrew_rcbs (s : State) (uid : Nat) (f : Crew → Crew) : (s.modCrew uid f).rcbs = s.rcbs := rfl
@[simp] theorem State.modCrew_images (s : State) (uid : Nat) (f : Crew → Crew) : (s.modCrew uid f).images = s.images := rfl
@[simp] theorem State.modCrew_xreds (s : State) (uid : Nat) (f : Crew → Crew) : (s.modCrew uid f).xreds = s.xreds := rfl
@[simp] theorem State.modCrew_faq (s : State) (uid : Nat) (f : Crew → Crew) : (s.modCrew uid f).faq = s.faq := rfl
@[simp] theorem State.modCrew_asked (s : State) (uid : Nat) (f : Crew → Crew) : (s.modCrew uid f).asked = s.asked := rfl
@[simp] theorem State.modCrew_kills (s : State) (uid : Nat) (f : Crew → Crew) : (s.modCrew uid f).kills = s.kills := rfl
@[simp] theorem State.modCrew_dev (s : State) (uid : Nat) (f : Crew → Crew) : (s.modCrew uid f).dev = s.dev := rfl
@[simp] theorem State.modCrew_flash (s : State) (uid : Nat) (f : Crew → Crew) : (s.modCrew uid f).flash = s.flash := rfl
@[simp] theorem State.modCrew_poison (s : State) (uid : Nat) (f : Crew → Crew) : (s.modCrew uid f).poison = s.poison := rfl
@[simp] theorem State.modCrew_clock (s : State) (uid : Nat) (f : Crew → Crew) : (s.modCrew uid f).clock = s.clock := rfl
@[simp] theorem State.modCrew_cyc0 (s : State) (uid : Nat) (f : Crew → Crew) : (s.modCrew uid f).cyc0 = s.cyc0 := rfl
@[simp] theorem State.modCrew_cyc1 (s : State) (uid : Nat) (f : Crew → Crew) : (s.modCrew uid f).cyc1 = s.cyc1 := rfl
@[simp] theorem State.modCrew_nextUid (s : State) (uid : Nat) (f : Crew → Crew) : (s.modCrew uid f).nextUid = s.nextUid := rfl
@[simp] theorem State.modCrew_nextTask (s : State) (uid : Nat) (f : Crew → Crew) : (s.modCrew uid f).nextTask = s.nextTask := rfl
@[simp] theorem State.modCrew_nextSeq (s : State) (uid : Nat) (f : Crew → Crew) : (s.modCrew uid f).nextSeq = s.nextSeq := rfl
@[simp] theorem State.modCrew_nextTok (s : State) (uid : Nat) (f : Crew → Crew) : (s.modCrew uid f).nextTok = s.nextTok := rfl
@[simp] theorem State.modCrew_agenda (s : State) (uid : Nat) (f : Crew → Crew) : (s.modCrew uid f).agenda = s.agenda := rfl
@[simp] theorem State.modCrew_choices (s : State) (uid : Nat) (f : Crew → Crew) : (s.modCrew uid f).choices = s.choices := rfl
@[simp] theorem State.modCrew_issue (s : State) (uid : Nat) (f : Crew → Crew) : (s.modCrew uid f).issue = s.issue := rfl
@[simp] theorem State.modCrew_cur (s : State) (uid : Nat) (f : Crew → Crew) : (s.modCrew uid f).cur = s.cur := rfl
@[simp] theorem State.modCrew_free (s : State) (uid : Nat) (f : Crew → Crew) : (s.modCrew uid f).free = s.free := rfl
@[simp] theorem State.modCrew_hostIn (s : State) (uid : Nat) (f : Crew → Crew) : (s.modCrew uid f).hostIn = s.hostIn := rfl

/-! ### State.modGroup -/

@[simp] theorem State.modGroup_mem (s : State) (uid i : Nat) (f : Group → Group) : (s.modGroup uid i f).mem = s.mem := rfl
@[simp] theorem State.modGroup_drained (s : State) (uid i : Nat) (f : Group → Group) : (s.modGroup uid i f).drained = s.drained := rfl
@[simp] theorem State.modGroup_counted (s : State) (uid i : Nat) (f : Group → Group) : (s.modGroup uid i f).counted = s.counted := rfl
@[simp] theorem State.modGroup_cores (s : State) (uid i : Nat) (f : Group → Group) : (s.modGroup uid i f).cores = s.cores := rfl
@[simp] theorem State.modGroup_tlb1 (s : State) (uid i : Nat) (f : Group → Group) : (s.modGroup uid i f).tlb1 = s.tlb1 := rfl
@[simp] theorem State.modGroup_tlb2 (s : State) (uid i : Nat) (f : Group → Group) : (s.modGroup uid i f).tlb2 = s.tlb2 := rfl
@[simp] theorem State.modGroup_walks (s : State) (uid i : Nat) (f : Group → Group) : (s.modGroup uid i f).walks = s.walks := rfl
@[simp] theorem State.modGroup_spans (s : State) (uid i : Nat) (f : Group → Group) : (s.modGroup uid i f).spans = s.spans := rfl
@[simp] theorem State.modGroup_owed (s : State) (uid i : Nat) (f : Group → Group) : (s.modGroup uid i f).owed = s.owed := rfl
@[simp] theorem State.modGroup_descs (s : State) (uid i : Nat) (f : Group → Group) : (s.modGroup uid i f).descs = s.descs := rfl
@[simp] theorem State.modGroup_tasks (s : State) (uid i : Nat) (f : Group → Group) : (s.modGroup uid i f).tasks = s.tasks := rfl
@[simp] theorem State.modGroup_rcbs (s : State) (uid i : Nat) (f : Group → Group) : (s.modGroup uid i f).rcbs = s.rcbs := rfl
@[simp] theorem State.modGroup_images (s : State) (uid i : Nat) (f : Group → Group) : (s.modGroup uid i f).images = s.images := rfl
@[simp] theorem State.modGroup_xreds (s : State) (uid i : Nat) (f : Group → Group) : (s.modGroup uid i f).xreds = s.xreds := rfl
@[simp] theorem State.modGroup_faq (s : State) (uid i : Nat) (f : Group → Group) : (s.modGroup uid i f).faq = s.faq := rfl
@[simp] theorem State.modGroup_asked (s : State) (uid i : Nat) (f : Group → Group) : (s.modGroup uid i f).asked = s.asked := rfl
@[simp] theorem State.modGroup_kills (s : State) (uid i : Nat) (f : Group → Group) : (s.modGroup uid i f).kills = s.kills := rfl
@[simp] theorem State.modGroup_dev (s : State) (uid i : Nat) (f : Group → Group) : (s.modGroup uid i f).dev = s.dev := rfl
@[simp] theorem State.modGroup_flash (s : State) (uid i : Nat) (f : Group → Group) : (s.modGroup uid i f).flash = s.flash := rfl
@[simp] theorem State.modGroup_poison (s : State) (uid i : Nat) (f : Group → Group) : (s.modGroup uid i f).poison = s.poison := rfl
@[simp] theorem State.modGroup_clock (s : State) (uid i : Nat) (f : Group → Group) : (s.modGroup uid i f).clock = s.clock := rfl
@[simp] theorem State.modGroup_cyc0 (s : State) (uid i : Nat) (f : Group → Group) : (s.modGroup uid i f).cyc0 = s.cyc0 := rfl
@[simp] theorem State.modGroup_cyc1 (s : State) (uid i : Nat) (f : Group → Group) : (s.modGroup uid i f).cyc1 = s.cyc1 := rfl
@[simp] theorem State.modGroup_nextUid (s : State) (uid i : Nat) (f : Group → Group) : (s.modGroup uid i f).nextUid = s.nextUid := rfl
@[simp] theorem State.modGroup_nextTask (s : State) (uid i : Nat) (f : Group → Group) : (s.modGroup uid i f).nextTask = s.nextTask := rfl
@[simp] theorem State.modGroup_nextSeq (s : State) (uid i : Nat) (f : Group → Group) : (s.modGroup uid i f).nextSeq = s.nextSeq := rfl
@[simp] theorem State.modGroup_nextTok (s : State) (uid i : Nat) (f : Group → Group) : (s.modGroup uid i f).nextTok = s.nextTok := rfl
@[simp] theorem State.modGroup_agenda (s : State) (uid i : Nat) (f : Group → Group) : (s.modGroup uid i f).agenda = s.agenda := rfl
@[simp] theorem State.modGroup_choices (s : State) (uid i : Nat) (f : Group → Group) : (s.modGroup uid i f).choices = s.choices := rfl
@[simp] theorem State.modGroup_issue (s : State) (uid i : Nat) (f : Group → Group) : (s.modGroup uid i f).issue = s.issue := rfl
@[simp] theorem State.modGroup_cur (s : State) (uid i : Nat) (f : Group → Group) : (s.modGroup uid i f).cur = s.cur := rfl
@[simp] theorem State.modGroup_free (s : State) (uid i : Nat) (f : Group → Group) : (s.modGroup uid i f).free = s.free := rfl
@[simp] theorem State.modGroup_hostIn (s : State) (uid i : Nat) (f : Group → Group) : (s.modGroup uid i f).hostIn = s.hostIn := rfl

/-! ### State.modEnt -/

@[simp] theorem State.modEnt_mem (s : State) (m : Member) (f : Ent → Ent) : (s.modEnt m f).mem = s.mem := rfl
@[simp] theorem State.modEnt_drained (s : State) (m : Member) (f : Ent → Ent) : (s.modEnt m f).drained = s.drained := rfl
@[simp] theorem State.modEnt_counted (s : State) (m : Member) (f : Ent → Ent) : (s.modEnt m f).counted = s.counted := rfl
@[simp] theorem State.modEnt_cores (s : State) (m : Member) (f : Ent → Ent) : (s.modEnt m f).cores = s.cores := rfl
@[simp] theorem State.modEnt_tlb1 (s : State) (m : Member) (f : Ent → Ent) : (s.modEnt m f).tlb1 = s.tlb1 := rfl
@[simp] theorem State.modEnt_tlb2 (s : State) (m : Member) (f : Ent → Ent) : (s.modEnt m f).tlb2 = s.tlb2 := rfl
@[simp] theorem State.modEnt_walks (s : State) (m : Member) (f : Ent → Ent) : (s.modEnt m f).walks = s.walks := rfl
@[simp] theorem State.modEnt_spans (s : State) (m : Member) (f : Ent → Ent) : (s.modEnt m f).spans = s.spans := rfl
@[simp] theorem State.modEnt_owed (s : State) (m : Member) (f : Ent → Ent) : (s.modEnt m f).owed = s.owed := rfl
@[simp] theorem State.modEnt_descs (s : State) (m : Member) (f : Ent → Ent) : (s.modEnt m f).descs = s.descs := rfl
@[simp] theorem State.modEnt_tasks (s : State) (m : Member) (f : Ent → Ent) : (s.modEnt m f).tasks = s.tasks := rfl
@[simp] theorem State.modEnt_rcbs (s : State) (m : Member) (f : Ent → Ent) : (s.modEnt m f).rcbs = s.rcbs := rfl
@[simp] theorem State.modEnt_images (s : State) (m : Member) (f : Ent → Ent) : (s.modEnt m f).images = s.images := rfl
@[simp] theorem State.modEnt_xreds (s : State) (m : Member) (f : Ent → Ent) : (s.modEnt m f).xreds = s.xreds := rfl
@[simp] theorem State.modEnt_faq (s : State) (m : Member) (f : Ent → Ent) : (s.modEnt m f).faq = s.faq := rfl
@[simp] theorem State.modEnt_asked (s : State) (m : Member) (f : Ent → Ent) : (s.modEnt m f).asked = s.asked := rfl
@[simp] theorem State.modEnt_kills (s : State) (m : Member) (f : Ent → Ent) : (s.modEnt m f).kills = s.kills := rfl
@[simp] theorem State.modEnt_dev (s : State) (m : Member) (f : Ent → Ent) : (s.modEnt m f).dev = s.dev := rfl
@[simp] theorem State.modEnt_flash (s : State) (m : Member) (f : Ent → Ent) : (s.modEnt m f).flash = s.flash := rfl
@[simp] theorem State.modEnt_poison (s : State) (m : Member) (f : Ent → Ent) : (s.modEnt m f).poison = s.poison := rfl
@[simp] theorem State.modEnt_clock (s : State) (m : Member) (f : Ent → Ent) : (s.modEnt m f).clock = s.clock := rfl
@[simp] theorem State.modEnt_cyc0 (s : State) (m : Member) (f : Ent → Ent) : (s.modEnt m f).cyc0 = s.cyc0 := rfl
@[simp] theorem State.modEnt_cyc1 (s : State) (m : Member) (f : Ent → Ent) : (s.modEnt m f).cyc1 = s.cyc1 := rfl
@[simp] theorem State.modEnt_nextUid (s : State) (m : Member) (f : Ent → Ent) : (s.modEnt m f).nextUid = s.nextUid := rfl
@[simp] theorem State.modEnt_nextTask (s : State) (m : Member) (f : Ent → Ent) : (s.modEnt m f).nextTask = s.nextTask := rfl
@[simp] theorem State.modEnt_nextSeq (s : State) (m : Member) (f : Ent → Ent) : (s.modEnt m f).nextSeq = s.nextSeq := rfl
@[simp] theorem State.modEnt_nextTok (s : State) (m : Member) (f : Ent → Ent) : (s.modEnt m f).nextTok = s.nextTok := rfl
@[simp] theorem State.modEnt_agenda (s : State) (m : Member) (f : Ent → Ent) : (s.modEnt m f).agenda = s.agenda := rfl
@[simp] theorem State.modEnt_choices (s : State) (m : Member) (f : Ent → Ent) : (s.modEnt m f).choices = s.choices := rfl
@[simp] theorem State.modEnt_issue (s : State) (m : Member) (f : Ent → Ent) : (s.modEnt m f).issue = s.issue := rfl
@[simp] theorem State.modEnt_cur (s : State) (m : Member) (f : Ent → Ent) : (s.modEnt m f).cur = s.cur := rfl
@[simp] theorem State.modEnt_free (s : State) (m : Member) (f : Ent → Ent) : (s.modEnt m f).free = s.free := rfl
@[simp] theorem State.modEnt_hostIn (s : State) (m : Member) (f : Ent → Ent) : (s.modEnt m f).hostIn = s.hostIn := rfl

/-! ### State.modCore -/

@[simp] theorem State.modCore_mem (s : State) (i : Nat) (f : Core → Core) : (s.modCore i f).mem = s.mem := rfl
@[simp] theorem State.modCore_drained (s : State) (i : Nat) (f : Core → Core) : (s.modCore i f).drained = s.drained := rfl
@[simp] theorem State.modCore_counted (s : State) (i : Nat) (f : Core → Core) : (s.modCore i f).counted = s.counted := rfl
@[simp] theorem State.modCore_crews (s : State) (i : Nat) (f : Core → Core) : (s.modCore i f).crews = s.crews := rfl
@[simp] theorem State.modCore_tlb1 (s : State) (i : Nat) (f : Core → Core) : (s.modCore i f).tlb1 = s.tlb1 := rfl
@[simp] theorem State.modCore_tlb2 (s : State) (i : Nat) (f : Core → Core) : (s.modCore i f).tlb2 = s.tlb2 := rfl
@[simp] theorem State.modCore_walks (s : State) (i : Nat) (f : Core → Core) : (s.modCore i f).walks = s.walks := rfl
@[simp] theorem State.modCore_spans (s : State) (i : Nat) (f : Core → Core) : (s.modCore i f).spans = s.spans := rfl
@[simp] theorem State.modCore_owed (s : State) (i : Nat) (f : Core → Core) : (s.modCore i f).owed = s.owed := rfl
@[simp] theorem State.modCore_descs (s : State) (i : Nat) (f : Core → Core) : (s.modCore i f).descs = s.descs := rfl
@[simp] theorem State.modCore_tasks (s : State) (i : Nat) (f : Core → Core) : (s.modCore i f).tasks = s.tasks := rfl
@[simp] theorem State.modCore_rcbs (s : State) (i : Nat) (f : Core → Core) : (s.modCore i f).rcbs = s.rcbs := rfl
@[simp] theorem State.modCore_images (s : State) (i : Nat) (f : Core → Core) : (s.modCore i f).images = s.images := rfl
@[simp] theorem State.modCore_xreds (s : State) (i : Nat) (f : Core → Core) : (s.modCore i f).xreds = s.xreds := rfl
@[simp] theorem State.modCore_faq (s : State) (i : Nat) (f : Core → Core) : (s.modCore i f).faq = s.faq := rfl
@[simp] theorem State.modCore_asked (s : State) (i : Nat) (f : Core → Core) : (s.modCore i f).asked = s.asked := rfl
@[simp] theorem State.modCore_kills (s : State) (i : Nat) (f : Core → Core) : (s.modCore i f).kills = s.kills := rfl
@[simp] theorem State.modCore_dev (s : State) (i : Nat) (f : Core → Core) : (s.modCore i f).dev = s.dev := rfl
@[simp] theorem State.modCore_flash (s : State) (i : Nat) (f : Core → Core) : (s.modCore i f).flash = s.flash := rfl
@[simp] theorem State.modCore_poison (s : State) (i : Nat) (f : Core → Core) : (s.modCore i f).poison = s.poison := rfl
@[simp] theorem State.modCore_clock (s : State) (i : Nat) (f : Core → Core) : (s.modCore i f).clock = s.clock := rfl
@[simp] theorem State.modCore_cyc0 (s : State) (i : Nat) (f : Core → Core) : (s.modCore i f).cyc0 = s.cyc0 := rfl
@[simp] theorem State.modCore_cyc1 (s : State) (i : Nat) (f : Core → Core) : (s.modCore i f).cyc1 = s.cyc1 := rfl
@[simp] theorem State.modCore_nextUid (s : State) (i : Nat) (f : Core → Core) : (s.modCore i f).nextUid = s.nextUid := rfl
@[simp] theorem State.modCore_nextTask (s : State) (i : Nat) (f : Core → Core) : (s.modCore i f).nextTask = s.nextTask := rfl
@[simp] theorem State.modCore_nextSeq (s : State) (i : Nat) (f : Core → Core) : (s.modCore i f).nextSeq = s.nextSeq := rfl
@[simp] theorem State.modCore_nextTok (s : State) (i : Nat) (f : Core → Core) : (s.modCore i f).nextTok = s.nextTok := rfl
@[simp] theorem State.modCore_agenda (s : State) (i : Nat) (f : Core → Core) : (s.modCore i f).agenda = s.agenda := rfl
@[simp] theorem State.modCore_choices (s : State) (i : Nat) (f : Core → Core) : (s.modCore i f).choices = s.choices := rfl
@[simp] theorem State.modCore_issue (s : State) (i : Nat) (f : Core → Core) : (s.modCore i f).issue = s.issue := rfl
@[simp] theorem State.modCore_cur (s : State) (i : Nat) (f : Core → Core) : (s.modCore i f).cur = s.cur := rfl
@[simp] theorem State.modCore_free (s : State) (i : Nat) (f : Core → Core) : (s.modCore i f).free = s.free := rfl
@[simp] theorem State.modCore_hostIn (s : State) (i : Nat) (f : Core → Core) : (s.modCore i f).hostIn = s.hostIn := rfl

/-! ### State.nextFree -/

@[simp] theorem State.nextFree_mem (s : State) : (s.nextFree).mem = s.mem := rfl
@[simp] theorem State.nextFree_drained (s : State) : (s.nextFree).drained = s.drained := rfl
@[simp] theorem State.nextFree_counted (s : State) : (s.nextFree).counted = s.counted := rfl
@[simp] theorem State.nextFree_crews (s : State) : (s.nextFree).crews = s.crews := rfl
@[simp] theorem State.nextFree_cores (s : State) : (s.nextFree).cores = s.cores := rfl
@[simp] theorem State.nextFree_tlb1 (s : State) : (s.nextFree).tlb1 = s.tlb1 := rfl
@[simp] theorem State.nextFree_tlb2 (s : State) : (s.nextFree).tlb2 = s.tlb2 := rfl
@[simp] theorem State.nextFree_walks (s : State) : (s.nextFree).walks = s.walks := rfl
@[simp] theorem State.nextFree_spans (s : State) : (s.nextFree).spans = s.spans := rfl
@[simp] theorem State.nextFree_owed (s : State) : (s.nextFree).owed = s.owed := rfl
@[simp] theorem State.nextFree_descs (s : State) : (s.nextFree).descs = s.descs := rfl
@[simp] theorem State.nextFree_tasks (s : State) : (s.nextFree).tasks = s.tasks := rfl
@[simp] theorem State.nextFree_rcbs (s : State) : (s.nextFree).rcbs = s.rcbs := rfl
@[simp] theorem State.nextFree_images (s : State) : (s.nextFree).images = s.images := rfl
@[simp] theorem State.nextFree_xreds (s : State) : (s.nextFree).xreds = s.xreds := rfl
@[simp] theorem State.nextFree_faq (s : State) : (s.nextFree).faq = s.faq := rfl
@[simp] theorem State.nextFree_asked (s : State) : (s.nextFree).asked = s.asked := rfl
@[simp] theorem State.nextFree_kills (s : State) : (s.nextFree).kills = s.kills := rfl
@[simp] theorem State.nextFree_dev (s : State) : (s.nextFree).dev = s.dev := rfl
@[simp] theorem State.nextFree_flash (s : State) : (s.nextFree).flash = s.flash := rfl
@[simp] theorem State.nextFree_poison (s : State) : (s.nextFree).poison = s.poison := rfl
@[simp] theorem State.nextFree_clock (s : State) : (s.nextFree).clock = s.clock := rfl
@[simp] theorem State.nextFree_cyc0 (s : State) : (s.nextFree).cyc0 = s.cyc0 := rfl
@[simp] theorem State.nextFree_cyc1 (s : State) : (s.nextFree).cyc1 = s.cyc1 := rfl
@[simp] theorem State.nextFree_nextUid (s : State) : (s.nextFree).nextUid = s.nextUid := rfl
@[simp] theorem State.nextFree_nextTask (s : State) : (s.nextFree).nextTask = s.nextTask := rfl
@[simp] theorem State.nextFree_nextSeq (s : State) : (s.nextFree).nextSeq = s.nextSeq := rfl
@[simp] theorem State.nextFree_nextTok (s : State) : (s.nextFree).nextTok = s.nextTok := rfl
@[simp] theorem State.nextFree_agenda (s : State) : (s.nextFree).agenda = s.agenda := rfl
@[simp] theorem State.nextFree_choices (s : State) : (s.nextFree).choices = s.choices := rfl
@[simp] theorem State.nextFree_issue (s : State) : (s.nextFree).issue = s.issue := rfl
@[simp] theorem State.nextFree_cur (s : State) : (s.nextFree).cur = s.cur := rfl
@[simp] theorem State.nextFree_hostIn (s : State) : (s.nextFree).hostIn = s.hostIn := rfl

/-! ### State.tick -/

@[simp] theorem State.tick_mem (s : State) (e : Sched) : (s.tick e).mem = s.mem := rfl
@[simp] theorem State.tick_drained (s : State) (e : Sched) : (s.tick e).drained = s.drained := rfl
@[simp] theorem State.tick_counted (s : State) (e : Sched) : (s.tick e).counted = s.counted := rfl
@[simp] theorem State.tick_crews (s : State) (e : Sched) : (s.tick e).crews = s.crews := rfl
@[simp] theorem State.tick_cores (s : State) (e : Sched) : (s.tick e).cores = s.cores := rfl
@[simp] theorem State.tick_tlb1 (s : State) (e : Sched) : (s.tick e).tlb1 = s.tlb1 := rfl
@[simp] theorem State.tick_tlb2 (s : State) (e : Sched) : (s.tick e).tlb2 = s.tlb2 := rfl
@[simp] theorem State.tick_walks (s : State) (e : Sched) : (s.tick e).walks = s.walks := rfl
@[simp] theorem State.tick_spans (s : State) (e : Sched) : (s.tick e).spans = s.spans := rfl
@[simp] theorem State.tick_owed (s : State) (e : Sched) : (s.tick e).owed = s.owed := rfl
@[simp] theorem State.tick_descs (s : State) (e : Sched) : (s.tick e).descs = s.descs := rfl
@[simp] theorem State.tick_tasks (s : State) (e : Sched) : (s.tick e).tasks = s.tasks := rfl
@[simp] theorem State.tick_rcbs (s : State) (e : Sched) : (s.tick e).rcbs = s.rcbs := rfl
@[simp] theorem State.tick_images (s : State) (e : Sched) : (s.tick e).images = s.images := rfl
@[simp] theorem State.tick_xreds (s : State) (e : Sched) : (s.tick e).xreds = s.xreds := rfl
@[simp] theorem State.tick_faq (s : State) (e : Sched) : (s.tick e).faq = s.faq := rfl
@[simp] theorem State.tick_asked (s : State) (e : Sched) : (s.tick e).asked = s.asked := rfl
@[simp] theorem State.tick_kills (s : State) (e : Sched) : (s.tick e).kills = s.kills := rfl
@[simp] theorem State.tick_dev (s : State) (e : Sched) : (s.tick e).dev = s.dev := rfl
@[simp] theorem State.tick_flash (s : State) (e : Sched) : (s.tick e).flash = s.flash := rfl
@[simp] theorem State.tick_poison (s : State) (e : Sched) : (s.tick e).poison = s.poison := rfl
@[simp] theorem State.tick_nextUid (s : State) (e : Sched) : (s.tick e).nextUid = s.nextUid := rfl
@[simp] theorem State.tick_nextTask (s : State) (e : Sched) : (s.tick e).nextTask = s.nextTask := rfl
@[simp] theorem State.tick_nextSeq (s : State) (e : Sched) : (s.tick e).nextSeq = s.nextSeq := rfl
@[simp] theorem State.tick_nextTok (s : State) (e : Sched) : (s.tick e).nextTok = s.nextTok := rfl
@[simp] theorem State.tick_agenda (s : State) (e : Sched) : (s.tick e).agenda = s.agenda := rfl
@[simp] theorem State.tick_choices (s : State) (e : Sched) : (s.tick e).choices = s.choices := rfl
@[simp] theorem State.tick_issue (s : State) (e : Sched) : (s.tick e).issue = s.issue := rfl
@[simp] theorem State.tick_cur (s : State) (e : Sched) : (s.tick e).cur = s.cur := rfl
@[simp] theorem State.tick_free (s : State) (e : Sched) : (s.tick e).free = s.free := rfl
@[simp] theorem State.tick_hostIn (s : State) (e : Sched) : (s.tick e).hostIn = s.hostIn := rfl

end Sys2Proof.Machine
end

