-- ==== Sys2Proof/Laws/Group.lean ====
section
/-!
SUPPORT. Crews and groups: what a change of one crew or one group changes, and the registers of a group.
-/

namespace Sys2Proof.Machine

/-! ### Crews -/

theorem find_map_uid (l : List Crew) (uid v : Nat) (f : Crew → Crew) (hf : ∀ c, (f c).uid = c.uid) :
    (l.map (fun c => if c.uid = uid then f c else c)).find? (fun c => c.uid == v) =
      (l.find? (fun c => c.uid == v)).map (fun c => if c.uid = uid then f c else c) := by
  induction l with
  | nil => rfl
  | cons a t ih =>
    have hu : (if a.uid = uid then f a else a).uid = a.uid := by split_ifs <;> simp [hf]
    simp only [List.map_cons, List.find?_cons, hu]
    cases h : (a.uid == v) with
    | true => simp
    | false => simp [ih]

/-- The crews after a change of one that keeps its number. -/
theorem State.crew?_modCrew (s : State) (uid v : Nat) (f : Crew → Crew) (hf : ∀ c, (f c).uid = c.uid) :
    (s.modCrew uid f).crew? v = (s.crew? v).map (fun c => if c.uid = uid then f c else c) := by
  unfold State.crew? State.modCrew
  exact find_map_uid s.crews uid v f hf

/-- A crew that is found carries its number. -/
theorem State.crew?_uid {s : State} {v : Nat} {c : Crew} (h : s.crew? v = some c) : c.uid = v := by
  unfold State.crew? at h
  have := List.find?_some h
  simpa using this

theorem State.crew?_modCrew_ne (s : State) (uid v : Nat) (f : Crew → Crew) (hf : ∀ c, (f c).uid = c.uid) (hv : v ≠ uid) :
    (s.modCrew uid f).crew? v = s.crew? v := by
  rw [State.crew?_modCrew s uid v f hf]
  cases h : s.crew? v with
  | none => rfl
  | some c => have := State.crew?_uid h; simp [this, hv]

theorem State.crew?_modCrew_self (s : State) (uid : Nat) (f : Crew → Crew) (hf : ∀ c, (f c).uid = c.uid) :
    (s.modCrew uid f).crew? uid = (s.crew? uid).map f := by
  rw [State.crew?_modCrew s uid uid f hf]
  cases h : s.crew? uid with
  | none => rfl
  | some c => have := State.crew?_uid h; simp [this]

/-! ### Groups -/

@[simp] theorem Crew.modGroup_uid (c : Crew) (i : Nat) (f : Group → Group) : (c.modGroup i f).uid = c.uid := rfl

theorem State.crew?_modGroup_ne (s : State) (uid i v : Nat) (f : Group → Group) (hv : v ≠ uid) : (s.modGroup uid i f).crew? v = s.crew? v :=
  State.crew?_modCrew_ne s uid v _ (fun _ => rfl) hv

theorem State.crew?_modGroup (s : State) (uid i : Nat) (f : Group → Group) : (s.modGroup uid i f).crew? uid = (s.crew? uid).map (fun c => c.modGroup i f) :=
  State.crew?_modCrew_self s uid _ (fun _ => rfl)

/-- A changed group. -/
@[simp] theorem State.group?_modGroup (s : State) (uid i : Nat) (f : Group → Group) : (s.modGroup uid i f).group? uid i = (s.group? uid i).map f := by
  unfold State.group?
  rw [State.crew?_modGroup]
  cases s.crew? uid with
  | none => rfl
  | some c => simp [Crew.modGroup, List.getElem?_modify_eq]

/-- Two changes of one group are one. -/
theorem State.modGroup_modGroup (s : State) (uid i : Nat) (f f' : Group → Group) :
    (s.modGroup uid i f).modGroup uid i f' = s.modGroup uid i (fun g => f' (f g)) := by
  unfold State.modGroup State.modCrew
  simp only [List.map_map]
  congr 1
  apply List.map_congr_left
  intro c _
  by_cases h : c.uid = uid
  · simp [h, Crew.modGroup, Function.comp, List.modify_modify_eq]; rfl
  · simp [h]

@[simp] theorem State.readKey_modGroup (s : State) (uid i : Nat) (f : Group → Group) (r : Agent) (k : Nat) :
    (s.modGroup uid i f).readKey r k = s.readKey r k := rfl

/-- A change of one group leaves all else alone. -/
theorem onlyGroup_modGroup (s : State) (uid i : Nat) (f : Group → Group) : OnlyGroup s (s.modGroup uid i f) uid i where
  fields := rfl
  crews := fun v hv => State.crew?_modGroup_ne s uid i v f hv
  crew := fun c hc => by
    refine ⟨c.groups.modify i f, ?_, List.length_modify _ _ _, fun j hj => ?_⟩
    · rw [State.crew?_modGroup, hc]; rfl
    · rw [List.getElem?_modify_ne f c.groups (Ne.symm hj)]
  bytes := fun _ _ => rfl

end Sys2Proof.Machine
end

