-- ==== Sys2Proof/Laws/Word.lean ====
section
/-!
SUPPORT. The shared operations of instruction words: the start of a word, the landing of results, and the writes of fixed latency.
-/

namespace Sys2Proof.Machine

/-! ### The start of a word -/

@[simp] theorem State.view_m (s : State) (c : Ctx) (i : Instr) : (s.view c i).m = c.m := by
  unfold State.view; dsimp only; split_ifs <;> rfl
@[simp] theorem State.view_crew (s : State) (c : Ctx) (i : Instr) : (s.view c i).crew = c.crew := by
  unfold State.view; dsimp only; split_ifs <;> rfl
@[simp] theorem State.view_ent (s : State) (c : Ctx) (i : Instr) : (s.view c i).ent = c.ent := by
  unfold State.view; dsimp only; split_ifs <;> rfl
@[simp] theorem State.view_cyc (s : State) (c : Ctx) (i : Instr) : (s.view c i).cyc = c.cyc := by
  unfold State.view; dsimp only; split_ifs <;> rfl
@[simp] theorem State.view_lanes (s : State) (c : Ctx) (i : Instr) : (s.view c i).lanes = c.lanes := by
  unfold State.view; dsimp only; split_ifs <;> rfl

/-- What an existing entity's word sees. -/
theorem State.ctxOf_some {s : State} {m : Member} {cyc : Nat} {slot : BitVec 3} {c : Ctx} (h : s.ctxOf m cyc slot = some c) :
    s.crew? m.crew = some c.crew ∧ s.group? m.crew m.grp = some c.g ∧ c.m = m ∧ c.cyc = cyc ∧ c.g.ent? m.ent = some c.ent := by
  unfold State.ctxOf at h
  cases hc : s.crew? m.crew with
  | none => simp [hc] at h
  | some cr =>
    cases hg : s.group? m.crew m.grp with
    | none => simp [hc, hg] at h
    | some g =>
      simp only [hc, hg, Option.map_eq_some_iff] at h
      obtain ⟨e, he, rfl⟩ := h
      exact ⟨rfl, rfl, rfl, rfl, he⟩

/-- A word that starts does what its meaning says in the state in which it starts. -/
theorem begin_of_starts {i : Instr} {s t : State} {c : Ctx} (h : Starts i s t c) (k : State → Ctx → Out) : s.begin i k = k t c := by
  obtain ⟨⟨cu, c0, hcur, hctx, rfl, rfl, hst⟩, hleg, hblk, hfree⟩ := h
  have hm := (State.ctxOf_some hctx).2.2.1
  unfold State.begin
  simp only [hcur, hctx]
  have hact : (s.view c0 i).execLanes i = startAct i (s.view c0 i) := rfl
  simp only [hact]
  have h1 : ¬ ((s.view c0 i).preMisuse i (startAct i (s.view c0 i))).isSome := by rw [hleg]; simp
  have h2 : ¬ (startAct i (s.view c0 i) ≠ 0 ∧ (unheld (s.view c0 i).g (instrUses i).vregs).isSome) := by
    rintro ⟨ha, hu⟩
    rcases hblk with hb | hb
    · exact ha hb
    · rw [hb] at hu; simp at hu
  have h3 : ¬ (({ s with cur := none } : State).heldBy (s.view c0 i) i = true) := by rw [hfree]; simp
  rw [if_neg (fun h => h1 h.1), if_neg h2, if_neg h3]
  have hl : (if (c0.g.land cu.cyc).pend = [] then
        ({ s with cur := none } : State).modGroup (s.view c0 i).m.crew (s.view c0 i).m.grp (fun g => g.land cu.cyc)
      else (({ s with cur := none } : State).modGroup (s.view c0 i).m.crew (s.view c0 i).m.grp (fun g => g.land cu.cyc)).nextFree) = State.startOf s cu c0 := by
    unfold State.startOf; simp
  rcases hst with hst | hst
  · simp only [hst, Bool.false_eq_true, if_false, hl]
  · by_cases hck : (s.view c0 i).crew.check = true
    · simp only [hck, if_true, hst, hl]
    · simp only [hck, Bool.false_eq_true, if_false, hl]

/-- The group of a word that starts: the one it issued from, with the results that were due. -/
theorem starts_group {i : Instr} {s t : State} {c : Ctx} (h : Starts i s t c) : ∃ g, t.group? c.m.crew c.m.grp = some g := by
  obtain ⟨⟨cu, c0, hcur, hctx, rfl, rfl, hst⟩, _, _, _⟩ := h
  obtain ⟨hc, hg, hm, -, -⟩ := State.ctxOf_some hctx
  refine ⟨c0.g.land cu.cyc, ?_⟩
  have : (({ s with cur := none } : State).modGroup c0.m.crew c0.m.grp (fun g => g.land cu.cyc)).group? c0.m.crew c0.m.grp = some (c0.g.land cu.cyc) := by
    rw [State.group?_modGroup]
    have : ({ s with cur := none } : State).group? c0.m.crew c0.m.grp = some c0.g := by rw [hm]; exact hg
    rw [this]; rfl
  unfold State.startOf
  simp only [State.view_m]
  split_ifs
  · exact this
  · exact this

/-! ### Registers of a group -/

@[simp] theorem Group.getV_setV (g : Group) (r l : Nat) (x : Word) (r' l' : Nat) :
    (g.setV r l x).getV r' l' = if r' * 64 + l' = r * 64 + l then x else g.getV r' l' := by
  simp [Group.setV, Group.getV]

theorem Group.getV_maskV (g : Group) (r l : Nat) (m x : Word) (r' l' : Nat) :
    (g.maskV r l m x).getV r' l' = if r' * 64 + l' = r * 64 + l then (g.getV r l &&& ~~~m) ||| (x &&& m) else g.getV r' l' := by
  simp [Group.maskV]

@[simp] theorem Group.getS_setS (g : Group) (r : Nat) (x : Word) (r' : Nat) :
    (g.setS r x).getS r' = if r' = r ∧ r ≠ 0 then x else g.getS r' := by
  unfold Group.setS Group.getS
  by_cases h : r = 0
  · simp [h]
  · by_cases h' : r' = 0
    · subst h'; simp [h, Ne.symm h]
    · simp [h, h']

@[simp] theorem Group.getS_zero (g : Group) : g.getS 0 = 0 := rfl

@[simp] theorem Group.getP_zero (g : Group) (l : Nat) : g.getP 0 l = 0xFF := rfl

/-- The registers of a group, without the rest of it. -/
def Group.regs (g : Group) : SMap Word × SMap Byte × SMap Word := (g.v, g.p, g.s)

theorem Group.getV_regs {g g' : Group} (h : g.regs = g'.regs) (r l : Nat) : g.getV r l = g'.getV r l := by
  unfold Group.getV; rw [(Prod.mk.inj h).1]

theorem Group.getP_regs {g g' : Group} (h : g.regs = g'.regs) (r l : Nat) : g.getP r l = g'.getP r l := by
  unfold Group.getP; rw [(Prod.mk.inj (Prod.mk.inj h).2).1]

theorem Group.getS_regs {g g' : Group} (h : g.regs = g'.regs) (r : Nat) : g.getS r = g'.getS r := by
  unfold Group.getS; rw [(Prod.mk.inj (Prod.mk.inj h).2).2]

theorem Group.apply_regs {g g' : Group} (h : g.regs = g'.regs) (w : RegW) : (g.apply w).regs = (g'.apply w).regs := by
  have h1 : g.v = g'.v := (Prod.mk.inj h).1
  have h2 : g.p = g'.p := (Prod.mk.inj (Prod.mk.inj h).2).1
  have h3 : g.s = g'.s := (Prod.mk.inj (Prod.mk.inj h).2).2
  cases w with
  | v r l m x =>
    simp only [Group.apply, Group.maskV, Group.setV, Group.regs, Group.getV_regs h, h1, h2, h3]
  | p r l m x =>
    simp only [Group.apply, Group.setP, Group.regs, Group.getP_regs h]
    split_ifs <;> simp [h1, h2, h3]
  | s r x =>
    simp only [Group.apply, Group.setS, Group.regs]
    split_ifs <;> simp [h1, h2, h3]

theorem Group.applyAll_regs (ws : List RegW) {g g' : Group} (h : g.regs = g'.regs) : (g.applyAll ws).regs = (g'.applyAll ws).regs := by
  unfold Group.applyAll
  induction ws generalizing g g' with
  | nil => exact h
  | cons w t ih => exact ih (Group.apply_regs h w)

/-- The parts of a group that a register write leaves alone. -/
theorem Group.apply_rest (g : Group) (w : RegW) : ∃ v p s, g.apply w = { g with v := v, p := p, s := s } := by
  cases w with
  | v r l m x => exact ⟨_, g.p, g.s, rfl⟩
  | p r l m x =>
    unfold Group.apply Group.setP
    by_cases h : r = 0
    · exact ⟨g.v, g.p, g.s, by simp [h]⟩
    · exact ⟨g.v, _, g.s, by simp [h]; rfl⟩
  | s r x =>
    unfold Group.apply Group.setS
    by_cases h : r = 0
    · exact ⟨g.v, g.p, g.s, by simp [h]⟩
    · exact ⟨g.v, g.p, _, by simp [h]; rfl⟩

theorem Group.applyAll_rest (ws : List RegW) (g : Group) : ∃ v p s, g.applyAll ws = { g with v := v, p := p, s := s } := by
  unfold Group.applyAll
  induction ws generalizing g with
  | nil => exact ⟨g.v, g.p, g.s, rfl⟩
  | cons w t ih =>
    obtain ⟨v, p, s, h⟩ := Group.apply_rest g w
    obtain ⟨v', p', s', h'⟩ := ih (g.apply w)
    refine ⟨v', p', s', ?_⟩
    rw [List.foldl_cons, h', h]

/-! ### Landing -/

/-- A fold of landings sees only registers. -/
theorem foldPend_regs (l : List Pend) {g g' : Group} (h : g.regs = g'.regs) :
    (l.foldl (fun g p => g.applyAll p.ws) g).regs = (l.foldl (fun g p => g.applyAll p.ws) g').regs := by
  induction l generalizing g g' with
  | nil => exact h
  | cons p t ih => exact ih (Group.applyAll_regs p.ws h)

theorem Group.landAll_regs (g : Group) : g.landAll.regs = (g.pend.foldl (fun g p => g.applyAll p.ws) g).regs := rfl

theorem Group.land_regs (g : Group) (cyc : Nat) :
    (g.land cyc).regs = ((g.pend.filter (fun p => decide (p.due ≤ cyc))).foldl (fun g p => g.applyAll p.ws) g).regs := rfl

/-- Landing depends on the registers and on the results on their way alone. -/
theorem Group.landAll_congr {g g' : Group} (h : g.regs = g'.regs) (hp : g.pend = g'.pend) : g.landAll.regs = g'.landAll.regs := by
  rw [Group.landAll_regs, Group.landAll_regs, hp]; exact foldPend_regs _ h

theorem Group.land_congr {g g' : Group} (h : g.regs = g'.regs) (hp : g.pend = g'.pend) (cyc : Nat) : (g.land cyc).regs = (g'.land cyc).regs := by
  rw [Group.land_regs, Group.land_regs, hp]; exact foldPend_regs _ h

@[simp] theorem Group.clobber_regs (g : Group) (ws : List RegW) (wd self : Nat) : (g.clobber ws wd self).regs = g.regs := rfl
@[simp] theorem Group.clobber_pend (g : Group) (ws : List RegW) (wd self : Nat) : (g.clobber ws wd self).pend = g.pend := rfl

/-- Results that go on their way one by one reach the registers in their order. -/
theorem pendOf_regs (seq st pos : Nat) (lanes : Word) (lock : Bool) (l : List (Nat × RegW)) (g : Group) :
    (pendOf seq st pos lanes lock l).foldl (fun g p => g.applyAll p.ws) g = g.applyAll (l.map (·.2)) := by
  unfold pendOf Group.applyAll
  induction l generalizing g with
  | nil => rfl
  | cons e t ih => simpa using ih (g.apply e.2)

/-- The results that a word of fixed latency puts on their way: each lands when its latency has passed, or later, and together they are the word's writes. -/
theorem Group.push_pend (g : Group) (cyc lat seq st pos wd : Nat) (lanes : Word) (ws : List RegW) (h : ws ≠ []) :
    ∃ new, g.push cyc lat seq st pos wd lanes ws = ({ g with pend := g.pend ++ new } : Group).clobber ws wd 0 ∧ (∀ p ∈ new, cyc + lat ≤ p.due) ∧
      ∀ x : Group, new.foldl (fun g p => g.applyAll p.ws) x = x.applyAll ws := by
  unfold Group.push
  rw [if_neg h]
  refine ⟨_, rfl, fun p hp => ?_, fun x => ?_⟩
  · split_ifs at hp with hb
    · rw [List.mem_singleton.mp hp]
    · obtain ⟨e, he, rfl⟩ := List.mem_map.mp hp
      obtain ⟨w, -, rfl⟩ := List.mem_map.mp he
      exact Nat.le_max_left _ _
  · split_ifs with hb
    · rfl
    · rw [pendOf_regs, List.map_map]
      congr 1
      exact List.map_id _

/-- A result on its way lands after those that were before it. -/
theorem Group.push_landAll (g : Group) (cyc lat seq st pos wd : Nat) (lanes : Word) (ws : List RegW) :
    (g.push cyc lat seq st pos wd lanes ws).landAll.regs = (g.landAll.applyAll ws).regs := by
  by_cases h : ws = []
  · subst h; rfl
  · obtain ⟨new, he, -, ha⟩ := Group.push_pend g cyc lat seq st pos wd lanes ws h
    rw [he, Group.landAll_regs, Group.clobber_pend, List.foldl_append, ha]
    refine Group.applyAll_regs ws ?_
    rw [Group.landAll_regs]
    exact foldPend_regs _ rfl

/-- A result on its way does not land before its latency has passed (R318). -/
theorem Group.push_land (g : Group) (cyc lat seq st pos wd : Nat) (lanes : Word) (ws : List RegW) (n : Nat) (hn : n < cyc + lat) :
    ((g.push cyc lat seq st pos wd lanes ws).land n).regs = (g.land n).regs := by
  by_cases h : ws = []
  · subst h; rfl
  · obtain ⟨new, he, hd, -⟩ := Group.push_pend g cyc lat seq st pos wd lanes ws h
    have hf : new.filter (fun p => decide (p.due ≤ n)) = [] :=
      List.filter_eq_nil_iff.mpr (fun p hp => by have := hd p hp; simp; omega)
    rw [he, Group.land_regs, Group.land_regs, Group.clobber_pend, List.filter_append, hf, List.append_nil]
    exact foldPend_regs _ rfl

/-- What putting a result on its way changes. -/
theorem Group.push_rest (g : Group) (cyc lat seq st pos wd : Nat) (lanes : Word) (ws : List RegW) :
    ∃ pend mws, g.push cyc lat seq st pos wd lanes ws = { g with pend := pend, mws := mws } ∧
      mws.map (fun m => ({ m with clob := [] } : MemWord)) = g.mws.map (fun m => ({ m with clob := [] } : MemWord)) := by
  by_cases h : ws = []
  · subst h; exact ⟨g.pend, g.mws, rfl, rfl⟩
  · obtain ⟨new, he, -, -⟩ := Group.push_pend g cyc lat seq st pos wd lanes ws h
    rw [he]
    refine ⟨_, _, rfl, ?_⟩
    simp only [List.map_map]
    apply List.map_congr_left
    intro m _
    dsimp only [Function.comp]
    split_ifs <;> rfl

/-! ### Writes of fixed latency -/

/-- Flags are added to lanes and nothing else of a group changes. -/
theorem Group.setFlags_rest (g : Group) (l : Nat) (f : BitVec 16) :
    ∃ lanes, g.setFlags l f = { g with lanes := lanes } ∧ lanes.length = g.lanes.length ∧
      lanes.map (fun l => ({ l with flags := 0 } : Lane)) = g.lanes.map (fun l => ({ l with flags := 0 } : Lane)) := by
  refine ⟨_, rfl, List.length_modify _ _ _, ?_⟩
  apply List.ext_getElem?
  intro i
  simp only [List.getElem?_map, List.getElem?_modify]
  cases g.lanes[i]? with
  | none => simp
  | some x => by_cases h : l = i <;> simp [h]

theorem foldFlags_rest (fl : List (Nat × BitVec 16)) (g : Group) :
    ∃ lanes, fl.foldl (fun g f => if f.2 = 0 then g else g.setFlags f.1 f.2) g = { g with lanes := lanes } ∧ lanes.length = g.lanes.length ∧
      lanes.map (fun l => ({ l with flags := 0 } : Lane)) = g.lanes.map (fun l => ({ l with flags := 0 } : Lane)) := by
  induction fl generalizing g with
  | nil => exact ⟨g.lanes, rfl, rfl, rfl⟩
  | cons f t ih =>
    rw [List.foldl_cons]
    split_ifs with h
    · exact ih g
    · obtain ⟨l1, h1, h2, h3⟩ := Group.setFlags_rest g f.1 f.2
      obtain ⟨l2, k1, k2, k3⟩ := ih (g.setFlags f.1 f.2)
      refine ⟨l2, ?_, ?_, ?_⟩
      · rw [k1, h1]
      · rw [k2, h1, h2]
      · rw [k3, h1, h3]

theorem Group.lane_setFlags (g : Group) (l i : Nat) (f : BitVec 16) (hi : i < g.lanes.length) :
    ((g.setFlags l f).lane i).flags = (g.lane i).flags ||| (if i = l then f else 0) := by
  unfold Group.setFlags Group.modLane Group.lane
  simp only [List.getElem?_modify, List.getElem?_eq_getElem hi]
  by_cases h : l = i
  · simp [h]
  · have h' : ¬ i = l := fun e => h e.symm
    simp [h, h']

/-- The flags that a list of additions gives a lane. -/
def flagsOf (fl : List (Nat × BitVec 16)) (l : Nat) : BitVec 16 := fl.foldl (fun a f => if l = f.1 then a ||| f.2 else a) 0

theorem flagsOf_start (fl : List (Nat × BitVec 16)) (l : Nat) (a : BitVec 16) :
    fl.foldl (fun a f => if l = f.1 then a ||| f.2 else a) a = a ||| flagsOf fl l := by
  unfold flagsOf
  induction fl generalizing a with
  | nil => simp
  | cons f t ih =>
    rw [List.foldl_cons, List.foldl_cons, ih, ih (a := if l = f.1 then 0 ||| f.2 else 0)]
    split_ifs <;> simp [BitVec.or_assoc]

theorem foldFlags_flags (fl : List (Nat × BitVec 16)) (g : Group) (i : Nat) (hi : i < g.lanes.length) :
    ((fl.foldl (fun g f => if f.2 = 0 then g else g.setFlags f.1 f.2) g).lane i).flags = (g.lane i).flags ||| flagsOf fl i := by
  induction fl generalizing g with
  | nil => simp [flagsOf]
  | cons f t ih =>
    rw [List.foldl_cons]
    have e : flagsOf (f :: t) i = (if i = f.1 then f.2 else 0) ||| flagsOf t i := by
      rw [flagsOf, List.foldl_cons, flagsOf_start]
      split_ifs <;> simp
    split_ifs with h
    · rw [ih g hi, e, h]; simp
    · obtain ⟨l1, h1, h2, h3⟩ := Group.setFlags_rest g f.1 f.2
      have hl : i < (g.setFlags f.1 f.2).lanes.length := by rw [h1]; simpa [h2] using hi
      rw [ih _ hl, Group.lane_setFlags g f.1 i f.2 hi, e, BitVec.or_assoc]

/-- The place of an entity after its word. -/
def Ent.issue (c : Ctx) (h : Hdr) (e : Ent) : Ent :=
  { e with pos := e.pos + 1, readyAt := c.cyc + 1 + h.stall.toNat, yh := h.yh, wait := none, issued := c.cyc + 1 }

/-- The change that the end of a word makes to its group. -/
def Group.issue (g : Group) (c : Ctx) (h : Hdr) : Group :=
  { g.modEnt c.m.ent (Ent.issue c h) with issued := c.cyc + 1 }

theorem State.issued_eq (s : State) (c : Ctx) (h : Hdr) : s.issued c h = (s.modGroup c.m.crew c.m.grp (fun g => g.issue c h)).deliver c.m.crew c.m.grp := rfl

/-- A change of entities by their index. -/
theorem find_modEnt (l : List Ent) (i j : Nat) (f : Ent → Ent) (hf : ∀ e, (f e).idx = e.idx) :
    (l.map (fun e => if e.idx = i then f e else e)).find? (fun e => e.idx == j) =
      if j = i then (l.find? (fun e => e.idx == j)).map f else l.find? (fun e => e.idx == j) := by
  induction l with
  | nil => simp
  | cons a t ih =>
    have hu : (if a.idx = i then f a else a).idx = a.idx := by split_ifs <;> simp [hf]
    simp only [List.map_cons, List.find?_cons, hu]
    cases h : (a.idx == j) with
    | true =>
      have : a.idx = j := by simpa using h
      by_cases hj : j = i
      · simp [this, hj]
      · simp [this, hj]
    | false => simpa using ih

/-- The end of a word changes the place of its entity and nothing else. -/
theorem issued_of_issue (g : Group) (c : Ctx) (h : Hdr) : Issued c h g (g.issue c h) where
  mine := by
    unfold Group.issue Group.modEnt Group.ent?
    by_cases hi : c.m.ent = handlerIdx
    · simp only [hi, if_true]; cases g.handler <;> rfl
    · simp only [hi, if_false]; exact (find_modEnt _ _ _ (Ent.issue c h) (fun _ => rfl)).trans (if_pos rfl)
  others := fun j hj => by
    unfold Group.issue Group.modEnt Group.ent?
    by_cases hi : c.m.ent = handlerIdx
    · have : j ≠ handlerIdx := fun e => hj (e.trans hi.symm)
      simp [hi, this]
    · simp only [hi, if_false]
      by_cases hj' : j = handlerIdx
      · simp [hj']
      · simp only [hj', if_false]; exact (find_modEnt _ _ _ (Ent.issue c h) (fun _ => rfl)).trans (if_neg hj)
  number := by
    unfold Group.issue Group.modEnt
    split_ifs <;> simp
  handler := by
    unfold Group.issue Group.modEnt
    split_ifs
    · cases g.handler <;> simp
    · rfl
  group := rfl

@[simp] theorem Group.issue_regs (g : Group) (c : Ctx) (h : Hdr) : (g.issue c h).regs = g.regs := by
  unfold Group.issue Group.modEnt; split_ifs <;> rfl

@[simp] theorem Group.issue_pend (g : Group) (c : Ctx) (h : Hdr) : (g.issue c h).pend = g.pend := by
  unfold Group.issue Group.modEnt; split_ifs <;> rfl

@[simp] theorem Group.issue_lanes (g : Group) (c : Ctx) (h : Hdr) : (g.issue c h).lanes = g.lanes := by
  unfold Group.issue Group.modEnt; split_ifs <;> rfl

/-- What a word of fixed latency leaves, and what its group's registers hold once every result has landed. -/
theorem writeFixed_effect (t : State) (c : Ctx) (h : Hdr) (lat wd : Nat) (lanes : Word) (ws : List RegW) (fl : List (Nat × BitVec 16)) (g : Group)
    (hg : t.group? c.m.crew c.m.grp = some g) :
    ∃ u g', t.writeFixed c h lat wd lanes ws fl = u.deliver c.m.crew c.m.grp ∧ FixedFrame t u c h lat g g' ∧
      g'.landAll.regs = (g.landAll.applyAll ws).regs ∧ FlagsOr g g' (flagsOf fl) := by
  let f : Group → Group := fun g =>
    (fl.foldl (fun g f => if f.2 = 0 then g else g.setFlags f.1 f.2) (g.push c.cyc lat t.nextSeq c.st c.pos wd lanes ws)).issue c h
  obtain ⟨pend, mws, hp, hmw⟩ := Group.push_rest g c.cyc lat t.nextSeq c.st c.pos wd lanes ws
  obtain ⟨ls, hl, hlen, hls⟩ := foldFlags_rest fl (g.push c.cyc lat t.nextSeq c.st c.pos wd lanes ws)
  have hi := issued_of_issue ({ g.push c.cyc lat t.nextSeq c.st c.pos wd lanes ws with lanes := ls } : Group) c h
  have hf : f g = ({ g.push c.cyc lat t.nextSeq c.st c.pos wd lanes ws with lanes := ls } : Group).issue c h := by simp only [f, hl]
  refine ⟨t.modGroup c.m.crew c.m.grp f, f g, ?_, ?_, ?_, ?_⟩
  · unfold State.writeFixed
    rw [State.issued_eq, State.modGroup_modGroup]
  · refine ⟨onlyGroup_modGroup _ _ _ _, hg, by rw [State.group?_modGroup, hg]; rfl, ?_, ?_, ?_, ?_, ?_⟩
    · rw [hf, hp]; unfold Group.issue Group.modEnt; split_ifs <;> rfl
    · rw [hf, hp]; unfold Group.issue Group.modEnt; split_ifs <;> exact hmw
    · rw [hf, Group.issue_lanes]; rw [hp] at hls; exact hls
    · rw [hf]
      refine ⟨?_, ?_, ?_, ?_, ?_⟩
      · rw [hi.mine]; rw [hp]; rfl
      · intro j hj; rw [hi.others j hj]; rw [hp]; rfl
      · rw [hi.number]; rw [hp]
      · rw [hi.handler]; rw [hp]
      · exact hi.group
    · intro n hn
      have e : ((f g).land n).regs = (g.land n).regs := by
        rw [hf, Group.land_congr (g' := g.push c.cyc lat t.nextSeq c.st c.pos wd lanes ws) (by simp; rfl) (by simp) n]
        exact Group.push_land g _ _ _ _ _ _ _ _ n hn
      exact ⟨congrArg (·.1) e, congrArg (·.2.1) e, congrArg (·.2.2) e⟩
  · rw [hf, Group.landAll_congr (g' := g.push c.cyc lat t.nextSeq c.st c.pos wd lanes ws) (by simp; rfl) (by simp)]
    exact Group.push_landAll g _ _ _ _ _ _ _ _
  · intro i hi'
    have : ((f g).lane i).flags = ((fl.foldl (fun g f => if f.2 = 0 then g else g.setFlags f.1 f.2) (g.push c.cyc lat t.nextSeq c.st c.pos wd lanes ws)).lane i).flags := by
      simp only [f, Group.lane, Group.issue_lanes]
    rw [this, foldFlags_flags _ _ i (by rw [hp]; exact hi')]
    rw [hp]; rfl

end Sys2Proof.Machine
end

