-- ==== Sys2Proof/Laws/Elem.lean ====
section
/-!
SUPPORT. Words that compute per sub-element: what their writes give each sub-element of the destination; the swizzle.
-/

namespace Sys2Proof.Machine

/-! ### Sub-elements -/

theorem getSub_def (w s x : Nat) : getSub w s x = x / 2 ^ (w * s) % 2 ^ w := by
  unfold getSub nbits; rw [Nat.shiftRight_eq_div_pow]

theorem testBit_getSub (w s x j : Nat) : (getSub w s x).testBit j = (decide (j < w) && x.testBit (w * s + j)) := by
  unfold getSub nbits
  rw [Nat.testBit_mod_two_pow, Nat.testBit_shiftRight]

theorem getSub_lt (w s x : Nat) : getSub w s x < 2 ^ w := by rw [getSub_def]; exact Nat.mod_lt _ (Nat.two_pow_pos w)

/-- A higher part does not show in a lower sub-element. -/
theorem getSub_add_high (w s n x y : Nat) (h : s < n) : getSub w s (x + y * 2 ^ (w * n)) = getSub w s x := by
  rw [getSub_def, getSub_def]
  obtain ⟨k, rfl⟩ : ∃ k, n = s + (k + 1) := ⟨n - s - 1, by omega⟩
  have e : y * 2 ^ (w * (s + (k + 1))) = 2 ^ (w * s) * (2 ^ w * (y * 2 ^ (w * k))) := by
    have : w * (s + (k + 1)) = w * s + (w + w * k) := by ring
    rw [this, pow_add, pow_add]; ring
  rw [e, Nat.add_mul_div_left _ _ (Nat.two_pow_pos _), Nat.add_mul_mod_self_left]

theorem getSub_add_self (w n x y : Nat) (h : x < 2 ^ (w * n)) (hy : y < 2 ^ w) : getSub w n (x + y * 2 ^ (w * n)) = y := by
  rw [getSub_def, Nat.add_mul_div_right _ _ (Nat.two_pow_pos _), Nat.div_eq_of_lt h, Nat.zero_add, Nat.mod_eq_of_lt hy]

theorem add_high_lt (w n x y : Nat) (h : x < 2 ^ (w * n)) (hy : y < 2 ^ w) : x + y * 2 ^ (w * n) < 2 ^ (w * (n + 1)) := by
  have e : 2 ^ (w * (n + 1)) = 2 ^ w * 2 ^ (w * n) := by rw [← pow_add]; congr 1; ring
  rw [e]
  calc x + y * 2 ^ (w * n) < 2 ^ (w * n) + y * 2 ^ (w * n) := by omega
    _ = (y + 1) * 2 ^ (w * n) := by ring
    _ ≤ 2 ^ w * 2 ^ (w * n) := Nat.mul_le_mul_right _ (by omega)

/-! ### The result of a lane -/

/-- One step of a lane's result. -/
def laneStep (wd : Nat) (ex : Nat → Bool) (f : Nat → Res) (r : LaneRes) (s : Nat) : LaneRes :=
  if ex s then ⟨r.mask + (2 ^ wd - 1) * 2 ^ (wd * s), r.val + ((f s).1 % 2 ^ wd) * 2 ^ (wd * s), r.fl ||| (f s).2⟩ else r

theorem laneRes_eq (wd : Nat) (ex : Nat → Bool) (f : Nat → Res) : laneRes wd ex f = (List.range (64 / wd)).foldl (laneStep wd ex f) ⟨0, 0, 0⟩ := rfl

theorem laneFold_spec (wd : Nat) (ex : Nat → Bool) (f : Nat → Res) (n : Nat) :
    let r := (List.range n).foldl (laneStep wd ex f) ⟨0, 0, 0⟩
    r.mask < 2 ^ (wd * n) ∧ r.val < 2 ^ (wd * n) ∧
      (∀ s, s < n → getSub wd s r.mask = if ex s then 2 ^ wd - 1 else 0) ∧
      (∀ s, s < n → getSub wd s r.val = if ex s then (f s).1 % 2 ^ wd else 0) ∧
      r.fl = (List.range n).foldl (fun a s => if ex s then a ||| (f s).2 else a) 0 := by
  induction n with
  | zero => simp
  | succ n ih =>
    simp only [List.range_succ, List.foldl_append, List.foldl_cons, List.foldl_nil]
    obtain ⟨h1, h2, h3, h4, h5⟩ := ih
    set r := (List.range n).foldl (laneStep wd ex f) ⟨0, 0, 0⟩ with hr
    have hm : (2 ^ wd - 1) < 2 ^ wd := Nat.sub_lt (Nat.two_pow_pos wd) one_pos
    have hv : (f n).1 % 2 ^ wd < 2 ^ wd := Nat.mod_lt _ (Nat.two_pow_pos wd)
    have hmono : 2 ^ (wd * n) ≤ 2 ^ (wd * (n + 1)) := Nat.pow_le_pow_right (by norm_num) (Nat.mul_le_mul_left _ (by omega))
    have hz : ∀ x, x < 2 ^ (wd * n) → getSub wd n x = 0 := fun x hx => by rw [getSub_def, Nat.div_eq_of_lt hx]; simp
    unfold laneStep
    by_cases he : ex n = true
    · simp only [he, if_true]
      refine ⟨add_high_lt wd n _ _ h1 hm, add_high_lt wd n _ _ h2 hv, ?_, ?_, by rw [h5]⟩
      · intro s hs
        by_cases hs' : s < n
        · rw [getSub_add_high _ _ _ _ _ hs', h3 s hs']
        · obtain rfl : s = n := by omega
          rw [getSub_add_self _ _ _ _ h1 hm]; simp [he]
      · intro s hs
        by_cases hs' : s < n
        · rw [getSub_add_high _ _ _ _ _ hs', h4 s hs']
        · obtain rfl : s = n := by omega
          rw [getSub_add_self _ _ _ _ h2 hv]; simp [he]
    · simp only [he, Bool.false_eq_true, if_false]
      refine ⟨lt_of_lt_of_le h1 hmono, lt_of_lt_of_le h2 hmono, ?_, ?_, h5⟩
      · intro s hs
        by_cases hs' : s < n
        · exact h3 s hs'
        · obtain rfl : s = n := by omega
          rw [hz _ h1]; simp [he]
      · intro s hs
        by_cases hs' : s < n
        · exact h4 s hs'
        · obtain rfl : s = n := by omega
          rw [hz _ h2]; simp [he]

/-- The mask and the value of a lane's result, by sub-element, and its flags. -/
theorem laneRes_spec (wd : Nat) (ex : Nat → Bool) (f : Nat → Res) (s : Nat) (hs : s < 64 / wd) :
    getSub wd s (laneRes wd ex f).mask = (if ex s then 2 ^ wd - 1 else 0) ∧
    getSub wd s (laneRes wd ex f).val = (if ex s then (f s).1 % 2 ^ wd else 0) :=
  ⟨(laneFold_spec wd ex f (64 / wd)).2.2.1 s hs, (laneFold_spec wd ex f (64 / wd)).2.2.2.1 s hs⟩

theorem laneRes_fl (wd : Nat) (ex : Nat → Bool) (f : Nat → Res) : (laneRes wd ex f).fl = orFlags wd ex (fun s => (f s).2) :=
  (laneFold_spec wd ex f (64 / wd)).2.2.2.2

/-- A sub-element of a 64-bit word whose bits lie in it. -/
theorem sub_bit_lt (wd s j : Nat) (hs : s < 64 / wd) (hj : j < wd) : wd * s + j < 64 := by
  have h1 : wd * (64 / wd) ≤ 64 := Nat.mul_div_le 64 wd
  have h2 : wd * (s + 1) ≤ wd * (64 / wd) := Nat.mul_le_mul_left _ hs
  have h3 : wd * (s + 1) = wd * s + wd := by ring
  omega

/-- A masked write of a lane's result, by sub-element. -/
theorem getSub_masked (wd s : Nat) (ex : Nat → Bool) (f : Nat → Res) (hs : s < 64 / wd) (old : Word) :
    getSub wd s ((old &&& ~~~(BitVec.ofNat 64 (laneRes wd ex f).mask)) ||| (BitVec.ofNat 64 (laneRes wd ex f).val &&& BitVec.ofNat 64 (laneRes wd ex f).mask)).toNat =
      if ex s then (f s).1 % 2 ^ wd else getSub wd s old.toNat := by
  obtain ⟨hm, hv⟩ := laneRes_spec wd ex f s hs
  apply Nat.eq_of_testBit_eq
  intro j
  rw [testBit_getSub]
  by_cases hj : j < wd
  · have hlt := sub_bit_lt wd s j hs hj
    have bm : (laneRes wd ex f).mask.testBit (wd * s + j) = ex s := by
      have := congrArg (fun x => x.testBit j) hm
      simp only [testBit_getSub, hj, decide_true, Bool.true_and] at this
      rw [this]
      cases ex s <;> simp [hj]
    have bv : ex s = true → (laneRes wd ex f).val.testBit (wd * s + j) = ((f s).1 % 2 ^ wd).testBit j := by
      intro he
      have := congrArg (fun x => x.testBit j) hv
      simpa only [testBit_getSub, hj, decide_true, Bool.true_and, he, if_true] using this
    simp only [hj, decide_true, Bool.true_and]
    rw [BitVec.testBit_toNat]
    simp only [BitVec.getLsbD_or, BitVec.getLsbD_and, BitVec.getLsbD_not, BitVec.getLsbD_ofNat, hlt, decide_true, Bool.true_and, bm]
    cases he : ex s with
    | true => simp [bv he]
    | false => simp [testBit_getSub, hj, BitVec.testBit_toNat]
  · have h1 : ((f s).1 % 2 ^ wd).testBit j = false := by
      rw [Nat.testBit_mod_two_pow]; simp [hj]
    cases ex s with
    | true => simp [hj, h1]
    | false => simp [hj, testBit_getSub]

/-! ### Lanes -/

theorem lanesOf_nodup (m : Word) : (lanesOf m).Nodup := List.Nodup.filter _ List.nodup_range

theorem mem_lanesOf (m : Word) (l : Nat) : l ∈ lanesOf m ↔ m.getLsbD l = true := by
  unfold lanesOf
  simp only [List.mem_filter, List.mem_range]
  constructor
  · exact fun h => h.2
  · intro h
    refine ⟨?_, h⟩
    by_contra hl
    rw [BitVec.getLsbD_of_ge _ _ (by omega)] at h
    exact Bool.noConfusion h

theorem maskOf_fold (l : List Nat) (m : Word) (i : Nat) :
    (l.foldl (fun m i => m ||| BitVec.ofNat 64 (2 ^ i)) m).getLsbD i = (m.getLsbD i || decide (i < 64 ∧ i ∈ l)) := by
  induction l generalizing m with
  | nil => simp
  | cons a t ih =>
    rw [List.foldl_cons, ih, BitVec.getLsbD_or, BitVec.getLsbD_ofNat, Nat.testBit_two_pow]
    have hia : (i ∈ a :: t) ↔ (a = i ∨ i ∈ t) := by rw [List.mem_cons]; exact or_congr_left ⟨Eq.symm, Eq.symm⟩
    by_cases hi : i < 64
    · by_cases ha : a = i
      · simp [hi, ha]
      · simp [hi, hia, ha]
    · simp [hi]

/-- The lanes of a mask made of a list. -/
theorem getLsbD_maskOf (l : List Nat) (i : Nat) : (maskOf l).getLsbD i = decide (i < 64 ∧ i ∈ l) := by
  unfold maskOf; rw [maskOf_fold]; simp

/-- The lanes for which a word executes. -/
theorem active_getLsbD (c : Ctx) (h : Hdr) (wd l : Nat) (hw : wd ≠ 0) :
    (c.active h wd).getLsbD l = (subs wd).any (fun s => c.exec h wd l s) := by
  unfold Ctx.active
  rw [getLsbD_maskOf]
  simp only [hw, if_false, List.mem_filter, mem_lanesOf, Ctx.exec]
  cases hl : c.lanes.getLsbD l with
  | true =>
    have : l < 64 := by
      by_contra hl'
      rw [BitVec.getLsbD_of_ge _ _ (by omega)] at hl
      exact Bool.noConfusion hl
    simp only [this, true_and, Bool.true_and]
    cases (subs wd).any (fun s => c.guard h l (wd / 8 * s)) <;> rfl
  | false => simp

/-- The parts of the registers that masked writes to one V register leave. -/
theorem applyAll_mapV (d : Nat) (m x : Nat → Word) (ls : List Nat) (hnd : ls.Nodup) (hls : ∀ l ∈ ls, l < 64) (g : Group) :
    let g' := g.applyAll (ls.map (fun l => RegW.v d l (m l) (x l)))
    g'.p = g.p ∧ g'.s = g.s ∧
    ∀ r l, l < 64 → g'.getV r l = if r = d ∧ l ∈ ls then (g.getV d l &&& ~~~(m l)) ||| (x l &&& m l) else g.getV r l := by
  unfold Group.applyAll
  induction ls generalizing g with
  | nil => simp
  | cons a t ih =>
    simp only [List.map_cons, List.foldl_cons]
    have ha : a ∉ t := (List.nodup_cons.mp hnd).1
    have ha64 := hls a (List.mem_cons_self)
    obtain ⟨hp, hs, hv⟩ := ih (List.nodup_cons.mp hnd).2 (fun l hl => hls l (List.mem_cons_of_mem _ hl)) (g.apply (.v d a (m a) (x a)))
    refine ⟨by rw [hp]; rfl, by rw [hs]; rfl, fun r l hl => ?_⟩
    rw [hv r l hl]
    have hget : ∀ r' l', l' < 64 → (g.apply (.v d a (m a) (x a))).getV r' l' = if r' = d ∧ l' = a then (g.getV d a &&& ~~~(m a)) ||| (x a &&& m a) else g.getV r' l' := by
      intro r' l' hl'
      show (g.maskV d a (m a) (x a)).getV r' l' = _
      rw [Group.getV_maskV]
      have : (r' * 64 + l' = d * 64 + a) ↔ (r' = d ∧ l' = a) := by omega
      simp only [this]
    rw [hget r l hl, hget d l hl]
    by_cases hr : r = d
    · subst hr
      by_cases hla : l = a
      · subst hla; simp [ha]
      · by_cases hlt : l ∈ t
        · simp [hlt, hla]
        · simp [hlt, hla]
    · simp [hr]

theorem flagsOf_map (ls : List Nat) (f : Nat → BitVec 16) (hnd : ls.Nodup) (i : Nat) :
    flagsOf (ls.map (fun l => (l, f l))) i = if i ∈ ls then f i else 0 := by
  induction ls with
  | nil => simp [flagsOf]
  | cons a t ih =>
    have ha : a ∉ t := (List.nodup_cons.mp hnd).1
    rw [List.map_cons, flagsOf, List.foldl_cons, flagsOf_start, ih (List.nodup_cons.mp hnd).2]
    by_cases hi : i = a
    · subst hi; simp [ha]
    · simp [hi]

/-! ### Whole words -/

theorem regs_parts {g g' : Group} {v : SMap Word} {p : SMap Byte} {s : SMap Word} (h : g.regs = (v, p, s)) (e : g' = { g' with v := v, p := p, s := s }) :
    g.regs = g'.regs := by rw [h, e]; rfl

/-- What masked writes of lanes' results to one V register leave once every result has landed. -/
theorem mapV_lands {g g' : Group} (d wd : Nat) (ex : Nat → Nat → Bool) (f : Nat → Nat → Res) (act : Word)
    (hact : ∀ l, act.getLsbD l = false → ∀ s, s < 64 / wd → ex l s = false)
    (h : g'.landAll.regs = (g.landAll.applyAll ((lanesOf act).map (fun l =>
      RegW.v d l (BitVec.ofNat 64 (laneRes wd (ex l) (f l)).mask) (BitVec.ofNat 64 (laneRes wd (ex l) (f l)).val)))).regs) :
    SameP g g' [] ∧ SameS g g' [] ∧ SameV g g' [d] ∧ ElemV g g' d wd ex (fun l s => (f l s).1) := by
  obtain ⟨hp, hs, hv⟩ := applyAll_mapV d (fun l => BitVec.ofNat 64 (laneRes wd (ex l) (f l)).mask) (fun l => BitVec.ofNat 64 (laneRes wd (ex l) (f l)).val)
    (lanesOf act) (lanesOf_nodup act) (fun l hl => by unfold lanesOf at hl; simp at hl; exact hl.1) g.landAll
  refine ⟨fun r l hl _ => ?_, fun r _ => ?_, fun r l hl hr => ?_, fun l s hl hs' => ?_⟩
  · rw [Group.getP_regs h]; unfold Group.getP; rw [hp]
  · rw [Group.getS_regs h]; unfold Group.getS; rw [hs]
  · rw [Group.getV_regs h, hv r l hl]
    have : ¬ r = d := fun e => hr (by simp [e])
    simp [this]
  · rw [Group.getV_regs h, hv d l hl]
    by_cases ha : act.getLsbD l = true
    · have : l ∈ lanesOf act := (mem_lanesOf act l).mpr ha
      simp only [this, and_true, if_true]
      exact getSub_masked wd s (ex l) (f l) hs' _
    · have h1 : l ∉ lanesOf act := fun e => ha ((mem_lanesOf act l).mp e)
      have h2 := hact l (by simpa using ha) s hs'
      simp [h1, h2]

/-- The flags of lanes' results. -/
theorem mapFlags_lands {g g' : Group} (wd : Nat) (ex : Nat → Nat → Bool) (f : Nat → Nat → Res) (act : Word)
    (hact : ∀ l, act.getLsbD l = false → ∀ s, s < 64 / wd → ex l s = false)
    (h : FlagsOr g g' (flagsOf ((lanesOf act).map (fun l => (l, (laneRes wd (ex l) (f l)).fl))))) :
    FlagsOr g g' (fun l => orFlags wd (ex l) (fun s => (f l s).2)) := by
  intro l hl
  rw [h l hl, flagsOf_map _ _ (lanesOf_nodup act)]
  by_cases ha : act.getLsbD l = true
  · rw [if_pos ((mem_lanesOf act l).mpr ha), laneRes_fl]
  · rw [if_neg (fun e => ha ((mem_lanesOf act l).mp e))]
    congr 1
    unfold orFlags
    have : ∀ s ∈ subs wd, ex l s = false := fun s hs => hact l (by simpa using ha) s (by unfold subs at hs; simpa using hs)
    have e : ∀ (L : List Nat) (a : BitVec 16), (∀ s ∈ L, ex l s = false) → L.foldl (fun a s => if ex l s = true then a ||| (f l s).2 else a) a = a := by
      intro L
      induction L with
      | nil => intro a _; rfl
      | cons x t ih =>
        intro a hx
        rw [List.foldl_cons, hx x (List.mem_cons_self)]
        exact ih a (fun s hs => hx s (List.mem_cons_of_mem _ hs))
    exact (e _ 0 this).symm

theorem intWidth_cases (ty : BitVec 3) : intWidth ty = 8 ∨ intWidth ty = 16 ∨ intWidth ty = 32 ∨ intWidth ty = 64 := by
  unfold intWidth
  have : ty.toNat % 4 < 4 := Nat.mod_lt _ (by omega)
  interval_cases ty.toNat % 4 <;> simp

/-- Lanes that do not execute a word execute none of its sub-elements, where the guard's width is at most that of the sub-elements. -/
theorem active_sound (c : Ctx) (h : Hdr) (gw wd : Nat) (hg : gw = 8 ∨ gw = 16 ∨ gw = 32 ∨ gw = 64) (hw : wd = gw ∨ wd = 64) (l : Nat)
    (hl : (c.active h gw).getLsbD l = false) (s : Nat) (hs : s < 64 / wd) : c.exec h wd l s = false := by
  have h0 : gw ≠ 0 := by omega
  rw [active_getLsbD c h gw l h0] at hl
  rw [List.any_eq_false] at hl
  have hmem : ∀ x, x < 64 / gw → x ∈ subs gw := fun x hx => by unfold subs; simpa using hx
  rcases hw with rfl | rfl
  · have := hl s (hmem s hs)
    simpa using this
  · have hs0 : s = 0 := by omega
    subst hs0
    have hp : 0 < 64 / gw := by rcases hg with h | h | h | h <;> subst h <;> norm_num
    have := hl 0 (hmem 0 hp)
    unfold Ctx.exec at this ⊢
    simpa using this

/-- What one write of an S register leaves. -/
theorem writeS_lands {g g' : Group} (d : Nat) (x : Word) (h : g'.landAll.regs = (g.landAll.applyAll [RegW.s d x]).regs) :
    SameP g g' [] ∧ SameV g g' [] ∧ SameS g g' [d] ∧ g'.landAll.getS 0 = 0 ∧ (d ≠ 0 → g'.landAll.getS d = x) := by
  have e : g.landAll.applyAll [RegW.s d x] = g.landAll.setS d x := rfl
  rw [e] at h
  refine ⟨fun r l _ _ => ?_, fun r l _ _ => ?_, fun r hr => ?_, rfl, fun hd => ?_⟩
  · rw [Group.getP_regs h]; unfold Group.getP Group.setS; split_ifs <;> rfl
  · rw [Group.getV_regs h]; unfold Group.getV Group.setS; split_ifs <;> rfl
  · rw [Group.getS_regs h, Group.getS_setS]
    have : ¬ r = d := fun e => hr (by simp [e])
    simp [this]
  · rw [Group.getS_regs h, Group.getS_setS]; simp [hd]

/-- What no write leaves. -/
theorem noWrite_lands {g g' : Group} (h : g'.landAll.regs = g.landAll.regs) : SameP g g' [] ∧ SameV g g' [] ∧ SameS g g' [] :=
  ⟨fun r l _ _ => Group.getP_regs h r l, fun r l _ _ => Group.getV_regs h r l, fun r _ => Group.getS_regs h r⟩

/-- A word of no effect leaves what a word of fixed latency without writes leaves. -/
theorem issued_effect (t : State) (c : Ctx) (h : Hdr) (lat : Nat) (g : Group) (hg : t.group? c.m.crew c.m.grp = some g) :
    ∃ u g', t.issued c h = u.deliver c.m.crew c.m.grp ∧ FixedFrame t u c h lat g g' ∧ g'.landAll.regs = g.landAll.regs ∧ FlagsOr g g' (fun _ => 0) := by
  obtain ⟨u, g', he, hf, hr, hfl⟩ := writeFixed_effect t c h lat 64 0 [] [] g hg
  refine ⟨u, g', ?_, hf, hr, hfl⟩
  rw [← he]
  unfold State.writeFixed
  rw [State.issued_eq, State.issued_eq, State.modGroup_modGroup]
  rfl

/-- The value of an S destination, by sub-element. -/
theorem laneRes_word (wd : Nat) (f : Nat → Res) (s : Nat) (hs : s < 64 / wd) :
    getSub wd s (BitVec.ofNat 64 (laneRes wd (fun _ => true) f).val).toNat = (f s).1 % 2 ^ wd := by
  have h := (laneRes_spec wd (fun _ => true) f s hs).2
  simp only [if_true] at h
  rw [← h]
  apply Nat.eq_of_testBit_eq
  intro j
  rw [testBit_getSub, testBit_getSub]
  by_cases hj : j < wd
  · have hlt := sub_bit_lt wd s j hs hj
    rw [BitVec.testBit_toNat, BitVec.getLsbD_ofNat]; simp [hj, hlt]
  · simp [hj]

/-- Every word that computes per sub-element runs to its end. -/
theorem elemWord_runs (o : Op) (w : Body) (wd : Nat) (f : Ctx → Nat → Nat → Res) {s t : State} {c : Ctx} (h : Starts (o.mk w) s t c)
    (hact : startAct (o.mk w) c = c.active w.hdr (guardWidth o w))
    (hg : guardWidth o w = 8 ∨ guardWidth o w = 16 ∨ guardWidth o w = 32 ∨ guardWidth o w = 64) (hw : wd = guardWidth o w ∨ wd = 64)
    (hx : exec (o.mk w) s = elemWord o w wd f s) :
    ElemRuns (o.mk w) w s t c wd (latency o w) (fun l k => (f c l k).1) (fun l k => (f c l k).2) := by
  obtain ⟨g, hgr⟩ := starts_group h
  unfold ElemRuns
  split
  · rename_i d hd
    obtain ⟨u, g', he, hf, hr, hfl⟩ := writeFixed_effect t c w.hdr (latency o w) (guardWidth o w) (c.active w.hdr (guardWidth o w))
      ((lanesOf (c.active w.hdr (guardWidth o w))).map (fun l => RegW.v d.toNat l
        (BitVec.ofNat 64 (laneRes wd (c.exec w.hdr wd l) (f c l)).mask) (BitVec.ofNat 64 (laneRes wd (c.exec w.hdr wd l) (f c l)).val)))
      ((lanesOf (c.active w.hdr (guardWidth o w))).map (fun l => (l, (laneRes wd (c.exec w.hdr wd l) (f c l)).fl))) g hgr
    have hs := active_sound c w.hdr (guardWidth o w) wd hg hw
    obtain ⟨hp, hs', hv, hev⟩ := mapV_lands d.toNat wd (c.exec w.hdr wd) (f c) _ hs hr
    refine ⟨u, g, g', ?_, hf, hp, hs', hv, hev, mapFlags_lands wd (c.exec w.hdr wd) (f c) _ hs hfl⟩
    rw [hx, elemWord, begin_of_starts h]
    simp only [hd, List.map_map, Function.comp_def]
    rw [he]
  · rename_i d hd
    by_cases ha : startAct (o.mk w) c = 0
    · obtain ⟨u, g', he, hf, hr, hfl⟩ := issued_effect t c w.hdr (latency o w) g hgr
      obtain ⟨hp, hv, hs⟩ := noWrite_lands hr
      refine ⟨u, g, g', ?_, hf, hp, hv, fun r _ => hs r (by simp), ?_⟩
      · rw [hx, elemWord, begin_of_starts h]
        simp only [hd]
        rw [hact] at ha
        rw [if_pos ha, he]
      · rw [if_pos ha]; exact ⟨hs, hfl⟩
    · obtain ⟨u, g', he, hf, hr, hfl⟩ := writeFixed_effect t c w.hdr (latency o w) (guardWidth o w) (c.active w.hdr (guardWidth o w))
        [RegW.s d.toNat (BitVec.ofNat 64 (laneRes wd (fun _ => true) (f c 0)).val)]
        ((lanesOf (c.active w.hdr (guardWidth o w))).map (fun l => (l, (laneRes wd (fun _ => true) (f c 0)).fl))) g hgr
      obtain ⟨hp, hv, hs, h0, hd'⟩ := writeS_lands d.toNat _ hr
      refine ⟨u, g, g', ?_, hf, hp, hv, hs, ?_⟩
      · rw [hx, elemWord, begin_of_starts h]
        simp only [hd]
        rw [hact] at ha
        rw [if_neg ha, he]
      · rw [if_neg ha]
        refine ⟨⟨h0, fun hne k hk => ?_⟩, fun l hl => ?_⟩
        · rw [hd' hne]; exact laneRes_word wd (f c 0) k hk
        · rw [hfl l hl, flagsOf_map _ _ (lanesOf_nodup _), hact]
          simp only [mem_lanesOf, laneRes_fl]
  · trivial

theorem orFlags_congr (wd : Nat) (ex : Nat → Bool) (f f' : Nat → BitVec 16) (h : ∀ s, s < 64 / wd → f s = f' s) : orFlags wd ex f = orFlags wd ex f' := by
  unfold orFlags
  have e : ∀ (L : List Nat) (a : BitVec 16), (∀ s ∈ L, s < 64 / wd) →
      L.foldl (fun a s => if ex s then a ||| f s else a) a = L.foldl (fun a s => if ex s then a ||| f' s else a) a := by
    intro L
    induction L with
    | nil => intro a _; rfl
    | cons x t ih =>
      intro a hx
      rw [List.foldl_cons, List.foldl_cons, h x (hx x (List.mem_cons_self))]
      exact ih _ (fun s hs => hx s (List.mem_cons_of_mem _ hs))
  exact e _ 0 (fun s hs => by unfold subs at hs; simpa using hs)

/-- Results that agree in each sub-element say the same. -/
theorem elemRuns_congr {i : Instr} {w : Body} {s t : State} {c : Ctx} {wd lat : Nat} {res res' : Nat → Nat → Nat} {fl fl' : Nat → Nat → BitVec 16}
    (h : ElemRuns i w s t c wd lat res fl) (hr : ∀ l k, k < 64 / wd → res l k % 2 ^ wd = res' l k % 2 ^ wd) (hf : ∀ l k, k < 64 / wd → fl l k = fl' l k) :
    ElemRuns i w s t c wd lat res' fl' := by
  unfold ElemRuns at h ⊢
  split at h <;> rename_i d hd
  · obtain ⟨u, g, g', he, hfr, hp, hs, hv, hev, hfl⟩ := h
    refine ⟨u, g, g', he, hfr, hp, hs, hv, fun l k hl hk => ?_, fun l hl => ?_⟩
    · rw [hev l k hl hk, hr l k hk]
    · rw [hfl l hl]; exact congrArg _ (orFlags_congr wd _ _ _ (fun k hk => hf l k hk))
  · obtain ⟨u, g, g', he, hfr, hp, hv, hs, hc⟩ := h
    refine ⟨u, g, g', he, hfr, hp, hv, hs, ?_⟩
    by_cases ha : startAct i c = 0
    · rw [if_pos ha] at hc ⊢; exact hc
    · rw [if_neg ha] at hc ⊢
      obtain ⟨⟨h0, hes⟩, hfl⟩ := hc
      refine ⟨⟨h0, fun hne k hk => ?_⟩, fun l hl => ?_⟩
      · rw [hes hne k hk, hr 0 k hk]
      · rw [hfl l hl, orFlags_congr wd _ _ _ (fun k hk => hf 0 k hk)]
  · trivial

/-! ### The swizzle (R116) -/

/-- The swizzle is its own inverse. -/
theorem swizzle_swizzle (o c s : Nat) (h : 7 + c ≤ s) : swizzle (swizzle o c s) c s = o := by
  have key : swizzle o c s >>> s % 8 = o >>> s % 8 := by
    apply Nat.eq_of_testBit_eq
    intro i
    rw [show (8 : Nat) = 2 ^ 3 from rfl, Nat.testBit_mod_two_pow, Nat.testBit_mod_two_pow, Nat.testBit_shiftRight, Nat.testBit_shiftRight, swizzle, Nat.testBit_xor,
      Nat.testBit_shiftLeft, show (8 : Nat) = 2 ^ 3 from rfl, Nat.testBit_mod_two_pow]
    by_cases hi : i < 3
    · have hn : ¬ (s + i - (4 + c) < 3) := by omega
      simp [hn]
    · simp [hi]
  rw [swizzle, key, swizzle, Nat.xor_assoc, Nat.xor_self, Nat.xor_zero]

/-- Two logical offsets of a reservation never share a byte (R116, R130). -/
theorem resvAddr_inj (r : BitVec 64) (a b : Nat) (h : swizzleOk (resvSwen r) (resvChunk r) (resvSwsrc r) = true) (hab : resvAddr r a = resvAddr r b) : a = b := by
  unfold resvAddr at hab
  split at hab
  · next he =>
    have hs : 7 + resvChunk r ≤ resvSwsrc r := by simp [swizzleOk, he] at h; exact h.1
    rw [← swizzle_swizzle a _ _ hs, ← swizzle_swizzle b _ _ hs, Nat.add_left_cancel hab]
  · exact Nat.add_left_cancel hab

end Sys2Proof.Machine
end

