-- ==== Sys2Proof/Laws/Encode.lean ====
section
/-!
SUPPORT. The fields of a word that the encoder writes: each reads back as it was given (R158, R159, R163, R169).
-/

namespace Sys2Proof.Machine

/-! ### Fields of joined bits -/

theorem extract_low {m n : Nat} (x : BitVec m) (y : BitVec n) (lo k : Nat) (h : lo + k ≤ n) : (x ++ y).extractLsb' lo k = y.extractLsb' lo k := by
  apply BitVec.eq_of_getLsbD_eq
  intro i hi
  rw [BitVec.getLsbD_extractLsb', BitVec.getLsbD_extractLsb', BitVec.getLsbD_append, if_pos (show lo + i < n by omega)]

theorem extract_high {m n : Nat} (x : BitVec m) (y : BitVec n) (lo k : Nat) (h : n ≤ lo) : (x ++ y).extractLsb' lo k = x.extractLsb' (lo - n) k := by
  apply BitVec.eq_of_getLsbD_eq
  intro i hi
  rw [BitVec.getLsbD_extractLsb', BitVec.getLsbD_extractLsb', BitVec.getLsbD_append, if_neg (show ¬ lo + i < n by omega), show lo - n + i = lo + i - n by omega]

theorem bit_low {m n : Nat} (x : BitVec m) (y : BitVec n) (i : Nat) (h : i < n) : (x ++ y).getLsbD i = y.getLsbD i := by
  rw [BitVec.getLsbD_append, if_pos h]

theorem bit_high {m n : Nat} (x : BitVec m) (y : BitVec n) (i : Nat) (h : n ≤ i) : (x ++ y).getLsbD i = x.getLsbD (i - n) := by
  rw [BitVec.getLsbD_append, if_neg (by omega)]

theorem bit_getLsbD (b : Bool) : (bit b).getLsbD 0 = b := by cases b <;> rfl

/-! ### The words -/

/-- The header of a word with its bits above. -/
theorem hdrOf_hdrBits (x : BitVec 80) (h : Hdr) (p : Bool) (c : Code) (hc : c = x ++ hdrBits h p) : hdrOf c = h ∧ c.getLsbD 15 = p := by
  obtain ⟨slot, gneg, gp, st, yh, rh⟩ := h
  subst hc
  unfold hdrOf hdrBits
  refine ⟨?_, ?_⟩
  · simp (disch := omega) only [extract_low, extract_high, bit_low, bit_high, Nat.reduceSub, BitVec.extractLsb'_eq_self, bit_getLsbD]
  · simp (disch := omega) only [bit_low, bit_high, Nat.reduceSub, bit_getLsbD]

/-- The fields of a word that is no pair word read back. -/
theorem rawOfCode_codeOfRaw (r : Raw) : (codeOfRaw r).getLsbD 15 = false ∧ rawOfCode (codeOfRaw r) = r := by
  obtain ⟨h, cls, minor, ty, dst, a, b, fs⟩ := r
  have hh := hdrOf_hdrBits (cls ++ minor ++ ty ++ dst ++ a ++ b ++ fs) h false _ rfl
  refine ⟨hh.2, ?_⟩
  unfold rawOfCode codeOfRaw
  rw [show hdrOf _ = h from hh.1]
  simp (disch := omega) only [extract_low, extract_high, Nat.reduceSub, BitVec.extractLsb'_eq_self]

/-- The fields of a half. -/
theorem halfBits_fields (r : RawHalf) : (⟨(halfBits r).extractLsb' 34 6, (halfBits r).extractLsb' 32 2, (halfBits r).extractLsb' 24 8, (halfBits r).extractLsb' 16 8,
    (halfBits r).extractLsb' 8 8, (halfBits r).extractLsb' 0 8⟩ : RawHalf) = r := by
  unfold halfBits
  simp (disch := omega) only [extract_low, extract_high, Nat.reduceSub, BitVec.extractLsb'_eq_self]

/-- The fields of a pair word read back. -/
theorem rawHalfOf_codeOfPair (h : Hdr) (x y : RawHalf) :
    hdrOf (codeOfPair h x y) = h ∧ (codeOfPair h x y).getLsbD 15 = true ∧ rawHalfOf (codeOfPair h x y) 16 = x ∧ rawHalfOf (codeOfPair h x y) 56 = y := by
  have hh := hdrOf_hdrBits (halfBits y ++ halfBits x) h true _ rfl
  refine ⟨hh.1, hh.2, ?_, ?_⟩
  · refine Eq.trans ?_ (halfBits_fields x)
    unfold rawHalfOf codeOfPair
    simp (disch := omega) only [extract_low, extract_high]
  · refine Eq.trans ?_ (halfBits_fields y)
    unfold rawHalfOf codeOfPair
    simp (disch := omega) only [extract_high]

end Sys2Proof.Machine
end

