-- ==== Sys2Proof/Laws/Memory.lean ====
section
/-!
SUPPORT. Every operation on memory keeps its one canonical form, and operations on groups and crews leave memory alone.

Memory changes in four operations alone: settling the head of the coherence order, a module reset, and the loss of what lies above CAP_LIVE after a sweep.
-/

namespace Sys2Proof.Machine

/-! ### Settling and storing -/

theorem foldDrained_wf (keep : Drained → List Drained → Bool) (l : List Drained) (m : Memory) (h : m.wf = true) : (foldDrained keep m l).1.wf = true := by
  induction l generalizing m with
  | nil => exact h
  | cons d t ih =>
    unfold foldDrained
    split_ifs
    · exact ih _ (Memory.wf_setAll _ _ h)
    · exact h

/-- Settling keeps the canonical form. -/
theorem settleMem_ok {s : State} (h : MemOk s) : MemOk s.settleMem := by
  unfold State.settleMem
  split_ifs
  · exact h
  · exact foldDrained_wf _ _ _ h

/-- A store that joins the coherence order keeps the canonical form. -/
theorem append_ok {s : State} (w : Agent) (po level : Nat) (cells : List (Nat × Byte)) (rels : List (Nat × List Seen)) (h : MemOk s) :
    MemOk (s.append w po level cells rels) := by
  unfold State.append
  split_ifs
  · exact h
  · exact settleMem_ok h

/-- A change of one group leaves memory alone. -/
@[simp] theorem modGroup_mem (s : State) (uid i : Nat) (f : Group → Group) : (s.modGroup uid i f).mem = s.mem := rfl

/-- A change of one crew leaves memory alone. -/
@[simp] theorem modCrew_mem (s : State) (uid : Nat) (f : Crew → Crew) : (s.modCrew uid f).mem = s.mem := rfl

/-- A byte that takes effect in a register leaves memory alone. -/
theorem pokeReg_mem (s : State) (p : Place) (b : Byte) : (s.pokeReg p b).mem = s.mem := by
  unfold State.pokeReg
  split
  · rfl
  · rw [modGroup_mem]
    unfold State.keepOld
    dsimp only
    split_ifs <;> rfl

/-- Storing bytes at a place keeps the canonical form. -/
theorem storeAt_ok {s : State} (w : Agent) (po level : Nat) (p : Place) (bytes : List Byte) (rels : List (Nat × List Seen)) (h : MemOk s) :
    MemOk (s.storeAt w po level p bytes rels) := by
  unfold State.storeAt
  split
  · exact append_ok _ _ _ _ _ h
  · generalize List.range bytes.length = l
    induction l generalizing s with
    | nil => exact h
    | cons i t ih => exact ih (by unfold MemOk at h ⊢; rw [pokeReg_mem]; exact h)

/-- Waking latches leaves memory alone. -/
theorem wake_mem (s : State) (keys : List Nat) : (s.wake keys).mem = s.mem := by
  unfold State.wake
  split_ifs <;> rfl

/-- A store with its wakes keeps the canonical form. -/
theorem put_ok {s : State} (w : Agent) (po level : Nat) (p : Place) (bytes : List Byte) (rels : List (Nat × List Seen)) (h : MemOk s) :
    MemOk (s.put w po level p bytes rels) := by
  have h1 := storeAt_ok w po level p bytes rels h
  unfold State.put MemOk at *
  dsimp only
  split_ifs
  · rw [wake_mem]; exact h1
  · exact h1

/-- Torn stores leave memory alone. -/
theorem tearStores_mem (s : State) (k bits : Nat) : (s.tearStores k bits).mem = s.mem := by
  unfold State.tearStores
  split_ifs <;> rfl

/-- An update of a transaction barrier keeps the canonical form. -/
theorem tbUpdate_ok {s : State} (w : Agent) (po k : Nat) (u : TbUp) (rels : List (Nat × List Seen)) (h : MemOk s) : MemOk (s.tbUpdate w po k u rels) := by
  unfold State.tbUpdate
  simp only [MemOk, tearStores_mem]
  exact put_ok w po 5 (.mem k) _ _ h

/-- A store by the device keeps the canonical form. -/
theorem storeAll_ok {s : State} (k : Nat) (bytes : List Byte) (h : MemOk s) : MemOk (s.storeAll k bytes) := by
  unfold State.storeAll MemOk
  rw [wake_mem]
  exact storeAt_ok _ _ _ _ _ _ h

/-! ### Reset and loss -/

/-- Memory after a module reset is canonical whatever it was before. -/
theorem moduleReset_ok (s : State) : MemOk s.moduleReset := Memory.wf_setAll _ _ Memory.wf_nil

/-- The loss of what lies above CAP_LIVE keeps the canonical form. -/
theorem loseAbove_ok {s : State} (g : Nat) (h : MemOk s) : MemOk (s.loseAbove g) :=
  Memory.wf_setAll _ _ (smWf_filter _ s.mem (fun k => !(k % 8 == 0 && decide (g ≤ granule (k / 8)))) h)

/-- Reset memory is canonical. -/
theorem reset_ok : MemOk State.reset := Memory.wf_nil

/-! ### Traps -/

/-- A fatal fault leaves memory alone. -/
theorem fatal_mem (s : State) (uid : Nat) (cause : BitVec 8) : (s.fatal uid cause).mem = s.mem := by
  unfold State.fatal
  split <;> rfl

end Sys2Proof.Machine
end

