-- ==== Sys2Proof/Laws/PerInstr.lean ====
section
/-!
SUPPORT. One lemma per constructor of Instr for the family Encoding: what the encoder writes for it.

Statement says of an instruction: an event has no word; the fields of a word, read where R159, R163 and R169 place them, are those of the instruction, and PAIR says its form.
-/

namespace Sys2Proof.Laws.Encoding

open Sys2Proof.Machine

/-- What the encoder writes for an instruction. -/
def Statement (i : Instr) : Prop :=
  match i with
  | .pair h x y => ∃ c, encode (.pair h x y) = some c ∧ c.getLsbD 15 = true ∧ hdrOf c = h ∧ rawHalfOf c 16 = rawHalf1 x ∧ rawHalfOf c 56 = rawHalf2 y
  | i => match i.word? with
    | some (o, w) => ∃ c, encode i = some c ∧ c.getLsbD 15 = false ∧ rawOfCode c = rawOf o w
    | none => encode i = none

/-- A word that is no pair word. -/
theorem of_word (r : Raw) : ∃ c, some (codeOfRaw r) = some c ∧ c.getLsbD 15 = false ∧ rawOfCode c = r :=
  ⟨_, rfl, (rawOfCode_codeOfRaw r).1, (rawOfCode_codeOfRaw r).2⟩

theorem issueChoice (core pipe : Nat) : Statement (.issueChoice core pipe) := rfl
theorem resultLand (g : GRef) : Statement (.resultLand g) := rfl
theorem stateVote (g : GRef) : Statement (.stateVote g) := rfl
theorem splitGroupCycle (g : GRef) : Statement (.splitGroupCycle g) := rfl
theorem stateEntryCountLimit (m : Member) : Statement (.stateEntryCountLimit m) := rfl
theorem codeSegmentDeliver (m : Member) : Statement (.codeSegmentDeliver m) := rfl
theorem perform (g : GRef) (seq lane : Nat) : Statement (.perform g seq lane) := rfl
theorem drain (g : GRef) (seq lane : Nat) : Statement (.drain g seq lane) := rfl
theorem propagate (id : Nat) : Statement (.propagate id) := rfl
theorem mapPointPass (g : GRef) (seq lane : Nat) : Statement (.mapPointPass g seq lane) := rfl
theorem replay (g : GRef) (seq : Nat) : Statement (.replay g seq) := rfl
theorem copyAccept (core : Nat) : Statement (.copyAccept core) := rfl
theorem kickReadComplete (crew : Nat) : Statement (.kickReadComplete crew) := rfl
theorem copyLineArrive (core slot off len : Nat) : Statement (.copyLineArrive core slot off len) := rfl
theorem matrixOpStart (core : Nat) : Statement (.matrixOpStart core) := rfl
theorem matrixOpComplete (core : Nat) : Statement (.matrixOpComplete core) := rfl
theorem berylOpComplete (core : Nat) : Statement (.berylOpComplete core) := rfl
theorem racqGrant (core : Nat) : Statement (.racqGrant core) := rfl
theorem barComplete (crew n : Nat) : Statement (.barComplete crew n) := rfl
theorem tbwaitEnd (m : Member) : Statement (.tbwaitEnd m) := rfl
theorem waitaEnd (m : Member) : Statement (.waitaEnd m) := rfl
theorem twaitEnd (m : Member) : Statement (.twaitEnd m) := rfl
theorem mwaitWake (m : Member) : Statement (.mwaitWake m) := rfl
theorem mwaitTimeout (m : Member) : Statement (.mwaitTimeout m) := rfl
theorem xredHop (rid blk : Nat) (remote : BitVec 264) : Statement (.xredHop rid blk remote) := rfl
theorem preemptRaise (crew : Nat) : Statement (.preemptRaise crew) := rfl
theorem graceExpiry (crew : Nat) : Statement (.graceExpiry crew) := rfl
theorem crewFlip (crew : Nat) : Statement (.crewFlip crew) := rfl
theorem shadowDrain (core crew : Nat) : Statement (.shadowDrain core crew) := rfl
theorem crewRestore (crew core : Nat) : Statement (.crewRestore crew core) := rfl
theorem taskEnter (src : PostSrc) : Statement (.taskEnter src) := rfl
theorem placementDecision (part core : Nat) : Statement (.placementDecision part core) := rfl
theorem crewRetire (crew : Nat) : Statement (.crewRetire crew) := rfl
theorem queueRecordRead (fn q img : Nat) : Statement (.queueRecordRead fn q img) := rfl
theorem kill : Statement .kill := rfl
theorem pageWalk (r : WalkReq) (useCache contigFirst : Bool) : Statement (.pageWalk r useCache contigFirst) := rfl
theorem faqRecordPost : Statement .faqRecordPost := rfl
theorem tlbFlush (second : Bool) (unit idx : Nat) : Statement (.tlbFlush second unit idx) := rfl
theorem shootdownComplete : Statement .shootdownComplete := rfl
theorem tumblerGranuleMove : Statement .tumblerGranuleMove := rfl
theorem stackFreeze (k : Nat) (temp : BitVec 8) : Statement (.stackFreeze k temp) := rfl
theorem stackResume (k : Nat) (temp : BitVec 8) : Statement (.stackResume k temp) := rfl
theorem freezeTimeout (k : Nat) : Statement (.freezeTimeout k) := rfl
theorem refreshInterrupt (k : Nat) : Statement (.refreshInterrupt k) := rfl
theorem errorDetect (unit : BitVec 4) (unc : Bool) (place : BitVec 8) (loc : BitVec 28) (who : ErrWho) : Statement (.errorDetect unit unc place loc who) := rfl
theorem selfTestComplete (entry : Nat) (pass : Bool) : Statement (.selfTestComplete entry pass) := rfl
theorem spareRowMap (core : Nat) : Statement (.spareRowMap core) := rfl
theorem monitorSample (unit : Nat) (v : BitVec 32) : Statement (.monitorSample unit v) := rfl
theorem clockStepDown (die : Nat) (temp : BitVec 8) (power : BitVec 16) : Statement (.clockStepDown die temp power) := rfl
theorem clockStepUp (die : Nat) (temp : BitVec 8) (power : BitVec 16) : Statement (.clockStepUp die temp power) := rfl
theorem thermalShutdown (temp : BitVec 8) : Statement (.thermalShutdown temp) := rfl
theorem powerGate (b : PowerBlock) : Statement (.powerGate b) := rfl
theorem powerWake (b : PowerBlock) : Statement (.powerWake b) := rfl
theorem flitRetry (port : Nat) : Statement (.flitRetry port) := rfl
theorem flitRetryLimit (port : Nat) : Statement (.flitRetryLimit port) := rfl
theorem portUp (port : Nat) (peer : BitVec 8) : Statement (.portUp port peer) := rfl
theorem portDown (port : Nat) : Statement (.portDown port) := rfl
theorem peerReset (module : BitVec 8) : Statement (.peerReset module) := rfl
theorem moduleReset (boot : BootTrial) : Statement (.moduleReset boot) := rfl
theorem functionLevelReset (fn : Nat) : Statement (.functionLevelReset fn) := rfl
theorem registerWrite (fn off : Nat) (d : RegData) : Statement (.registerWrite fn off d) := rfl
theorem qTailWrite (fn q : Nat) (v : Word) : Statement (.qTailWrite fn q v) := rfl
theorem qCfgWrite (fn q : Nat) (v : Word) : Statement (.qCfgWrite fn q v) := rfl
theorem devPartrootWrite (part : Nat) (v : Word) : Statement (.devPartrootWrite part v) := rfl
theorem kwyRefresh : Statement .kwyRefresh := rfl
theorem kwyKill : Statement .kwyKill := rfl
theorem kwyDrain : Statement .kwyDrain := rfl
theorem kwyEndDrain : Statement .kwyEndDrain := rfl
theorem mapShootdown (part : BitVec 5) : Statement (.mapShootdown part) := rfl
theorem mapHarvest (part : BitVec 5) : Statement (.mapHarvest part) := rfl
theorem faqRespResolved (token : BitVec 32) : Statement (.faqRespResolved token) := rfl
theorem faqRespDeclined (token : BitVec 32) : Statement (.faqRespDeclined token) := rfl
theorem capLiveWrite (v : Word) : Statement (.capLiveWrite v) := rfl
theorem tmbRetire (stack : BitVec 4) : Statement (.tmbRetire stack) := rfl
theorem mboxReadEntry (arg : BitVec 16) : Statement (.mboxReadEntry arg) := rfl
theorem mboxAppend : Statement .mboxAppend := rfl
theorem mboxReadCount : Statement .mboxReadCount := rfl
theorem secReportRequest : Statement .secReportRequest := rfl
theorem secReportDone : Statement .secReportDone := rfl
theorem secNonceWrite (i : Nat) (v : Word) : Statement (.secNonceWrite i v) := rfl
theorem monCtlWrite (unit : Nat) (v : Word) : Statement (.monCtlWrite unit v) := rfl
theorem br (w : Body) : Statement (.br w) := of_word _
theorem brc (w : Body) : Statement (.brc w) := of_word _
theorem brx (w : Body) : Statement (.brx w) := of_word _
theorem call (w : Body) : Statement (.call w) := of_word _
theorem callx (w : Body) : Statement (.callx w) := of_word _
theorem ret (w : Body) : Statement (.ret w) := of_word _
theorem exit (w : Body) : Statement (.exit w) := of_word _
theorem yield (w : Body) : Statement (.yield w) := of_word _
theorem nop (w : Body) : Statement (.nop w) := of_word _
theorem bkpt (w : Body) : Statement (.bkpt w) := of_word _
theorem trap (w : Body) : Statement (.trap w) := of_word _
theorem tret (w : Body) : Statement (.tret w) := of_word _
theorem pmdone (w : Body) : Statement (.pmdone w) := of_word _
theorem srd (w : Body) : Statement (.srd w) := of_word _
theorem swr (w : Body) : Statement (.swr w) := of_word _
theorem racq (w : Body) : Statement (.racq w) := of_word _
theorem racqTry (w : Body) : Statement (.racqTry w) := of_word _
theorem rrel (w : Body) : Statement (.rrel w) := of_word _
theorem gang (w : Body) : Statement (.gang w) := of_word _
theorem brrd (w : Body) : Statement (.brrd w) := of_word _
theorem brwr (w : Body) : Statement (.brwr w) := of_word _
theorem vote (w : Body) : Statement (.vote w) := of_word _
theorem splitq (w : Body) : Statement (.splitq w) := of_word _
theorem pand (w : Body) : Statement (.pand w) := of_word _
theorem por (w : Body) : Statement (.por w) := of_word _
theorem pxor (w : Body) : Statement (.pxor w) := of_word _
theorem pnot (w : Body) : Statement (.pnot w) := of_word _
theorem iadd (w : Body) : Statement (.iadd w) := of_word _
theorem isub (w : Body) : Statement (.isub w) := of_word _
theorem iadds (w : Body) : Statement (.iadds w) := of_word _
theorem isubs (w : Body) : Statement (.isubs w) := of_word _
theorem ineg (w : Body) : Statement (.ineg w) := of_word _
theorem iabs (w : Body) : Statement (.iabs w) := of_word _
theorem imin (w : Body) : Statement (.imin w) := of_word _
theorem imax (w : Body) : Statement (.imax w) := of_word _
theorem iclamp (w : Body) : Statement (.iclamp w) := of_word _
theorem isad (w : Body) : Statement (.isad w) := of_word _
theorem imul (w : Body) : Statement (.imul w) := of_word _
theorem imulh (w : Body) : Statement (.imulh w) := of_word _
theorem imad (w : Body) : Statement (.imad w) := of_word _
theorem idiv (w : Body) : Statement (.idiv w) := of_word _
theorem irem (w : Body) : Statement (.irem w) := of_word _
theorem and (w : Body) : Statement (.and w) := of_word _
theorem or (w : Body) : Statement (.or w) := of_word _
theorem xor (w : Body) : Statement (.xor w) := of_word _
theorem andn (w : Body) : Statement (.andn w) := of_word _
theorem not (w : Body) : Statement (.not w) := of_word _
theorem tern (w : Body) : Statement (.tern w) := of_word _
theorem shl (w : Body) : Statement (.shl w) := of_word _
theorem shr (w : Body) : Statement (.shr w) := of_word _
theorem sar (w : Body) : Statement (.sar w) := of_word _
theorem rol (w : Body) : Statement (.rol w) := of_word _
theorem ror (w : Body) : Statement (.ror w) := of_word _
theorem fsh (w : Body) : Statement (.fsh w) := of_word _
theorem popc (w : Body) : Statement (.popc w) := of_word _
theorem clz (w : Body) : Statement (.clz w) := of_word _
theorem ctz (w : Body) : Statement (.ctz w) := of_word _
theorem brev (w : Body) : Statement (.brev w) := of_word _
theorem bfe (w : Body) : Statement (.bfe w) := of_word _
theorem bfi (w : Body) : Statement (.bfi w) := of_word _
theorem icmp (w : Body) : Statement (.icmp w) := of_word _
theorem sel (w : Body) : Statement (.sel w) := of_word _
theorem mov (w : Body) : Statement (.mov w) := of_word _
theorem movi (w : Body) : Statement (.movi w) := of_word _
theorem iext (w : Body) : Statement (.iext w) := of_word _
theorem inarrow (w : Body) : Statement (.inarrow w) := of_word _
theorem pack (w : Body) : Statement (.pack w) := of_word _
theorem unpack (w : Body) : Statement (.unpack w) := of_word _
theorem shfl (w : Body) : Statement (.shfl w) := of_word _
theorem bcast (w : Body) : Statement (.bcast w) := of_word _
theorem lscan (w : Body) : Statement (.lscan w) := of_word _
theorem lred (w : Body) : Statement (.lred w) := of_word _
theorem rgath (w : Body) : Statement (.rgath w) := of_word _
theorem compact (w : Body) : Statement (.compact w) := of_word _
theorem fadd (w : Body) : Statement (.fadd w) := of_word _
theorem fsub (w : Body) : Statement (.fsub w) := of_word _
theorem fmul (w : Body) : Statement (.fmul w) := of_word _
theorem ffma (w : Body) : Statement (.ffma w) := of_word _
theorem fmin (w : Body) : Statement (.fmin w) := of_word _
theorem fmax (w : Body) : Statement (.fmax w) := of_word _
theorem fcmp (w : Body) : Statement (.fcmp w) := of_word _
theorem fclass (w : Body) : Statement (.fclass w) := of_word _
theorem fround (w : Body) : Statement (.fround w) := of_word _
theorem fscale (w : Body) : Statement (.fscale w) := of_word _
theorem frcp (w : Body) : Statement (.frcp w) := of_word _
theorem frsq (w : Body) : Statement (.frsq w) := of_word _
theorem fsqrt (w : Body) : Statement (.fsqrt w) := of_word _
theorem fdiv (w : Body) : Statement (.fdiv w) := of_word _
theorem fexp2 (w : Body) : Statement (.fexp2 w) := of_word _
theorem flog2 (w : Body) : Statement (.flog2 w) := of_word _
theorem fsin (w : Body) : Statement (.fsin w) := of_word _
theorem fcos (w : Body) : Statement (.fcos w) := of_word _
theorem ftanh (w : Body) : Statement (.ftanh w) := of_word _
theorem fsigm (w : Body) : Statement (.fsigm w) := of_word _
theorem fcvt (w : Body) : Statement (.fcvt w) := of_word _
theorem f2i (w : Body) : Statement (.f2i w) := of_word _
theorem i2f (w : Body) : Statement (.i2f w) := of_word _
theorem mxq (w : Body) : Statement (.mxq w) := of_word _
theorem mxdq (w : Body) : Statement (.mxdq w) := of_word _
theorem q4pk (w : Body) : Statement (.q4pk w) := of_word _
theorem q4upk (w : Body) : Statement (.q4upk w) := of_word _
theorem fdot (w : Body) : Statement (.fdot w) := of_word _
theorem pair (h : Hdr) (x : Half1) (y : Half2) : Statement (.pair h x y) := ⟨_, rfl, (rawHalfOf_codeOfPair h _ _).2.1, (rawHalfOf_codeOfPair h _ _).1, (rawHalfOf_codeOfPair h _ _).2.2⟩
theorem ld (w : Body) : Statement (.ld w) := of_word _
theorem st (w : Body) : Statement (.st w) := of_word _
theorem lds (w : Body) : Statement (.lds w) := of_word _
theorem pref (w : Body) : Statement (.pref w) := of_word _
theorem ldX (w : Body) : Statement (.ldX w) := of_word _
theorem stX (w : Body) : Statement (.stX w) := of_word _
theorem sld (w : Body) : Statement (.sld w) := of_word _
theorem sst (w : Body) : Statement (.sst w) := of_word _
theorem recld (w : Body) : Statement (.recld w) := of_word _
theorem atom (w : Body) : Statement (.atom w) := of_word _
theorem incb (w : Body) : Statement (.incb w) := of_word _
theorem celladd (w : Body) : Statement (.celladd w) := of_word _
theorem cellrd (w : Body) : Statement (.cellrd w) := of_word _
theorem cellclr (w : Body) : Statement (.cellclr w) := of_word _
theorem fence (w : Body) : Statement (.fence w) := of_word _
theorem codefence (w : Body) : Statement (.codefence w) := of_word _
theorem rfence (w : Body) : Statement (.rfence w) := of_word _
theorem opfence (w : Body) : Statement (.opfence w) := of_word _
theorem monitor (w : Body) : Statement (.monitor w) := of_word _
theorem mwait (w : Body) : Statement (.mwait w) := of_word _
theorem waita (w : Body) : Statement (.waita w) := of_word _
theorem acpy (w : Body) : Statement (.acpy w) := of_word _
theorem ckick (w : Body) : Statement (.ckick w) := of_word _
theorem tbinit (w : Body) : Statement (.tbinit w) := of_word _
theorem tbexpect (w : Body) : Statement (.tbexpect w) := of_word _
theorem tbarrive (w : Body) : Statement (.tbarrive w) := of_word _
theorem tbwait (w : Body) : Statement (.tbwait w) := of_word _
theorem tbtest (w : Body) : Statement (.tbtest w) := of_word _
theorem bar (w : Body) : Statement (.bar w) := of_word _
theorem spawn (w : Body) : Statement (.spawn w) := of_word _
theorem xred (w : Body) : Statement (.xred w) := of_word _
theorem obres (w : Body) : Statement (.obres w) := of_word _
theorem obrel (w : Body) : Statement (.obrel w) := of_word _
theorem obst (w : Body) : Statement (.obst w) := of_word _
theorem obld (w : Body) : Statement (.obld w) := of_word _
theorem wbld (w : Body) : Statement (.wbld w) := of_word _
theorem mma (w : Body) : Statement (.mma w) := of_word _
theorem mmas (w : Body) : Statement (.mmas w) := of_word _
theorem twait (w : Body) : Statement (.twait w) := of_word _
theorem amld (w : Body) : Statement (.amld w) := of_word _
theorem amst (w : Body) : Statement (.amst w) := of_word _
theorem amzero (w : Body) : Statement (.amzero w) := of_word _
theorem amcvt (w : Body) : Statement (.amcvt w) := of_word _
theorem prune48 (w : Body) : Statement (.prune48 w) := of_word _
theorem bmap (w : Body) : Statement (.bmap w) := of_word _
theorem spexp (w : Body) : Statement (.spexp w) := of_word _
theorem qinit (w : Body) : Statement (.qinit w) := of_word _
theorem qdeg (w : Body) : Statement (.qdeg w) := of_word _
theorem qmul (w : Body) : Statement (.qmul w) := of_word _
theorem qmuls (w : Body) : Statement (.qmuls w) := of_word _
theorem qdiv (w : Body) : Statement (.qdiv w) := of_word _
theorem qconv (w : Body) : Statement (.qconv w) := of_word _
theorem qrd (w : Body) : Statement (.qrd w) := of_word _
theorem qnorm (w : Body) : Statement (.qnorm w) := of_word _
theorem qsave (w : Body) : Statement (.qsave w) := of_word _
theorem qload (w : Body) : Statement (.qload w) := of_word _
theorem hostAccess (op : HostOp) : Statement (.hostAccess op) := rfl
theorem mailboxResponseReady : Statement .mailboxResponseReady := rfl

end Sys2Proof.Laws.Encoding
end

