-- ==== Sys2Proof/Laws/Run.lean ====
section
/-!
SUPPORT. The shared shapes of instruction words: a word of one entity, a memory word, a word that changes its group alone, and a word that traps.
-/

namespace Sys2Proof.Machine

/-- An entity-level word that starts does nothing without an active lane, and else what its meaning says. -/
theorem entityWord_starts {o : Op} {w : Body} {s t : State} {c : Ctx} (h : Starts (o.mk w) s t c) (k : State → Ctx → Out) :
    entityWord o w k s = if c.active w.hdr 0 = 0 then .next (t.issued c w.hdr) else k t c := begin_of_starts h _

/-- A memory word that starts: nothing without an active lane, a trap for the fault that is reported first, else an outstanding word (R239, R243). -/
theorem memWord_starts {o : Op} {w : Body} {s t : State} {c : Ctx} (h : Starts (o.mk w) s t c) :
    memWord o w s = if c.active w.hdr 0 = 0 then .next (t.issued c w.hdr)
      else match firstFault (t.laneAddrs c o w (c.active w.hdr 0)) with
        | some (cause, info) => t.trapWord c cause info
        | none => .next (t.addWord c w.hdr (t.memWordOf c o w (memOpOf o w) (c.active w.hdr 0) (t.laneAddrs c o w (c.active w.hdr 0)))) :=
  begin_of_starts h _

/-- A word whose whole effect is one change of its group runs as GroupRuns says. -/
theorem groupRuns_of_issued {i : Instr} {h : Hdr} {s t : State} {c : Ctx} {f : Group → Group} {g : Group} (hg : t.group? c.m.crew c.m.grp = some g)
    (hx : exec i s = .next ((t.modGroup c.m.crew c.m.grp f).issued c h)) : GroupRuns i h s t c f := by
  refine ⟨t.modGroup c.m.crew c.m.grp (fun g => (f g).issue c h), g, (f g).issue c h, ?_, onlyGroup_modGroup _ _ _ _, hg, ?_, issued_of_issue _ _ _, ?_⟩
  · rw [hx, State.issued_eq, State.modGroup_modGroup]
  · rw [State.group?_modGroup, hg]; rfl
  · unfold Group.issue Group.modEnt; split_ifs <;> rfl

/-- A word that changes nothing but its entity's place. -/
theorem groupRuns_id {i : Instr} {h : Hdr} {s t : State} {c : Ctx} {g : Group} (hg : t.group? c.m.crew c.m.grp = some g)
    (hx : exec i s = .next (t.issued c h)) : GroupRuns i h s t c (fun g => g) := by
  refine groupRuns_of_issued hg ?_
  rw [hx, State.issued_eq, State.issued_eq, State.modGroup_modGroup]

/-- A word that reports a fault traps. -/
theorem traps_of_trapWord {i : Instr} {s t : State} {c : Ctx} {cause : BitVec 8} {info : Word} (hx : exec i s = t.trapWord c cause info) :
    Traps i s t c cause info := hx

/-- A trap of a handler's lanes is fatal to its crew (R50). -/
theorem raise_handler (s : State) (m : Member) (cause : BitVec 8) (info : Word) (h : m.ent = handlerIdx) : s.raise m cause info = s.fatal m.crew 1 := by
  unfold State.raise; rw [if_pos h]

/-- A fatal fault stops its crew, asks for the kill of its domain, and changes nothing else (R347). -/
theorem fatal_spec (s : State) (uid : Nat) (cause : BitVec 8) (c : Crew) (h : s.crew? uid = some c) :
    (s.fatal uid cause).crew? uid = some { c with stopped := true } ∧ (s.fatal uid cause).kills = s.kills ++ [⟨c.region, c.part, cause, c.taskId⟩] ∧
      (∀ v, v ≠ uid → (s.fatal uid cause).crew? v = s.crew? v) ∧ ({ s.fatal uid cause with crews := s.crews, kills := s.kills } : State) = s := by
  unfold State.fatal
  rw [h]
  refine ⟨?_, rfl, fun v hv => ?_, rfl⟩
  · exact (State.crew?_modCrew_self s uid (fun c => { c with stopped := true }) (fun _ => rfl)).trans (by rw [h]; rfl)
  · exact State.crew?_modCrew_ne s uid v (fun c => { c with stopped := true }) (fun _ => rfl) hv

/-- A count takes its bytes from a barrier and checks (R111). -/
theorem tbar_count (b : TBar) (n : Nat) (h : b.rest = 0) : b.step (.count n) = ({ b with bytes := b.bytes - n } : TBar).check b := by
  simp [TBar.step, h]

end Sys2Proof.Machine
end

