-- ==== Sys2Proof/Tests/Slice0.lean ====
section
/-!
SUPPORT. Tests: ill-formed words, decodings written out from the spec's encodings, and for each statement a concrete state and operands that meet its hypotheses.
-/

namespace Sys2Proof.Tests

open Machine Claims

-- Each test is checked by the kernel, one after another: tests that wait for one another at once would each hold a thread of their own.
set_option Elab.async false

/-! ### A word that starts -/

/-- What the word of the issuing entity sees. -/
def ctxIn (i : Instr) (s : State) : Ctx :=
  match s.cur with
  | some cu => s.view ((s.ctxOf cu.m cu.cyc (instrHdr i).slot).getD default) i
  | none => default

/-- The state in which it takes effect. -/
def startIn (i : Instr) (s : State) : State :=
  match s.cur with
  | some cu => State.startOf s cu ((s.ctxOf cu.m cu.cyc (instrHdr i).slot).getD default)
  | none => s

/-- The hypotheses of Starts, as a test on an unchecked crew. -/
def startsB (i : Instr) (s : State) : Bool :=
  match s.cur with
  | some cu =>
    let c := ctxIn i s
    (s.ctxOf cu.m cu.cyc (instrHdr i).slot).isSome && !c.crew.check && (c.preMisuse i (startAct i c)).isNone &&
      (decide (startAct i c = 0) || (unheld c.g (instrUses i).vregs).isNone) && !({ s with cur := none } : State).heldBy c i
  | none => false

/-- What the test answers is Starts. -/
theorem starts_of {i : Instr} {s : State} (h : startsB i s = true) : Starts i s (startIn i s) (ctxIn i s) := by
  unfold startsB at h
  cases hc : s.cur with
  | none => simp [hc] at h
  | some cu =>
    simp only [hc, Bool.and_eq_true, Bool.or_eq_true, decide_eq_true_eq, Bool.not_eq_true', Option.isNone_iff_eq_none] at h
    obtain ⟨⟨⟨⟨h1, h2⟩, h3⟩, h4⟩, h5⟩ := h
    obtain ⟨c0, hc0⟩ := Option.isSome_iff_exists.mp h1
    refine ⟨⟨cu, c0, hc, hc0, ?_, ?_, Or.inl h2⟩, h3, h4, h5⟩
    · unfold ctxIn; simp only [hc, hc0, Option.getD_some]
    · unfold startIn; simp only [hc, hc0, Option.getD_some]

/-- A program of one word, whose group is about to run it. -/
def ready (i : Instr) : State :=
  { State.reset.withFetchWord 96 ((encode i).getD 0).toNat with issue := [], cur := some ⟨⟨0, 0, 0⟩, 0, 0, 0⟩ }

/-- The header of the tests: the shared slot, no guard, no STALL. -/
def hd : Hdr := ⟨7, false, 0, 0, false, false⟩

/-- A word in form R. -/
def wr (ty : BitVec 3) (d a b c : Opnd) (sub : BitVec 4 := 0) (imm8 : BitVec 8 := 0) (ssel : BitVec 3 := 0) (ty2 : BitVec 3 := 0) : Body :=
  ⟨hd, ty, d, a, b, .r ⟨c, ssel, ty2, imm8, sub, false, false, 0⟩⟩

/-- A word in form I. -/
def wi (ty : BitVec 3) (d a b : Opnd) (imm : BitVec 32) (sub : BitVec 2 := 0) : Body := ⟨hd, ty, d, a, b, .i ⟨imm, sub, false, false, 0⟩⟩

/-- A word in form M. -/
def wm (ty : BitVec 3) (d a b : Opnd) (subm : BitVec 3 := 0) : Body := ⟨hd, ty, d, a, b, .m ⟨subm, 0, 0, 0, 0, 0⟩⟩

/-- One body under several names. -/
def forms (l : List (Body → Instr)) (w : Body) : List Instr := l.map (fun f => f w)

/-- A well-formed word that starts in a state, with a further test on where it takes effect and what it sees. -/
def meets (i : Instr) (s : State) (p : State → Ctx → Bool) : Bool := i.wf && startsB i s && p (startIn i s) (ctxIn i s)

/-- Words that start with active lanes in the program of one word. -/
def allStart (l : List Instr) : Bool := l.all (fun i => meets i (ready i) (fun _ c => startAct i c != 0))

/-- The program of a word with its group changed. -/
def readyG (i : Instr) (f : Group → Group) : State := (ready i).modGroup 0 0 f

/-- The program of a word with its crew changed. -/
def readyC (i : Instr) (f : Crew → Crew) : State := (ready i).modCrew 0 f

/-! ### Integer words -/

theorem witness_AddGroupResults : allStart (forms [.iadd, .isub, .iadds, .isubs, .imin, .imax] (wr 2 (.v 5) (.v 1) (.v 2) (.v 0)) ++
    [.ineg (wr 0 (.s 5) (.s 1) (.v 0) (.v 0)), .iabs (wr 3 (.v 5) (.v 1) (.v 0) (.v 0)), .iclamp (wr 1 (.v 5) (.v 1) (.v 2) (.v 3)),
      .isad (wr 1 (.v 5) (.v 1) (.v 2) (.v 3)), .iadd (wi 3 (.s 5) (.s 1) .imm 7)]) = true := by decide +kernel

theorem witness_MultiplyDivideResults : allStart (forms [.imul, .imulh, .idiv, .irem] (wr 2 (.v 5) (.v 1) (.v 2) (.v 0)) ++
    [.imad (wr 3 (.s 5) (.s 1) (.s 2) (.s 3))]) = true := by decide +kernel

theorem witness_LogicResults : allStart (forms [.and, .or, .xor, .andn] (wr 2 (.v 5) (.v 1) (.v 2) (.v 0)) ++
    [.not (wr 2 (.v 5) (.v 1) (.v 0) (.v 0)), .tern (wr 2 (.v 7) (.v 1) (.v 2) (.v 3) (imm8 := 0x96))]) = true := by decide +kernel

theorem witness_ShiftResults : allStart (forms [.shl, .shr, .sar, .rol, .ror] (wr 0 (.v 5) (.v 1) (.v 2) (.v 0)) ++
    [.fsh (wr 2 (.v 5) (.v 1) (.v 2) (.v 3) (sub := 1))]) = true := by decide +kernel

theorem witness_BitOperationResults : allStart (forms [.popc, .clz, .ctz, .brev] (wr 1 (.v 5) (.v 1) (.v 0) (.v 0)) ++
    [.bfe (wr 2 (.v 5) (.v 1) (.v 2) (.v 0)), .bfi (wr 2 (.v 5) (.v 1) (.v 2) (.v 3))]) = true := by decide +kernel

theorem witness_CompareSelectMoveResults : allStart [.icmp (wr 2 (.p 2) (.v 5) (.v 1) (.v 0) (sub := 5)), .sel (wr 3 (.v 5) (.v 1) (.v 2) (.p 1)),
    .mov (wr 0 (.v 5) (.v 1) (.v 0) (.v 0)), .movi (wi 3 (.v 5) (.v 1) .imm 0x80000000 (sub := 1))] = true := by decide +kernel

theorem witness_WidthChangeResults : allStart [.iext (wr 3 (.v 5) (.v 1) (.v 0) (.v 0) (sub := 1)), .inarrow (wr 2 (.v 5) (.v 1) (.v 0) (.v 0)),
    .pack (wr 0 (.v 5) (.v 1) (.v 2) (.v 0)), .unpack (wr 2 (.v 5) (.v 1) (.v 2) (.v 0) (sub := 1))] = true := by decide +kernel

/-! ### Predicates and words across lanes -/

theorem witness_PredicateLogicResults : allStart (forms [.pand, .por, .pxor] (wr 2 (.p 4) (.p 1) (.p 2) (.v 0)) ++
    [.pnot (wr 3 (.p 0) (.p 1) (.v 0) (.v 0))]) = true := by decide +kernel

theorem witness_ShuffleResults : allStart [.shfl (wr 2 (.v 5) (.v 1) (.v 2) (.v 0)), .shfl (wr 2 (.v 5) (.v 1) (.v 0) (.v 0) (sub := 3) (imm8 := 63) (ssel := 1)),
    .bcast (wr 3 (.v 5) (.v 1) (.v 0) (.v 0) (imm8 := 63))] = true := by decide +kernel

theorem witness_ScanResults : allStart [.lscan (wr 2 (.v 5) (.v 1) (.v 0) (.v 0) (imm8 := 1)), .lred (wr 3 (.v 5) (.v 1) (.v 0) (.v 0) (sub := 9) (ty2 := 3))] = true := by
  decide +kernel

theorem witness_GatherCompactResults :
    meets (.rgath (wr 2 (.v 5) (.v 1) (.v 2) (.v 0))) (ready (.rgath (wr 2 (.v 5) (.v 1) (.v 2) (.v 0)))) (fun _ c => decide (c.g.nblk = 16)) = true ∧
    meets (.rgath (wr 2 (.v 5) (.v 255) (.v 2) (.v 0))) (readyG (.rgath (wr 2 (.v 5) (.v 255) (.v 2) (.v 0))) (fun g => g.setV 2 0 1))
      (fun _ c => c.exec hd 32 0 0 && decide (255 < 255 + getSub 32 0 (c.val (.v 2) 0 0))) = true ∧
    allStart [.compact (wr 2 (.v 5) (.v 1) (.p 2) (.v 0))] = true := by decide +kernel

/-! ### System words -/

theorem witness_SystemReadResults : allStart [.srd (wr 0 (.v 5) (.sys .clock) (.v 0) (.v 0)), .srd (wr 0 (.s 5) (.sys .taskid) (.v 0) (.v 0)),
    .brrd (wr 0 (.v 5) (.b 15) (.v 0) (.v 0) (ssel := 3)), .brrd (wr 0 (.s 5) (.b 0) (.v 0) (.v 0))] = true := by decide +kernel

theorem witness_VoteAndSplitQueryResults : allStart [.vote (wr 0 (.p 5) (.p 1) (.v 0) (.v 0) (sub := 1)), .vote (wr 0 (.s 5) (.p 1) (.v 0) (.v 0) (sub := 2)),
    .splitq (wr 0 (.s 5) (.v 0) (.v 0) (.v 0) (sub := 4))] = true := by decide +kernel

theorem witness_SystemWriteResults : allStart [.swr (wr 0 (.sys .flags) (.v 1) (.v 0) (.v 0)), .swr (wi 0 (.sys .prio) .imm (.v 0) 9),
    .brwr (wr 0 (.b 1) (.s 5) (.v 0) (.v 0) (ssel := 3))] = true := by decide +kernel

/-- RACQ of n blocks. -/
def racqW (n : BitVec 32) : Body := wi 0 (.v 0) .imm (.v 0) n

/-- RACQ.try of n blocks. -/
def racqT (n : BitVec 32) : Body := wi 0 (.p 3) .imm (.v 0) n (sub := 1)

/-- A full pool: a group with three blocks beside eight of sixteen. -/
def fullPool (i : Instr) : State := readyC i (fun c => { c with groups := c.groups.map (fun g => { g with nblk := 3 }) ++ List.replicate 8 (c.groups[0]?.getD default) })

/-- Do the granules suffice for n blocks, with no request before? -/
def fitsB (n : Nat) (t : State) (c : Ctx) : Bool :=
  decide ((n - c.g.nblk) * (c.crew.width / 8) ≤ 1024 - t.granules c.crew.core) && (t.racqWaits c.crew.core).all (fun r => decide (r.2.2.2 < t.prio c.crew c.g))

theorem witness_RegisterBlockResults :
    allStart [.racq (racqW 16), .racqTry (racqT 16), .rrel (racqW 0), .rrel (racqW 16), .racq (racqW 17), .racqTry (racqT 17), .rrel (racqW 17)] = true ∧
    meets (.racq (racqW 16)) (readyG (.racq (racqW 16)) (fun g => { g with nblk := 3 })) (fun t c => decide (c.g.nblk < 16) && fitsB 16 t c) = true ∧
    meets (.racq (racqW 16)) (fullPool (.racq (racqW 16))) (fun t c => decide (c.g.nblk < 16) && !fitsB 16 t c) = true ∧
    meets (.racqTry (racqT 16)) (fullPool (.racqTry (racqT 16))) (fun t c => decide (c.g.nblk < 16) && !fitsB 16 t c) = true := by decide +kernel

/-- A crew of two groups. -/
def twoGroups (i : Instr) : State := readyC i (fun c => { c with groups := c.groups ++ c.groups })

theorem witness_GangResults :
    meets (.gang (wi 0 (.v 0) .imm (.v 0) 0x02000010)) (twoGroups (.gang (wi 0 (.v 0) .imm (.v 0) 0x02000010)))
      (fun _ c => decide (c.uval (wi 0 (.v 0) .imm (.v 0) 0x02000010) .imm = 0x02000010 ∧ c.m.grp = 0 ∧ c.crew.groups.length = 2)) = true ∧
    allStart [.gang (wi 0 (.v 0) .imm (.v 0) 0), .gang (wi 0 (.v 0) .imm (.v 0) 0x01000000)] = true := by decide +kernel

/-! ### Control words -/

/-- The program of a word whose lanes have executed a call in this state. -/
def afterCall (i : Instr) : State := readyG i (fun g => { g with lanes := g.lanes.map (fun l => { l with called := true }) })

/-- No lane has executed a call. -/
def mayB (c : Ctx) : Bool := c.g.lanes.all (fun l => !l.called)

/-- A word of form I that names block 0. -/
def toBlock0 : Body := wi 0 (.v 0) .imm (.v 0) 0

theorem witness_BranchResults :
    ([Instr.br toBlock0, .brc (wi 2 (.v 0) .imm (.v 1) 0 (sub := 3)), .brx (wr 0 (.v 0) (.v 1) (.v 0) (.v 0)), .exit (wr 0 (.v 0) (.v 0) (.v 0) (.v 0))].all
      (fun i => meets i (ready i) (fun t c => mayB c && (t.img c).inUnit c.st 0 && decide (c.val (.v 1) 0 0 = 0)))) = true ∧
    meets (.brx (wr 0 (.v 0) (.v 1) (.v 0) (.v 0))) (readyG (.brx (wr 0 (.v 0) (.v 1) (.v 0) (.v 0))) (fun g => g.setV 1 63 7))
      (fun t c => mayB c && active (.brx (wr 0 (.v 0) (.v 1) (.v 0) (.v 0))) c 63 && decide (c.val (.v 1) 0 63 = 7) && !(t.img c).inUnit c.st 7) = true ∧
    ([Instr.br toBlock0, .call toBlock0, .ret (wr 0 (.v 0) (.v 0) (.v 0) (.v 0)), .exit (wr 0 (.v 0) (.v 0) (.v 0) (.v 0))].all
      (fun i => meets i (afterCall i) (fun _ c => active i c 0 && !mayB c))) = true := by decide +kernel

/-- The program of a word whose lanes hold return entries. -/
def withStack (i : Instr) (n : Nat) : State := readyG i (fun g => { g with lanes := g.lanes.map (fun l => { l with stack := List.replicate n 0 }) })

theorem witness_CallAndReturnResults :
    meets (.call toBlock0) (withStack (.call toBlock0) 15) (fun _ c => mayB c && c.g.lanes.all (fun l => decide (l.stack.length + l.spilled < 16 + c.crew.depth))) = true ∧
    meets (.callx (wr 0 (.v 0) (.v 1) (.v 0) (.v 0))) (ready (.callx (wr 0 (.v 0) (.v 1) (.v 0) (.v 0))))
      (fun t c => mayB c && (t.img c).callable 0 && decide (c.val (.v 1) 0 0 = 0)) = true ∧
    meets (.call toBlock0) (withStack (.call toBlock0) 16) (fun _ c => mayB c && active (.call toBlock0) c 0 && decide (16 + c.crew.depth ≤ (c.g.lane 0).stack.length)) = true ∧
    meets (.ret (wr 0 (.v 0) (.v 0) (.v 0) (.v 0))) (withStack (.ret (wr 0 (.v 0) (.v 0) (.v 0) (.v 0))) 1)
      (fun t c => mayB c && !stackEmpty c 0 && decide ((retPops t c 0).2 = none) && (t.img c).hasBlk 0) = true ∧
    meets (.ret (wr 0 (.v 0) (.v 0) (.v 0) (.v 0))) (ready (.ret (wr 0 (.v 0) (.v 0) (.v 0) (.v 0)))) (fun _ c => mayB c && stackEmpty c 0) = true := by decide +kernel

/-- A word of form R without operands. -/
def bare : Body := wr 0 (.v 0) (.v 0) (.v 0) (.v 0)

/-- A group of two splits. -/
def twoSplits (i : Instr) : State :=
  readyG i (fun g => { g with ents := g.ents.map (fun e => { e with lanes := 0xFFFFFFFF }) ++ g.ents.map (fun e => { e with idx := 1, lanes := 0xFFFFFFFF00000000 }) })

theorem witness_NopYieldResults :
    allStart [.nop bare, .pref (wm 2 (.v 0) (.v 1) (.v 0)), .yield bare] = true ∧
    meets (.yield bare) (twoSplits (.yield bare)) (fun _ c => c.g.isSplit && decide (c.m.ent ≠ handlerIdx) && startAct (.yield bare) c != 0) = true := by decide +kernel

/-- The program of a word in an image that declares every handler. -/
def handled (i : Instr) : State := { ready i with images := [{ probeImage with hands := List.replicate 5 0 }] }

/-- The premises of a trap that is delivered at once. -/
def atOnceB (s : State) : Bool :=
  match s.crew? 0, s.group? 0 0 with
  | some cr, some g => g.handler.isNone && g.traps.isEmpty && g.ents.all (fun e => !((e.wait.map Wait.inWord).getD false)) && (s.handlerEntry cr (handlerKind 0x18)).isSome &&
      (s.handlerEntry cr 2).isSome
  | _, _ => false

theorem witness_TrapDelivery : atOnceB (handled (.nop bare)) = true ∧ (0x18 : BitVec 8) ≠ causeBinding ∧ (0 : Nat) ≠ handlerIdx := by decide +kernel

/-- An instruction at the start of its word, with a test on what it sees. -/
def begins (i : Instr) (s : State) (p : State → Ctx → Bool) : Bool :=
  match s.cur with
  | some cu => i.wf && (encode i).isSome && (s.ctxOf cu.m cu.cyc (instrHdr i).slot).isSome && p { s with cur := none } (ctxIn i s)
  | none => false

/-- A word that reads V registers. -/
def addV : Instr := .iadd (wr 2 (.v 5) (.v 1) (.v 2) (.v 0))

/-- An outstanding word of a group. -/
def outstanding (seq : Nat) (op : MemOp) (dst : MDst) (accs : List Acc) : MemWord :=
  { seq := seq, ent := 0, st := 0, pos := 0, op := op, dst := dst, order := 0, scope := 0, cnt := none, lds := false, clob := [], lanes := 1, zero := []
    accs := accs, stat := if accs.any (·.virt) then .walking else .ready, blank := false }

/-- A checked crew whose V1 awaits a result. -/
def earlyRead (i : Instr) : State :=
  (readyG i (fun g => { g with pend := [⟨9, 0, 0, 0, BitVec.allOnes 64, [vKey 1], [.v 1 0 (BitVec.allOnes 64) 7], false⟩] })).modCrew 0 (fun c => { c with check := true })

/-- OBST of V1 at the offsets in V2, of a handle in S1 that is not held. -/
def obstEarly : Body := wr 3 (.v 0) (.s 1) (.v 2) (.v 1)

/-- MMA of int8 from V8 with its weights in S1. -/
def mma0 : Body := wr 0 (.k 2) (.v 8) (.s 1) (.v 0) (ty2 := 3)

/-- MMAS of the same with its bitmap in V40. -/
def mmas0 : Body := wr 0 (.k 2) (.v 8) (.s 1) (.v 40) (ty2 := 3)

/-- The program of a word whose weights are of no format that goes with int8. -/
def oddWeights (i : Instr) : State := readyG i (fun g => { g with s := [(1, BitVec.allOnes 64)] })

/-- The group's load of V1 awaits a verdict, and its crew is pre-empted. -/
def preempted (i : Instr) : State :=
  (readyG i (fun g => { g with mws := [{ outstanding 0 (.load false) (.v 1 false) [placeAcc 0 (.mem 5) 4 0 0] with stat := .asked 7 }] })).modCrew 0 (fun c => { c with preempt := some 5 })

theorem witness_WordStartChecks :
    ([Instr.brc (wi 2 (.v 0) .imm (.v 1) 0), .brx (wr 0 (.v 0) (.v 1) (.v 0) (.v 0)), .callx (wr 0 (.v 0) (.v 1) (.v 0) (.v 0))].all
      (fun i => begins i (afterCall i) (fun _ c => active i c 0 && (c.g.lane 0).called))) = true ∧
    begins (.obst (wr 3 (.v 0) (.s 1) (.v 2) (.v 3))) (ready (.obst (wr 3 (.v 0) (.s 1) (.v 2) (.v 3))))
      (fun _ c => startAct (.obst (wr 3 (.v 0) (.s 1) (.v 2) (.v 3))) c != 0 && (c.crew.resv? (c.val (.s 1) 0 0)).isNone) = true ∧
    begins (.mma mma0) (oddWeights (.mma mma0)) (fun _ c => startAct (.mma mma0) c != 0 && (c.mmaMisuse mma0 false).isSome) = true ∧
    begins (.mmas mmas0) (oddWeights (.mmas mmas0)) (fun _ c => startAct (.mmas mmas0) c != 0 && (c.mmaMisuse mmas0 true).isSome) = true ∧
    begins addV (readyG addV (fun g => { g with nblk := 0 })) (fun _ c => startAct addV c != 0 && (c.preMisuse addV (startAct addV c)).isNone &&
      (unheld c.g (instrUses addV).vregs).isSome) = true ∧
    begins addV (readyG addV (fun g => { g with mws := [outstanding 0 (.load false) (.v 1 false) [placeAcc 0 (.mem 5) 4 0 0]] }))
      (fun s c => (c.preMisuse addV (startAct addV c)).isNone && (unheld c.g (instrUses addV).vregs).isNone && s.heldBy c addV && !(s.longHeld c addV && s.preempting c.m.crew c.m.grp)) = true ∧
    begins addV (preempted addV) (fun s c => (c.preMisuse addV (startAct addV c)).isNone && (unheld c.g (instrUses addV).vregs).isNone && s.heldBy c addV &&
      s.longHeld c addV && s.preempting c.m.crew c.m.grp && c.m.ent != handlerIdx) = true ∧
    begins addV (earlyRead addV) (fun s c => (c.preMisuse addV (startAct addV c)).isNone && (unheld c.g (instrUses addV).vregs).isNone && !s.heldBy c addV && c.crew.check &&
      (stallInfo c ((((earlyRead addV).group? 0 0).getD default).land 0).pend (instrHdr addV) (instrUses addV) (startAct addV c)).isSome) = true ∧
    begins (.obst obstEarly) (earlyRead (.obst obstEarly)) (fun s c => (c.preMisuse (.obst obstEarly) (startAct (.obst obstEarly) c)).isSome &&
      (unheld c.g (instrUses (.obst obstEarly)).vregs).isNone && !s.heldBy c (.obst obstEarly) && c.crew.check &&
      (stallInfo c ((((earlyRead (.obst obstEarly)).group? 0 0).getD default).land 0).pend (instrHdr (.obst obstEarly)) (instrUses (.obst obstEarly))
        (startAct (.obst obstEarly) c)).isSome) = true := by decide +kernel

theorem witness_TrapWordsEnterHandler : [Instr.trap (wi 0 (.v 0) .imm (.v 0) 0x51), .bkpt bare].all (fun i =>
    meets i (handled i) (fun t c => atOnceB t && startAct i c != 0 && decide (c.m.ent ≠ handlerIdx))) = true := by decide +kernel

/-- The program of a word that a handler of a cause runs. -/
def inHandler (i : Instr) (cause : BitVec 8) : State :=
  { readyG i (fun g => { g with handler := some ⟨cause, none, { (g.ents[0]?.getD default) with idx := handlerIdx }, false, false⟩ }) with
    cur := some ⟨⟨0, 0, handlerIdx⟩, 0, 0, 0⟩ }

theorem witness_TrapReturnResults : allStart [.tret bare] = true ∧
    meets (.tret bare) (inHandler (.tret bare) 0x03) (fun _ c => decide (c.m.ent = handlerIdx) && startAct (.tret bare) c != 0 && c.g.traps.isEmpty && !c.g.retired &&
      c.crew.preempt.isNone && c.ent.lanes.getLsbD 0 && decide (0 < c.g.lanes.length) && (c.g.lane 0).valid && !(c.g.lane 0).marked &&
      c.g.ents.any (fun e => e.lanes.getLsbD 0)) = true := by decide +kernel

/-- The program of PMDONE in the handler of a PREEMPT with a deadline. -/
def pmdoneBy (d : Nat) : State := (inHandler (.pmdone bare) 0x01).modCrew 0 (fun c => { c with preempt := some d })

/-- May PMDONE run, the grace budget over or not? -/
def mayPmdone (over_ : Bool) (s : State) : Bool :=
  meets (.pmdone bare) s (fun t c => decide (c.m.ent = handlerIdx) && startAct (.pmdone bare) c != 0 &&
    (c.g.handler.map (fun h => decide (h.cause = 0x01) && !h.pmdone)).getD false && t.graceOver c.crew == over_)

theorem witness_PmdoneResults : allStart [.pmdone bare] = true ∧ mayPmdone false (pmdoneBy 5) = true ∧ mayPmdone true (pmdoneBy 0) = true := by decide +kernel

/-! ### Floating point and blocks -/

theorem witness_FloatResults : allStart (forms [.fadd, .fsub, .fmul, .fmin, .fmax] (wr 2 (.v 5) (.v 1) (.v 2) (.v 0)) ++
    [.ffma (wr 3 (.v 5) (.v 1) (.v 2) (.v 3)), .fclass (wr 0 (.v 5) (.v 1) (.v 0) (.v 0)), .fround (wr 1 (.v 5) (.v 1) (.v 0) (.v 0) (sub := 1)),
      .fscale (wr 2 (.v 5) (.v 1) (.v 2) (.v 0)), .fcmp (wr 2 (.p 3) (.v 1) (.v 2) (.v 0) (sub := 7))]) = true := by decide +kernel

/-- A word of one binary32 source. -/
def unaryF : Body := wr 2 (.v 5) (.v 1) (.v 0) (.v 0)

/-- The special functions with a value of V1 and a test on it: 3 or 0.75 without an exact result, 1 for FLOG2, and 131072 beyond the range of FSIN and FCOS. -/
def withV1 : List ((Body → Instr) × Word × (Bool → Nat → Int → Bool)) :=
  ([(Instr.frsq, Config.SpecialFn.frsq), (.flog2, .flog2), (.fsin, .fsin), (.fcos, .fcos), (.ftanh, .ftanh), (.fsigm, .fsigm)].map (fun e =>
    (e.1, 0x40400000, fun s m x => m != 0 && !s && (exactSpecial e.2 (fmtOf 2) s m x).isNone))) ++
  [(.fexp2, 0x3F400000, fun s m x => m != 0 && !s && (exactSpecial .fexp2 (fmtOf 2) s m x).isNone)] ++
  [(.flog2, 0x3F800000, fun _ m _ => m != 0), (.fsin, 0x48000000, fun _ m x => magLt 65536 0 m x), (.fcos, 0x48000000, fun _ m x => magLt 65536 0 m x)]

theorem witness_SpecialFunctionResults : allStart (forms [.frcp, .frsq, .fsqrt, .fexp2, .flog2, .fsin, .fcos, .ftanh, .fsigm] (wr 2 (.v 5) (.v 1) (.v 0) (.v 0)) ++
    [.fdiv (wr 3 (.v 5) (.v 1) (.v 2) (.v 0))]) = true ∧
    withV1.all (fun e => meets (e.1 unaryF) (readyG (e.1 unaryF) (fun g => g.setV 1 0 e.2.1)) (fun _ c => (c.exec hd 32 0 0 &&
      match numOf (fmtOf 2) (fsrcA unaryF c 0 0) with
      | .fin s m x => e.2.2 s m x
      | _ => false))) = true := by decide +kernel

theorem witness_ConversionResults : allStart [.fcvt (wr 0 (.v 5) (.v 1) (.v 0) (.v 0) (sub := 1) (ty2 := 2)), .f2i (wr 3 (.v 5) (.v 1) (.v 0) (.v 0) (sub := 1) (ty2 := 2)),
    .i2f (wr 2 (.v 5) (.v 1) (.v 0) (.v 0) (sub := 3) (ty2 := 0))] = true := by decide +kernel

theorem witness_BlockFormatResults : allStart (forms [.mxq, .mxdq] (wr 2 (.v 20) (.v 0) (.v 0) (.v 0) (sub := 1) (ssel := 7)) ++
    forms [.q4pk, .q4upk] (wr 1 (.v 48) (.v 40) (.v 0) (.v 0)) ++ [.fdot (wr 2 (.v 5) (.v 1) (.v 2) (.v 3) (ty2 := 1))]) = true := by decide +kernel

theorem witness_PairWordResults : allStart [.pair ⟨7, false, 0, 2, false, false⟩ ⟨.iadd, 2, 4, 1, 2, 0⟩ ⟨.ffma, 2, 9, 1, 2, 9⟩] = true := by decide +kernel

theorem witness_SparseHelperResults : allStart [.prune48 (wr 1 (.v 5) (.v 1) (.v 0) (.v 0) (sub := 3)), .bmap (wr 0 (.v 5) (.v 1) (.v 0) (.v 0) (imm8 := 4) (ssel := 1)),
    .spexp (wr 0 (.v 5) (.v 1) (.v 0) (.v 0))] = true := by decide +kernel

/-! ### Memory words -/

/-- A buffer record at virtual address 0x10000 with 1 MiB and further bits. -/
def bufAt (bits : Nat) : BufRec := BitVec.ofNat 256 (0x10000 + 0x100000 * 2 ^ 96 + bits)

/-- A record for accumulation cells. -/
def cellBits : Nat := 4 * 2 ^ 136 + 2 ^ 149

/-- The program of a word whose group holds a record in B0. -/
def withRec (i : Instr) (b : BufRec) : State := readyG i (fun g => { g with b := [(0, b)] })

/-- No address of a word faults. -/
def noFaultB (t : State) (c : Ctx) (o : Op) (w : Body) : Bool :=
  (addresses t c o w (startAct (o.mk w) c)).all (fun a => match a.2 with
    | .bad _ _ => false
    | _ => true)

/-- A memory word that issues with active lanes. -/
def issuesWith (o : Op) (w : Body) (b : BufRec) : Bool :=
  meets (o.mk w) (withRec (o.mk w) b) (fun t c => startAct (o.mk w) c != 0 && noFaultB t c o w)

theorem witness_MemoryWordsIssue :
    ([(Op.ld, wm 2 (.v 5) (.v 1) (.v 0)), (.ld, wm 4 (.v 5) (.v 1) (.v 0)), (.st, wm 2 (.v 0) (.v 1) (.v 2)), (.lds, wm 3 (.v 5) (.v 1) (.a 3)),
      (.ldX, wm 2 (.v 5) (.v 1) (.v 0) (subm := 1)), (.stX, wm 3 (.v 0) (.v 1) (.v 2)), (.sld, wm 3 (.s 5) (.s 1) (.v 0)), (.sst, wm 3 (.v 0) (.s 1) (.s 2)),
      (.recld, wm 0 (.v 0) (.s 1) (.v 0)), (.atom, wm 2 (.v 5) (.v 1) (.v 2) (subm := 7)), (.incb, wm 3 (.v 5) (.v 1) (.v 2))].all
        (fun e => issuesWith e.1 e.2 (bufAt 0))) = true ∧
    ([(Op.celladd, wm 4 (.v 0) (.v 1) (.v 2)), (.cellrd, wm 4 (.v 5) (.v 1) (.v 0) (subm := 2)), (.cellclr, wm 4 (.v 0) (.v 1) (.v 0))].all
        (fun e => issuesWith e.1 e.2 (bufAt cellBits))) = true ∧
    meets (.recld (wm 0 (.v 0) (.s 1) (.v 0))) (ready (.recld (wm 0 (.v 0) (.s 1) (.v 0)))) (fun t c => decide (t.laneAddr c .recld (wm 0 (.v 0) (.s 1) (.v 0)) 0 = .virt 0)) = true := by
  decide +kernel

/-- LD at the index in V1. -/
def ldW : Body := wm 2 (.v 5) (.v 1) (.v 0)

/-- LD.x at the offset in V1. -/
def ldxW : Body := wm 2 (.v 5) (.v 1) (.v 0)

/-- A word of form M with an immediate. -/
def wmi (ty : BitVec 3) (d a b : Opnd) (imm : BitVec 24) : Body := ⟨hd, ty, d, a, b, .m ⟨0, 0, 0, 0, imm, 0⟩⟩

/-- A word whose group holds a record in B0 and whose first lane forms an address. -/
def forms0 (o : Op) (w : Body) (b : BufRec) (p : LaneAddr → Bool) : Bool :=
  meets (o.mk w) ({ withRec (o.mk w) b with dev := { Dev.init with coreen := BitVec.allOnes 160 } } : State) (fun t c => startAct (o.mk w) c != 0 && p (t.laneAddr c o w 0))

/-- Is the address a fault of this cause? -/
def badWith (cause : BitVec 8) (a : LaneAddr) : Bool :=
  match a with
  | .bad c _ => c == cause
  | _ => false

/-- Is it a place on the chip? -/
def chipB (a : LaneAddr) : Bool :=
  match a with
  | .chip _ => true
  | _ => false

/-- A record of an on-chip window: the scratch of slot 0. -/
def chipRec : BufRec := BitVec.ofNat 256 (0x2000000 + 0x100000 * 2 ^ 96 + 2 ^ 150)

theorem witness_MemoryAddressesAndFaults :
    forms0 .ld ldW (bufAt 0) (fun a => decide (a = .virt 0x10000)) = true ∧
    forms0 .ld ldW (bufAt cellBits) (badWith 0x12) = true ∧
    forms0 .ld (wmi 2 (.v 5) (.v 1) (.v 0) 0xFFFFFF) (bufAt 0) (badWith 0x18) = true ∧
    forms0 .ld (wmi 2 (.v 5) (.v 1) (.v 0) 0x0FFFFD) (bufAt 0) (badWith 0x18) = true ∧
    forms0 .ld (wmi 2 (.v 5) (.v 1) (.v 0) 0x0FFFFC) (bufAt 0) (fun a => decide (a = .virt 0x10FFFC)) = true ∧
    forms0 .ld (wmi 2 (.v 5) (.v 1) (.v 0) 0xFFFFFF) (bufAt (2 ^ 148)) (fun a => decide (a = .drop)) = true ∧
    forms0 .ld (wmi 2 (.v 5) (.v 1) (.v 0) 2) (bufAt 0) (badWith 0x1A) = true ∧
    forms0 .ld ldW chipRec chipB = true ∧
    forms0 .ldX (wmi 2 (.v 5) (.v 1) (.v 0) 0xFFFC) 0 chipB = true ∧
    forms0 .ldX (wmi 2 (.v 5) (.v 1) (.v 0) 0xFFFE) 0 (badWith 0x1A) = true ∧
    startsB (.ld { ldW with hdr := ⟨7, true, 1, 0, false, false⟩ }) (withRec (.ld { ldW with hdr := ⟨7, true, 1, 0, false, false⟩ }) (bufAt 0)) = true := by decide +kernel

/-- MONITOR of the line that V1 addresses. -/
def monW (subm : BitVec 3) : Body := wm 3 (.p 2) (.v 1) (.v 0) (subm := subm)

/-- MONITOR clear. -/
def monClear : Body := wm 3 (.p 2) (.v 0) (.v 0) (subm := 2)

theorem witness_MonitorResults :
    meets (.monitor monClear) (ready (.monitor monClear)) (fun _ c => startAct (.monitor monClear) c != 0) = true ∧
    forms0 .monitor (monW 0) (bufAt 0) (fun a => decide (a = .virt 0x10000)) = true ∧
    forms0 .monitor (monW 1) (bufAt 0) (fun a => decide (a = .virt 0x10000)) = true ∧
    forms0 .monitor (monW 0) (BitVec.ofNat 256 (2 ^ 148)) (fun a => decide (a = .drop)) = true ∧
    forms0 .monitor (monW 1) chipRec chipB = true ∧
    forms0 .monitor (monW 0) 0 (badWith 0x18) = true := by decide +kernel

/-- MWAIT with a timeout in S1. -/
def mwaitW : Body := wr 0 (.s 5) (.s 1) (.v 0) (.v 0)

/-- MWAIT into another register. -/
def mwaitW6 : Body := wr 0 (.s 6) (.s 1) (.v 0) (.v 0)

/-- WAITA of A3 down to n. -/
def waitaW (n : BitVec 32) : Body := wi 0 (.v 0) (.a 3) .imm n

theorem witness_WaitWordResults :
    allStart [.mwait mwaitW, .waita (waitaW 0), .waita (waitaW 1023), .waita (waitaW 1024)] = true ∧
    meets (.mwait mwaitW) (readyG (.mwait mwaitW) (fun g => { g with monitors := [⟨0, 0, 0, none⟩], latch := some ⟨some 0, none, false⟩ }))
      (fun _ c => decide (c.g.monitors ≠ []) && c.g.latch.isSome) = true ∧
    meets (.mwait mwaitW) ((twoSplits (.mwait mwaitW)).modGroup 0 0 (fun g => { g with
        monitors := [⟨0, 0, 0, none⟩], latch := some ⟨some 0, none, false⟩, ents := g.ents.map (fun e => if e.idx = 1 then { e with wait := some (.mwait 0 5), code := [(encode (.mwait mwaitW6)).getD 0] } else e) }))
      (fun _ c => decide (c.g.monitors ≠ []) && c.g.latch.isSome && decide ((c.g.ents.map (·.idx)).Nodup) && c.g.ents.all (fun e => e.idx != handlerIdx) &&
        c.g.ents.any (fun e => decide (e.idx ≠ c.m.ent) && decide (e.wait = some (.mwait 0 5)) && decide ((e.code[e.pos]?).map decode = some (.ok (.mwait mwaitW6))))) = true ∧
    meets (.mwait mwaitW) (readyG (.mwait mwaitW) (fun g => { g with monitors := [⟨0, 0, 0, none⟩] })) (fun _ c => decide (c.g.monitors ≠ []) && c.g.latch.isNone) = true ∧
    meets (.waita (waitaW 1)) (readyG (.waita (waitaW 1)) (fun g => { g with a := [(3, 2)] })) (fun _ c => decide (1 < (c.g.getA 3).toNat)) = true := by decide +kernel

/-- The program of a word with a transaction barrier at scratch offset 0. -/
def withBar (i : Instr) (b : TBar) : State := (ready i).storeAll (scratchKey 0 0) (bytesOf 16 b.bits)

/-- A word on the barrier in that state, with a test on the barrier. -/
def onBar (i : Instr) (b : TBar) (p : TBar → Bool) : Bool :=
  meets i (withBar i b) (fun t c => startAct i c != 0 && decide (c.uval (wi 0 (.v 0) (.s 1) .imm 0) (.s 1) = 0) && p (t.tbar (scratchKey c.m.crew 0)))

/-- An operation on the barrier with an immediate. -/
def barW (n : BitVec 32) : Body := wi 0 (.v 0) (.s 1) .imm n

/-- TBTEST or TBWAIT of a phase. -/
def phaseW (n : BitVec 32) : Body := wi 0 (.s 5) (.s 1) .imm n

/-- Phase 3 with arrivals and bytes outstanding. -/
def barOf (arrive : Nat) (bytes : Int) (rest : Nat) : TBar := ⟨3, 4, arrive, bytes, false, 0, rest⟩

theorem witness_TransactionBarrierResults :
    allStart [.tbinit (barW 1), .tbinit (barW 0xFFFFF)] = true ∧
    onBar (.tbexpect (barW 0x40)) (barOf 0 0 0) (fun b => decide (b = barOf 0 0 0)) = true ∧
    onBar (.tbexpect (barW 0xFFFFFFC0)) (barOf 0 0x40 0) (fun b => decide (b = barOf 0 0x40 0)) = true ∧
    onBar (.tbexpect (barW 1)) (barOf 1 0x7FFFFFFF 0) (fun b => decide (b = barOf 1 0x7FFFFFFF 0)) = true ∧
    onBar (.tbexpect (barW 1)) (barOf 1 0 1) (fun b => decide (b.rest ≠ 0)) = true ∧
    onBar (.tbarrive (barW 0)) (barOf 2 0 0) (fun b => decide (b = barOf 2 0 0)) = true ∧
    onBar (.tbarrive (barW 0)) (barOf 1 0 0) (fun b => decide (b = barOf 1 0 0)) = true ∧
    onBar (.tbarrive (barW 0)) (barOf 0 0x40 0) (fun b => decide (b = barOf 0 0x40 0)) = true ∧
    onBar (.tbarrive (barW 1)) (barOf 1 0 1) (fun b => decide (b.rest ≠ 0)) = true ∧
    onBar (.tbtest (phaseW 15)) (barOf 1 0 0) (fun b => decide (b.phase = 3)) = true ∧
    onBar (.tbwait (phaseW 2)) (barOf 1 0 0) (fun b => decide (b.phase ≠ 2)) = true ∧
    onBar (.tbwait (phaseW 3)) (barOf 1 0 0) (fun b => decide (b.phase = 3) && !b.err) = true := by decide +kernel

theorem witness_FenceAndBarrierWords :
    allStart [.fence (wm 0 (.v 0) (.v 0) (.v 0) (subm := 2)), .codefence bare, .rfence bare, .opfence bare, .bar (wi 0 (.v 0) .imm (.v 0) 15), .bar (wi 0 (.v 0) .imm (.v 0) 16)] = true := by
  decide +kernel

/-! ### Words that hand work to an engine -/

/-- ACPY from B0 to B1 with its barrier in S1. -/
def acpyW : Body := wm 2 (.s 1) (.v 1) (.v 2)

/-- CKICK of n records. -/
def ckickW (n : BitVec 32) : Body := wi 0 (.v 0) (.s 1) .imm n

theorem witness_CopyWordsIssue :
    meets (.acpy acpyW) (readyG (.acpy acpyW) (fun g => { g with b := [(0, bufAt 0), (1, bufAt 0)] })) (fun t c => startAct (.acpy acpyW) c != 0 &&
      (lanesOf (startAct (.acpy acpyW) c)).all (fun l => decide (t.acpyLane c acpyW l = (.virt 0x10000, .virt 0x10000))) && (t.core c.crew.core).copies.isEmpty) = true ∧
    allStart [.ckick (ckickW 1), .ckick (ckickW 64), .ckick (ckickW 0), .ckick (ckickW 65)] = true := by decide +kernel

/-- The program of a word with a record in host memory at 0x2000, the page mapped, its address in S1, and a region of at most n tasks. -/
def withRecord (i : Instr) (raw bytes n : Nat) : State :=
  let s := (readyG i (fun g => { g with s := [(1, 0x2000)] })).storeAll (hostKey 0x2000) (bytesOf bytes raw)
  { s with
    tlb1 := [⟨0, 0, 0, 0x2000, 4096, BitVec.ofNat 64 (7 + 2 * 2 ^ 52), 0x2000, 0, true, true⟩]
    rcbs := [(regionKey 0 0x4000, BitVec.ofNat 1024 (n * 2 ^ 184))]
    crews := s.crews.map (fun c => { c with region := 0x4000 }) }

/-- A task record of 64 rows in entry block 0. -/
def taskRaw : Nat := 64 * 2 ^ 32

/-- SPAWN of the record that S1 addresses. -/
def spawnW (sub : BitVec 4) : Body := wr 0 (.s 5) (.s 1) (.v 0) (.v 0) (sub := sub)

/-- The premises of SPAWN, with whether there is room. -/
def spawnB (sub : BitVec 4) (n : Nat) (room : Bool) : Bool :=
  meets (.spawn (spawnW sub)) (withRecord (.spawn (spawnW sub)) taskRaw 128 n) (fun t c =>
    match t.group? c.m.crew c.m.grp with
    | some g =>
      let t0 : State := { t with nextSeq := t.nextSeq + 1 }
      let r := t0.readRecord c.crew c.m.grp 0x2000 128 State.lineHeld
      startAct (.spawn (spawnW sub)) c != 0 && decide (c.val (.s 1) 0 0 = 0x2000) && t0.releaseReady c.crew c.m.grp g t.nextSeq 4 && !g.spawnBefore t.nextSeq &&
      decide (r.2 = .got taskRaw) && decide (c.crew.region = 0x4000) &&
      (match r.1.path? c.crew.part 0x4000 with
       | some path => postable path c.crew.region && !badRecord ((t0.image? c.crew.img).getD default) (BitVec.ofNat 1024 taskRaw) &&
          (decide (((r.1.cachePath c.crew.part path).inflight c.crew.part) < 4096) && (r.1.cachePath c.crew.part path).tasksOk c.crew.part 0x4000) == room
       | none => false)
    | none => false)

/-- A descriptor of one block and two participants, with its list. -/
def xredRaw : Nat := 1 * 2 ^ 256 + 2 * 2 ^ 296 + 7 * 2 ^ 352 + 0x2040 * 2 ^ 384 + 2 ^ 512 * 0x00010000

/-- XRED of the descriptor that S1 addresses. -/
def xredW : Body := wr 0 (.v 0) (.s 1) (.v 0) (.v 0)

theorem witness_SpawnReductionIssue :
    spawnB 0 4 true = true ∧ spawnB 1 0 false = true ∧ spawnB 0 0 false = true ∧
    meets (.xred xredW) (withRecord (.xred xredW) xredRaw 68 0) (fun t c =>
      let r := t.readDescr c.crew c.m.grp 0x2000
      startAct (.xred xredW) c != 0 && decide (c.val (.s 1) 0 0 = 0x2000) && r.1.xreds.isEmpty && (r.1.group? c.m.crew c.m.grp).isSome &&
      (match r.2 with
       | .got y => !badDesc c.crew (y % 2 ^ 512) && !r.1.badList c.crew (xdSelf (y % 2 ^ 512)) (listOf 2 (y / 2 ^ 512)) && decide (xdTag y = 7)
       | _ => false)) = true := by decide +kernel

/-! ### Matrix and Beryl words -/

/-- A word of the matrix class whose entity has lanes, in a state, with a further test. -/
def acts (i : Instr) (s : State) (p : State → Ctx → Bool) : Bool := meets i s (fun t c => c.ent.lanes != 0 && p t c)

/-- The program of a word whose crew holds reservation 5: its first 4 KiB, of the format and further bits given. -/
def withResv (i : Instr) (bits : Nat) : State := readyC i (fun c => { c with resv := [(5, BitVec.ofNat 64 (3 * 2 ^ 8 + bits))] })

/-- The same with its handle in S1. -/
def withHandle (i : Instr) (bits : Nat) : State := (withResv i bits).modGroup 0 0 (fun g => { g with s := [(1, 5)] })

/-- A word of form R on a handle in S1. -/
def handleW (ty : BitVec 3) (d b c : Opnd) : Body := wr ty d (.s 1) b c

theorem witness_OperandBufferResults :
    acts (.obres (handleW 0 (.s 5) (.v 0) (.v 0))) (ready (.obres (handleW 0 (.s 5) (.v 0) (.v 0)))) (fun t c =>
      c.crew.resv.isEmpty && decide (t.resvCount c.crew.core < 64) && decide (0 < c.crew.obKiB)) = true ∧
    acts (.obres (handleW 0 (.s 5) (.v 0) (.v 0))) (withResv (.obres (handleW 0 (.s 5) (.v 0) (.v 0))) 0) (fun _ c => decide (c.crew.resv.length = 1)) = true ∧
    acts (.obrel (wi 0 (.v 0) .imm (.v 0) 5)) (withResv (.obrel (wi 0 (.v 0) .imm (.v 0) 5)) 0) (fun _ c => c.crew.resv.any (fun x => x.1 == 5)) = true ∧
    acts (.obrel (wi 0 (.v 0) .imm (.v 0) 4)) (withResv (.obrel (wi 0 (.v 0) .imm (.v 0) 4)) 0) (fun _ c => c.crew.resv.all (fun x => x.1 != 4)) = true ∧
    ([Instr.obst (handleW 4 (.v 0) (.v 2) (.v 3)), .obld (handleW 3 (.v 5) (.v 2) (.v 0))].all (fun i => acts i (withHandle i 0) (fun _ c =>
      (c.crew.resv? (c.val (.s 1) 0 0)).isSome && (lanesOf c.ent.lanes).all (fun l => decide (c.val (.v 2) 0 l = 0))))) = true ∧
    ([Instr.amst (wr 4 (.v 0) (.v 2) (.v 3) (.v 0)), .amld (wr 3 (.v 5) (.v 2) (.v 0) (.v 0))].all (fun i => acts i (ready i) (fun _ c =>
      decide (16 ≤ 4096 * c.crew.accN) && (lanesOf c.ent.lanes).all (fun l => decide (c.val (.v 2) 0 l = 0))))) = true := by decide +kernel

/-- MMA of 32 by 32 by 32 with A in V registers from V8, of int8, at an accumulator tile. -/
def mmaW (tile : BitVec 8) : Body := wr 0 (.k 2) (.v 8) (.s 1) (.v 0) (imm8 := tile) (ty2 := 3)

/-- MMAS of the same with its bitmap in V40. -/
def mmasW (tile : BitVec 8) : Body := wr 0 (.k 2) (.v 8) (.s 1) (.v 40) (imm8 := tile) (ty2 := 3)

/-- A word with its tickets at a value. -/
def ticketed (i : Instr) (t : Ticket) : State := readyG i (fun g => { g with k := List.replicate 8 t })

/-- WBLD from scratch: destination, source and length in S1, S2 and S3. -/
def wbldW : Body := wr 0 (.k 2) (.s 1) (.s 2) (.s 3)

/-- WBLD with its operands. -/
def wbldAt (dst src len : BitVec 64) : State := readyG (.wbld wbldW) (fun g => { g with s := [(1, dst), (2, src), (3, len)] })

/-- AMZERO of a tile. -/
def amzeroW (tile : BitVec 8) : Body := wr 0 (.k 2) (.v 0) (.v 0) (.v 0) (imm8 := tile)

/-- AMCVT to int8 of the reservation in S1. -/
def amcvtW : Body := wr 0 (.k 2) (.s 1) (.v 0) (.v 0) (ty2 := 4)

/-- TWAIT of K2. -/
def twaitW : Body := wr 0 (.v 0) (.k 2) (.v 0) (.v 0)

/-- An MMA of group 0 in a gang of two groups, and what it would have arrive for group 1. -/
def ganged : State := (twoGroups (.mma (mmaW 0))).modCrew 0 (fun c => { c with groups := c.groups.map (fun g => { g with gang := [0, 1] }) })

/-- The arrival that group 1 makes with the same word, or with one that names another accumulator tile. -/
def arrived (tile : BitVec 8) : Arrival :=
  { arrivalOf (startIn (.mma (mmaW 0)) ganged) (ctxIn (.mma (mmaW 0)) ganged) .mma (mmaW 0) false with grp := 1, word := { mmaW tile with hdr := default, dst := .imm } }

/-- The rendezvous latch holds that arrival. -/
def gangHeld (tile : BitVec 8) : State := ganged.modCrew 0 (fun c => { c with rdv := [arrived tile] })

/-- The premises of GangWord that do not speak of the latch. -/
def gangB (s : State) (p : State → Crew → Arrival → Bool) : Bool :=
  acts (.mma (mmaW 0)) s (fun t c => (c.mmaFault (mmaW 0) false).isNone && decide (c.g.gang = [0, 1]) &&
    c.g.gang.all (fun k => ((t.group? 0 k).map (fun g => !g.retired && decide (g.ticket 2 = .idle))).getD false) && decide (c.m.grp = 0) && !t.preempting 0 0 &&
    p t c.crew (arrivalOf t c .mma (mmaW 0) false))

/-- Do two arrivals agree? -/
def agreesB (x y : Arrival) : Bool :=
  decide (x.word = y.word ∧ x.handle = y.handle ∧ x.item.wdesc = y.item.wdesc ∧ x.item.sparse = y.item.sparse ∧ x.gang = y.gang)

theorem witness_MatrixWordsIssue :
    gangB ganged (fun _ c _ => c.rdv.isEmpty) = true ∧
    gangB (gangHeld 0) (fun t c a => decide (c.rdv = [arrived 0]) && agreesB a (arrived 0) && decide ((arrived 0).grp = 1) && decide ((arrived 0).gang = [0, 1]) &&
      (t.scoreboard c.core).isEmpty && decide (c.core < t.cores.length) && (t.ent? ⟨0, 0, 0⟩).isSome && (t.ent? ⟨0, 1, 0⟩).isSome) = true ∧
    gangB (gangHeld 1) (fun _ c a => decide (c.rdv = [arrived 1]) && !agreesB a (arrived 1) && decide (a.grp ≤ (arrived 1).grp)) = true ∧
    acts (.mma (mmaW 0)) (ready (.mma (mmaW 0))) (fun _ c => (c.mmaFault (mmaW 0) false).isNone && c.g.gang.isEmpty && decide (c.g.ticket 2 = .idle)) = true ∧
    acts (.mma (mmaW 16)) (ready (.mma (mmaW 16))) (fun _ c => (c.mmaFault (mmaW 16) false).isSome) = true ∧
    acts (.mmas (mmasW 0)) (ready (.mmas (mmasW 0))) (fun _ c => (c.mmaFault (mmasW 0) true).isNone && c.g.gang.isEmpty) = true ∧
    acts (.mmas (mmasW 16)) (ready (.mmas (mmasW 16))) (fun _ c => (c.mmaFault (mmasW 16) true).isSome) = true ∧
    acts (.mma (mmaW 0)) (ticketed (.mma (mmaW 0)) (.failed 0x16 0)) (fun _ c => (c.mmaFault (mmaW 0) false).isNone && decide (c.g.ticket 2 = .failed 0x16 0)) = true ∧
    acts (.wbld wbldW) (wbldAt 0 0 16) (fun t c => decide (c.val (.s 3) 0 0 = 16) && t.wbldSourceOk c (.scratch c.m.crew 0) 16) = true ∧
    acts (.wbld wbldW) (wbldAt 393216 0 16) (fun t c => decide (c.val (.s 1) 0 0 = 393216) && t.wbldSourceOk c (.scratch c.m.crew 0) 16) = true ∧
    acts (.wbld wbldW) (wbldAt 0 0 15) (fun _ c => decide (c.val (.s 3) 0 0 < 16)) = true ∧
    acts (.amzero (amzeroW 15)) (ready (.amzero (amzeroW 15))) (fun _ c => decide ((amzeroW 15).tile + 1 ≤ c.crew.accN)) = true ∧
    acts (.amzero (amzeroW 16)) (ready (.amzero (amzeroW 16))) (fun _ c => decide (c.crew.accN < (amzeroW 16).tile + 1)) = true ∧
    acts (.amcvt amcvtW) (ready (.amcvt amcvtW)) (fun _ c => (c.crew.resv? (c.val (.s 1) 0 0)).isNone) = true ∧
    acts (.amcvt amcvtW) (withHandle (.amcvt amcvtW) (7 * 2 ^ 16)) (fun _ c => match c.crew.resv? (c.val (.s 1) 0 0) with
      | some x => !x.getLsbD 21 && decide ((x.extractLsb' 16 5).toNat = 7) && !x.getLsbD 53 && decide (amcvtW.tile + 1 ≤ c.crew.accN) && decide (32 * 32 ≤ 1024 * ((x.extractLsb' 8 8).toNat + 1))
      | none => false) = true ∧
    ([Ticket.busy, .idle, .done [3], .failed 0x16 0].all (fun k => acts (.twait twaitW) (ticketed (.twait twaitW) k) (fun _ c => decide (c.g.ticket 2 = k)))) = true := by decide +kernel

/-- A Beryl word on Q2 with an immediate. -/
def qiW (n : BitVec 32) : Body := wi 0 (.q 2) .imm (.v 0) n

/-- A program whose scratch holds an image with a reserved bit set in its last cell. -/
def badImage (i : Instr) : State := (ready i).storeAll (scratchKey 0 512) [0, 0, 0, 0, 0x80]

/-- The image at scratch offset 0 as a load reads it. -/
def imageRaw (t : State) (c : Ctx) : Nat :=
  ((List.range 33).map (fun j => t.loadVal (c.crew.agent c.m.grp) ((t.group? c.m.crew c.m.grp).getD default) (imageWord c t.nextSeq 0 (.load false) false)
    (placeAcc j (.mem (scratchKey c.m.crew (0 + 16 * j))) 16 0 0) * 2 ^ (128 * j))).foldl (· + ·) 0

/-- Does the image set a reserved bit? -/
def imageBad (t : State) (c : Ctx) : Bool := decide (nbits (imageRaw t c) (8 * 512 + 39) 1 ≠ 0 ∨ nbits (imageRaw t c) (8 * 512 + 45) 83 ≠ 0)

theorem witness_BerylWordsIssue :
    allStart [.qinit (qiW 63), .qinit (qiW 64), .qdeg (qiW 63), .qdeg (qiW 64), .qmul (wr 0 (.q 2) (.v 1) (.v 2) (.v 0)), .qmuls (wr 3 (.q 2) (.v 1) (.v 0) (.v 0)),
      .qdiv (wr 6 (.q 2) (.v 1) (.v 2) (.v 0)), .qconv (wr 0 (.q 2) (.q 1) (.q 2) (.v 0)), .qnorm (qiW 0xFFFFFFFF), .qload (qiW 65008),
      .qrd (wr 3 (.v 5) (.q 2) (.v 0) (.v 0) (imm8 := 63)), .qsave (wi 0 (.v 0) (.q 2) .imm 65008)] = true ∧
    meets (.qload (qiW 0)) (ready (.qload (qiW 0))) (fun t c => !imageBad t c) = true ∧
    meets (.qload (qiW 0)) (badImage (.qload (qiW 0))) imageBad = true := by decide +kernel

/-! ### Steps of the groups -/

/-- A crew of one group at its only word. -/
def base : State := { ready (.nop bare) with cur := none }

/-- The same with its group changed. -/
def baseG (f : Group → Group) : State := base.modGroup 0 0 f

/-- The same with its crew changed. -/
def baseC (f : Crew → Crew) : State := base.modCrew 0 f

/-- The group whose entity is changed. -/
def entIn (f : Ent → Ent) (g : Group) : Group := { g with ents := g.ents.map f }

/-- A page of host memory at 0x2000 to fetch through. -/
def codePage (s : State) : State := { s with tlb2 := [⟨0, 0, 0, 0x2000, 4096, BitVec.ofNat 64 (15 + 2 * 2 ^ 52), 0x2000, 0, true, true⟩] }

/-- The probe's image with its base there. -/
def codeImage : Image := { probeImage with base := 0x2000 }

/-- A pre-empted crew whose only word waits for the load of V1, which awaits a verdict. -/
def ending : State := { preempted addV with cur := none }

theorem witness_IssueAndLandingSteps :
    (leadOf (base.cands 0 1 (base.cyc 0))).isSome = true ∧ base.cores.length = 160 ∧ (((base.core 0).pipes[1]?).getD 0 ≤ base.cyc 0) ∧
    base.abandoning 0 (base.cyc 0) = [] ∧ (base.cands 0 1 (base.cyc 0)).all (fun x => decide (x.turn < 223)) = true ∧
    (ending.abandoning 0 (ending.cyc 0) ≠ [] ∧ ending.cores.length = 160 ∧ (((ending.core 0).pipes[1]?).getD 0 ≤ ending.cyc 0)) ∧
    (let s := baseG (fun g => { g with pend := [⟨0, 0, 0, 0, BitVec.allOnes 64, [1], [.v 1 0 (BitVec.allOnes 64) 7], false⟩] })
     (s.group? 0 0).map (fun g => g.pend.any (fun p => decide (p.due ≤ s.cyc 0))) = some true) ∧
    (let s : State := codePage { baseG (entIn (fun e => { e with wait := some .fetch })) with images := [codeImage] }
     match s.crew? 0, s.group? 0 0 with
     | some c, some g =>
       let r := s.fetchPages c 0 0x2000 1
       (match r.2, g.ents with
        | .ok bytes, [e] => decide (e.wait = some .fetch) && decide (c.phase = .resident) && !c.stopped && g.free? e && (r.1.putSeg 0 ⟨0, 0, codeOf bytes 1, s.nextSeq, false⟩).isSome
        | _, _ => false)
     | _, _ => false) = true := by decide +kernel

/-- Block descriptors: 0 and 3 plain, 1 a merge block, 2 a stub; all in home state 0. -/
def blocks4 : List (BitVec 64) := [0xFFFF, 0xFFFF ||| BitVec.ofNat 64 (2 ^ 44), 0xFFFF ||| BitVec.ofNat 64 (2 ^ 45), 0xFFFF]

/-- An image of these blocks with every handler, and with one key if it is said. -/
def voteImage (key : Option Nat) : Image :=
  { probeImage with
    blocks := blocks4
    hands := List.replicate 5 0
    trans := match key with
      | some b => List.replicate 16 (BitVec.ofNat 128 (2 ^ 112 - 2 ^ 16 + b))
      | none => List.replicate 16 (BitVec.allOnes 128) }

/-- The group at its vote, its lanes' next blocks given. -/
def atVote (key : Option Nat) (blk : Nat → Nat) : State :=
  { baseG (fun g => { entIn (fun e => { e with pos := 1 }) g with lanes := g.lanes.mapIdx (fun l x => { x with blk := BitVec.ofNat 16 (blk l), marked := true }) }) with
    images := [voteImage key] }

/-- The common premises of a vote of an unsplit group, with its set and its key. -/
def votesB (s : State) (p : State → Crew → List Nat → Option Nat → Bool) : Bool :=
  match s.crew? 0, s.group? 0 0 with
  | some c, some g =>
    (match g.ents with
     | [e] =>
       let n := voteOf (s.nexts c g e.lanes).2
       decide (c.phase = .resident) && !c.stopped && !g.retired && g.handler.isNone && !g.isSplit && g.votes (s.cyc c.core) e && !s.lastHeld c g e.lanes && decide (e.idx < 4) &&
         (lanesOf e.lanes).all (fun l => (g.lane l).valid) && g.atVote.isEmpty && c.preempt.isNone &&
         p (s.nexts c g e.lanes).1 c n (if n.length ≤ 7 then ((s.image? c.img).getD default).succ? n else none)
     | _ => false)
  | _, _ => false

/-- A group in a handler that stands at its vote. -/
def handlerVote (key : Option Nat) : State :=
  (atVote key (fun _ => 0)).modGroup 0 0 (fun g => { g with
    handler := some ⟨0x18, none, { (g.ents[0]?.getD default) with idx := handlerIdx }, false, false⟩, ents := [] })

/-- The premises of a vote of a handler. -/
def handlerVotes (key : Option Nat) (found : Bool) : Bool :=
  let s := handlerVote key
  match s.crew? 0, s.group? 0 0 with
  | some c, some g =>
    (match g.handler with
     | some h =>
       let n := voteOf (s.nexts c g h.ent.lanes).2
       decide (c.phase = .resident) && !c.stopped && !g.retired && g.votes (s.cyc c.core) h.ent && !s.descHeld c g h.ent.lanes && !n.isEmpty && ((((s.image? c.img).getD default).succ? n).isSome == found)
     | none => false)
  | _, _ => false

/-- A group all of whose lanes are parked at a merge block. -/
def parkedAll : State :=
  { baseG (fun g => { g with ents := [], parked := [(1, BitVec.allOnes 64)] }) with images := [voteImage none] }

theorem witness_VoteSteps :
    votesB (atVote none (fun _ => 0xFFFF)) (fun _ c n _ => n.isEmpty && c.rdv.isEmpty) = true ∧
    votesB (atVote (some 3) (fun _ => 3)) (fun _ _ n k => decide (n = [3]) && decide (k = some 0)) = true ∧
    votesB (atVote none (fun _ => 3)) (fun r c n k => decide (n = [3]) && k.isNone && !r.isStub c 3 && !r.isMerge c 3) = true ∧
    votesB (atVote none (fun _ => 1)) (fun r c n k => decide (n = [1]) && k.isNone && r.isMerge c 1 && !r.isStub c 1) = true ∧
    votesB (atVote none (fun _ => 2)) (fun r c n k => decide (n = [2]) && k.isNone && r.isStub c 2 && (r.handlerEntry c 1).isSome) = true ∧
    votesB (atVote none (fun l => if l < 32 then 0 else 3)) (fun _ _ n k => decide (n = [0, 3]) && k.isNone) = true ∧
    (match parkedAll.crew? 0, parkedAll.group? 0 0 with
     | some c, some g => decide (c.phase = .resident) && !c.stopped && !g.retired && g.handler.isNone && g.traps.isEmpty && g.ents.isEmpty && g.deferred.isEmpty &&
         g.atVote.isEmpty && c.preempt.isNone && !parkedAll.camHeld c g []
     | _, _ => false) = true ∧
    (((twoSplits (.nop bare)).modGroup 0 0 (entIn (fun e => { e with entries := 1024 }))).group? 0 0).map (fun g =>
      g.isSplit && ((g.ent? 1).map (fun e => decide (1024 ≤ e.entries) && !e.mark)).getD false) = some true ∧
    handlerVotes none false = true ∧ handlerVotes (some 0) true = true := by decide +kernel

/-! ### Steps of the ordering machine -/

/-- A group with one outstanding word. -/
def withWord (op : MemOp) (dst : MDst) (accs : List Acc) : State := baseG (fun g => { g with mws := [{ outstanding 5 op dst accs with stat := .ready }] })

/-- An access of lane 0 to 4 bytes of first-tier memory. -/
def tierAcc : Acc := placeAcc 0 (.mem (tier1Key 0x100)) 4 7 0

/-- Can lane 0's access of word 5 act in this state, with no operation of the array before it? -/
def canAct (s : State) (p : MemWord → Acc → Bool) : Bool :=
  match s.actor ⟨0, 0⟩ 5 0 with
  | some (c, g, m, a) => decide (a.lane < 64) && decide ((s.group? 0 0).bind (fun x => x.word? m.seq) = some m) && (s.opsBefore c.core c.uid 0 m.seq).isEmpty &&
      decide (16 ≤ 16 * g.nblk) && p m a
  | none => false

/-- A load of V1 in lanes 0 and 1, lane 1 done or not. -/
def twoLanes (p : Place) (done : Bool) : State := withWord (.load true) (.v 1 false) [placeAcc 0 p 4 0 0, { placeAcc 1 p 4 0 0 with done := done, val := 9 }]

/-- A store that has drained at its own group. -/
def drainedOne : Drained := ⟨9, .group 0 0 0, 4, 1, [(tier1Key 0x100, 1)], []⟩

/-- A group with one outstanding virtual word whose line has a place. -/
def virtWord (stat : MStat) (place : Option Place) (cap : BitVec 28) : State :=
  let s := baseG (fun g => { g with mws := [{ outstanding 5 (.load false) (.v 1 false) [{ virtAcc 0 0x2000 4 0 0 with place := place }] with stat := stat }] })
  { s with dev := { s.dev with capLive := cap } }

theorem witness_OrderingSteps :
    canAct (withWord (.load false) (.v 1 false) [tierAcc]) (fun m a => !a.done && m.byLane && !m.lds) = true ∧
    canAct (twoLanes (.mem (tier1Key 0x100)) false) (fun m _ => m.byLane && !(modAcc m.accs 0 (fun x => { x with done := true, val := 0 })).all (·.done)) = true ∧
    canAct (twoLanes (.mem (remoteKey 5 0x100)) true) (fun m _ => !m.byLane && (modAcc m.accs 0 (fun x => { x with done := true, val := 0 })).all (·.done)) = true ∧
    canAct (withWord (.atom 0 false) (.v 1 false) [tierAcc]) (fun _ a => (atomNew 0 false a.size 0 a.data a.cmp).isSome) = true ∧
    canAct (withWord (.atom 7 false) (.v 1 false) [{ tierAcc with cmp := 1 }]) (fun _ a => (atomNew 7 false a.size 0 a.data a.cmp).isNone) = true ∧
    canAct (withWord .store .none [tierAcc]) (fun m a => decide (m.op = .store) && decide (a.place = some (.mem (tier1Key 0x100)))) = true ∧
    canAct (withWord .store .none [placeAcc 0 (.vreg 0 0 1 0 0) 4 7 0]) (fun _ _ => true) = true ∧
    (let s : State := { withWord (.load false) (.v 1 false) [tierAcc] with poison := [tier1Key 0x100 / 2048 * 8] }
     canAct s (fun m a => m.op.readsData && (s.badPlace a.place a.size).isSome)) = true ∧
    (drainedOne.level < 5 ∧ drainedOne.visible (.group 1 0 0) = false ∧ ({ drainedOne with level := 2 } : Drained).visible (.group 1 0 0) = true) ∧
    (let s := virtWord .ready (some (.mem (tier1Key 0x100))) 4
     (s.group? 0 0).map (fun g => ((g.word? 5).map (fun m => m.accs.any (fun a => a.virt && !a.passed) && !s.mapHeld 0x100)).getD false) = some true) ∧
    (let s := virtWord .resolved (some (.mem (tier1Key 0x100))) 4
     (s.group? 0 0).map (fun g => ((g.word? 5).map (fun m => (s.capLines m).isEmpty)).getD false) = some true) ∧
    (let s := virtWord .resolved (some (.mem (tier1Key 0x100))) 0
     (s.group? 0 0).map (fun g => ((g.word? 5).map (fun m => decide (s.capLines m = [0x20]) && !g.logBars m)).getD false) = some true) ∧
    ((virtWord .delivered none 0).group? 0 0).map (fun g => (g.word? 5).isSome && g.handler.isNone && g.traps.isEmpty) = some true := by decide +kernel

/-! ### The ends of waits -/

/-- The group waiting in a word. -/
def waitsIn (i : Instr) (w : Wait) (f : Group → Group) : State :=
  ({ ready i with cur := none } : State).modGroup 0 0 (fun g => f (entIn (fun e => { e with wait := some w }) g))

/-- Does the entity wait in a word of this operation? -/
def waitingIn (s : State) (o : Op) : Bool :=
  match s.waiting ⟨0, 0, 0⟩ with
  | some (_, o', _) => o' == o
  | none => false

/-- A group with its latch set, armed line 0 written. -/
def latched (g : Group) : Group := { g with monitors := [⟨0, 0, 0, none⟩], latch := some ⟨some 0, none, false⟩ }

theorem witness_WaitEndSteps :
    (let s := waitsIn (.racq (racqW 16)) (.racq 16 0) (fun g => { g with nblk := 3 })
     s.racqFirst 0 = some (⟨0, 0, 0⟩, 16) ∧ (16 - 3) * (64 / 8) ≤ s.freeGranules 0) ∧
    (let s := waitsIn (.bar (wi 0 (.v 0) .imm (.v 0) 15)) (.bar 15) id
     s.barReady 0 15 = true ∧ (s.crew? 0).map (fun c => c.groups.all (fun g => decide ((g.ents.map (·.idx)).Nodup) && g.ents.all (fun e => decide (e.idx < 4)) && g.handler.isNone)) = some true) ∧
    (let s := waitsIn (.tbwait (phaseW 3)) (.tbwait 0 3) id
     waitingIn s .tbwait = true ∧ (s.tbar (scratchKey 0 0)).phase ≠ 3) ∧
    (((waitsIn (.waita (waitaW 0)) (.waita 3 0) id).group? 0 0).map (fun g => decide ((g.getA 3).toNat ≤ 0)) = some true) ∧
    (∀ k ∈ [Ticket.idle, .done [], .failed 0x16 0], ((waitsIn (.twait twaitW) (.twait 2) (fun g => { g with k := List.replicate 8 k })).group? 0 0).map (fun g => decide (g.ticket 2 = k)) = some true) ∧
    (let s := waitsIn (.mwait mwaitW) (.mwait 0 5) latched
     waitingIn s .mwait = true ∧ (s.group? 0 0).map (fun g => g.latch.isSome && g.traps.isEmpty && decide (g.mwaiters = [0])) = some true ∧ 0 + 5 ≤ ({ s with clock := 5 } : State).clock.toNat) ∧
    (let s := waitsIn (.mwait mwaitW) (.mwait 0 5) id
     waitingIn s .mwait = true ∧ (s.group? 0 0).map (fun g => g.latch.isNone && g.traps.isEmpty) = some true) := by decide +kernel

/-! ### Work and its placement -/

/-- A device with every core in partition 0, whose root region is at 0x4000 with budgets to spare, and an arena. -/
def served (s : State) : State :=
  { s with
    dev := { s.dev with
      ready := true, coreen := BitVec.allOnes 160, partmap := List.replicate 160 0
      parts := s.dev.parts.set 0 { Part.init with root := 0x4000, savesize := 0x100000 } }
    rcbs := [(regionKey 0 0x4000, BitVec.ofNat 1024 ((2 ^ 69 - 1) * 2 ^ 128))]
    crews := s.crews.map (fun c => { c with region := 0x4000 }) }

/-- A task of one crew in the matcher. -/
def task0 (uid placed : Nat) : Task := ⟨uid, 7, 0, 0, BitVec.ofNat 1024 taskRaw, 0x4000, [], none, 0, 0, [], 0, placed, 1, [], []⟩

/-- A submission queue with one record at host address 0x5000. -/
def queue0 : Queue := { Queue.init with base := 0x5000, en := true, region := 0x4000, tail := 1 }

/-- The device with that queue and record. -/
def queued (q : Queue) (raw : Nat) : State :=
  let s := (served base).storeAll (hostKey 0x5000) (bytesOf 128 raw)
  { s with dev := { s.dev with queues := s.dev.queues.set 0 q } }

/-- A group waiting in SPAWN. -/
def spawning : State :=
  let s := withRecord (.spawn (spawnW 0)) taskRaw 128 4
  ({ s with cur := none } : State).modGroup 0 0 (entIn (fun e => { e with wait := some (.spawn false 0x2000 1) }))

/-- A crew whose groups have retired, of a task with this many crews left. -/
def retiring (n : Nat) : State := { baseC (fun c => { c with groups := c.groups.map Group.retire }) with tasks := [{ task0 0 1 with left := n }] }

theorem witness_TaskSteps :
    (match spawning.crew? 0, spawning.group? 0 0, spawning.waiting ⟨0, 0, 0⟩ with
     | some c, some g, some (_, o, _) =>
       let r := spawning.readRecord c 0 0x2000 128 State.lineHeld
       o == .spawn && decide (c.phase = .resident) && spawning.releaseReady c 0 g 1 4 && !g.spawnBefore 1 && decide (r.2 = .got taskRaw) &&
       (match r.1.path? 0 0x4000 with
        | some path => !badRecord probeImage (BitVec.ofNat 1024 taskRaw) && postable path c.region && decide ((r.1.cachePath 0 path).inflight 0 < 4096) &&
            (r.1.cachePath 0 path).tasksOk 0 0x4000 && trCrews (BitVec.ofNat 1024 taskRaw) != 0
        | none => false)
     | _, _, _ => false) = true ∧
    (let s := queued { queue0 with hand := some (0, BitVec.ofNat 1024 taskRaw) } taskRaw
     s.queuePart 0 0 = some 0 ∧ (s.queue 0 0).en = true ∧ s.nextHand 0 = some 0 ∧ s.hostBad 0 0 (s.queue 0 0) (BitVec.ofNat 1024 taskRaw) = false ∧
       trCrews (BitVec.ofNat 1024 taskRaw) ≠ 0) ∧
    (let s := queued { queue0 with hand := some (0, BitVec.ofNat 1024 (2 ^ 127)) } taskRaw
     s.queuePart 0 0 = some 0 ∧ (s.queue 0 0).en = true ∧ s.nextHand 0 = some 0 ∧ s.hostBad 0 0 (s.queue 0 0) (BitVec.ofNat 1024 (2 ^ 127)) = true) ∧
    (let s := queued queue0 taskRaw
     s.queuePart 0 0 = some 0 ∧ s.nextQueue 0 = some 0 ∧ s.readNum .device (.mem (hostKey (s.queue 0 0).entryAddr)) 128 = taskRaw ∧
       (s.image? 0).map (·.part) = some 0 ∧ badRecord probeImage (BitVec.ofNat 1024 taskRaw) = false ∧ (s.path? 0 0x4000).map (fun p => postable p 0x4000) = some true) ∧
    (let s := queued queue0 (2 ^ 127)
     s.nextQueue 0 = some 0 ∧ (s.path? 0 0x4000).isSome = true ∧ badRecord probeImage (BitVec.ofNat 1024 (s.readNum .device (.mem (hostKey (s.queue 0 0).entryAddr)) 128)) = true) ∧
    (let s := queued queue0 (taskRaw + 0x7000000000000000 * 2 ^ 192)
     s.nextQueue 0 = some 0 ∧ trRegion (BitVec.ofNat 1024 (taskRaw + 0x7000000000000000 * 2 ^ 192)) = 0x7000000000000000 ∧ s.path? 0 0x7000000000000000 = none ∧ s.pathWaits 0 0x7000000000000000 16 = false) ∧
    (let s := { served base with tasks := [task0 3 0] }
     s.nextPlaced 0 = some (task0 3 0) ∧ s.draining 0 = false ∧ s.taskFits (task0 3 0) 0 = true ∧ s.savedAbove 0 0 = false ∧ (s.crews.all (fun c => decide (c.uid < s.nextUid))) = true) ∧
    (∀ n ∈ [1, 2], ((retiring n).crew? 0).map (fun c => decide (c.phase = .resident) && c.groups.all (·.retired) && !(retiring n).crewBusy c && ((retiring n).task? c.task).isSome) = some true) ∧
    (({ served base with kills := [⟨0x4000, 0, 4, 0⟩] } : State).kills ≠ [] ∧ ({ served base with kills := [⟨0x4000, 0, 4, 0⟩] } : State).killWaits ⟨0x4000, 0, 4, 0⟩ = false) := by
  decide +kernel

/-! ### Pre-emption and context -/

/-- The served device with its crew changed, its image declaring every handler. -/
def servedC (f : Crew → Crew) : State := ({ served base with images := [{ probeImage with hands := List.replicate 5 0 }] } : State).modCrew 0 f

/-- The same with partition 0 draining. -/
def drainingOf (s : State) : State := { s with dev := { s.dev with parts := s.dev.parts.modify 0 (fun p => { p with drain := true }) } }

/-- A crew whose only group has reached PMDONE. -/
def restCrew (c : Crew) : Crew := { c with preempt := some 9, groups := c.groups.map (fun g => { g with preDone := true }) }

/-- A saved crew with an armed line. -/
def savedCrew (c : Crew) : Crew := { c with phase := .saved, groups := c.groups.map (fun g => { g with monitors := [⟨0, 0, 0, none⟩] }) }

/-- Core 0 is full of a crew at rest that PREEMPT has stopped, and a saved crew of its size can take its place there alone. -/
def swapping : State :=
  let s := servedC (fun c => { restCrew c with obKiB := 192 })
  { s with
    dev := { s.dev with coreen := 1 }
    crews := s.crews ++ s.crews.map (fun c => { savedCrew c with uid := 1, preempt := none, obKiB := 192, image := some 1024 }) }

theorem witness_ContextSteps :
    (let s := drainingOf (servedC id)
     (s.crew? 0).map (fun c => s.canPreempt c && s.draining c.part) = some true) ∧
    (let s := servedC (fun c => { c with preempt := some 0 })
     (s.crew? 0).map (fun c => decide (c.preempt = some 0) && decide (0 ≤ s.clock.toNat) && c.groups.any (fun g => !g.retired && !g.preDone) && !c.stopped) = some true) ∧
    (let s := servedC restCrew
     (s.crew? 0).map (fun c => decide (c.phase = .resident) && c.preempt.isSome && !c.stopped && c.groups.all (·.atRest) && c.groups.any (fun g => !g.retired) && decide (c.core < s.cores.length) &&
       (s.core c.core).matrix.isEmpty && (s.core c.core).beryl.isEmpty && !s.shadowMeets c.core c.obBase c.obKiB c.accBase c.accN c.scrKiB) = some true) ∧
    (let s := servedC savedCrew
     (s.crew? 0).map (fun c => s.canRestore c 0 && !s.savedAbove c.part (s.taskPrio c) && (s.nextPlaced c.part).isNone) = some true) ∧
    (swapping.crew? 1).map (fun c => !swapping.canRestore c 0 && (swapping.onCore 0).all (fun o => o.uid != 1) && (swapping.exchange c 0).isSome) = some true ∧
    (let s := base.modCore 0 (fun k => { k with shadow := [(7, 0, 0, 0), (0, 0, 0, 0)] })
     s.cores[0]? = some { Core.init with shadow := [(7, 0, 0, 0), (0, 0, 0, 0)] } ∧ s.crew? 7 = none ∧ (s.crew? 0).map (fun c => s.arenaHeld c.part) = some false) := by decide +kernel

/-! ### Translation, verdicts and shootdowns -/

/-- A group whose word walks for the line at 0x2000, with or without a translation. -/
def walkingWord (mapped : Bool) : State :=
  let s := baseG (fun g => { g with mws := [outstanding 5 (.load false) (.v 1 false) [virtAcc 0 0x2000 4 0 0]] })
  if mapped then { s with tlb1 := [⟨0, 0, 0, 0x2000, 4096, BitVec.ofNat 64 (7 + 2 * 2 ^ 52), 0x2000, 0, true, true⟩] } else s

/-- The premises of a walk for it, with what the translation gives. -/
def walkB (mapped : Bool) (p : Xl → Bool) : Bool :=
  let s := walkingWord mapped
  match s.crew? 0, s.group? 0 0 with
  | some c, some g =>
    (match g.word? 5 with
     | some m => decide (c.phase = .resident) && decide (m.stat = .walking) && decide (m.openLines = [0x20]) && !g.lineWaits m 0x20 &&
         m.accs.any (fun a => a.virt && a.place.isNone && decide (a.lane = 0) && decide (a.line = 0x20)) && (s.capLines m).isEmpty && !g.logBars m &&
         p (s.translate ⟨0, 0, 0, m.op.writes, false, 0⟩ 0x2000 true false).2
     | none => false)
  | _, _ => false

/-- The device with a record that waits to be posted, in a ring that holds some. -/
def posting (wait : Bool) (n : BitVec 32) : State :=
  { base with dev := { base.dev with faqEn := true, faqTail := n }, faq := [({ (default : FaqRec) with wait := wait }, none)] }

/-- A word that waits for the verdict of token 7. -/
def askedWord : State :=
  let s := baseG (fun g => { g with mws := [{ outstanding 5 (.load false) (.v 1 false) [virtAcc 0 0x2000 4 0 0] with stat := .asked 7 }] })
  { s with asked := [(7, .word ⟨0, 0⟩ 5, 0x2000)], dev := { s.dev with ready := true } }

/-- A device that is ready, with a command in progress or none. -/
def commanded (c : Option (BitVec 5 × Bool)) : State := { base with dev := { base.dev with ready := true, sdCmd := c } }

/-- A copy in flight. -/
def copy0 : Copy := ⟨0, 0, 0, 3, .linear (.scratch 0 0) (.scratch 0 64) 4, 128, false, none, [], [], [], [], [], [], [], 0⟩

/-- A copy in flight from virtual address 0x2000. -/
def copyV : Copy := { copy0 with body := .linear (.virt 0x2000) (.scratch 0 64) 4 }

/-- A core with that copy. -/
def copying : State := base.modCore 0 (fun k => { k with copies := [copy0] })

/-- The page at 0x2000 is mapped, and a core has that copy. -/
def copyingV : State := (walkingWord true).modCore 0 (fun k => { k with copies := [copyV] })

theorem witness_TranslationSteps :
    walkB true (fun x => decide (x = .ok .host 0x2000)) = true ∧ walkB false (fun x => decide (x = .fault 4)) = true ∧
    (copying.copy? 0 0 = some copy0 ∧ (copying.crew? 0).map (·.phase) = some .resident ∧ copying.copyNeeds copy0 (0x20, false) = false) ∧
    (copyingV.copy? 0 0 = some copyV ∧ copyingV.copyNeeds copyV (0x20, false) = true ∧ (copyingV.translate ⟨0, 0, 0, false, false, 0⟩ 0x2000 true false).2 = .ok .host 0x2000) ∧
    ((posting true 63).dev.faqTail - (posting true 63).dev.faqHead).toNat < 2 ^ (posting true 63).dev.faqLog.toNat ∧
    (2 ^ (posting true 64).dev.faqLog.toNat ≤ ((posting true 64).dev.faqTail - (posting true 64).dev.faqHead).toNat ∧ (posting true 64).faq.all (fun x => x.1.wait) = true ∧
      (posting true 64).dev.faqOvf = false) ∧
    (2 ^ (posting false 64).dev.faqLog.toNat ≤ ((posting false 64).dev.faqTail - (posting false 64).dev.faqHead).toNat ∧ (posting false 64).faq.all (fun x => !x.1.wait) = true) ∧
    (base.dev.ready = false ∧ askedWord.dev.ready = true ∧ askedWord.asked.find? (fun a => a.1 == 8) = none) ∧
    (askedWord.asked.find? (fun a => a.1 == 7) = some (7, .word ⟨0, 0⟩ 5, 0x2000) ∧ askedWord.faq = [] ∧
      (askedWord.group? 0 0).map (fun g => !g.retired && ((g.word? 5).map (fun m => decide (m.stat = .asked 7))).getD false) = some true) ∧
    (((walkingWord true).tlb1.filter (fun x => x.unit == 0))[0]?.isSome = true) ∧
    ((commanded none).dev.sdCmd = none ∧ (commanded (some (0, true))).dev.sdCmd = some (0, true) ∧ (commanded (some (0, false))).linesOpen 0 0 0 = false ∧ (commanded none).owed = [] ∧ (commanded none).tlb1 ++ (commanded none).tlb2 = []) := by decide +kernel

/-! ### The memory tiers, errors, monitors and power -/

/-- A ready device with twelve stacks in its table and two granules live. -/
def tiers (f : Dev → Dev) : State := { base with dev := f { base.dev with ready := true, table_ := List.range 12, capLive := 2 } }

/-- A stack in a state, at a temperature and frozen since a time. -/
def stackIn (st : BitVec 2) (since : Option Nat) : Stack := { (base.stack 0) with state := st, since := since }

/-- A device whose stack 0 is so. -/
def stacked (x : Stack) : State := tiers (fun d => { d with hbm := d.hbm.set 0 x })

/-- A sweep of stack 3 that has come down to a granule. -/
def sweeping (next : Nat) : State := tiers (fun d => { d with sweep := some ⟨3, next⟩, phase := 1 })

theorem witness_TierSteps :
    ((tiers id).dev.ready = true ∧ (tiers id).sweeping = false ∧ 2 ≤ capOf 12 ∧ (tiers (fun d => { d with phase := 1 })).sweeping = true) ∧
    ((tiers id).dev.sweep = none ∧ (tiers id).dev.table_.contains 3 = true ∧ ((tiers id).dev.hbm[3]?).map (·.state) = some 0 ∧ (tiers id).dev.capLive.toNat ≤ capOf 11 ∧ (tiers id).dev.capLive ≠ 0) ∧
    ((sweeping 2).dev.sweep = some ⟨3, 2⟩ ∧ (sweeping 2).sweepPaused = false ∧ (sweeping 1).dev.sweep = some ⟨3, 1⟩ ∧ (sweeping 1).sweepPaused = false ∧
      (sweeping 2).granTested 1 = false ∧ (sweeping 1).granTested 0 = false ∧ (sweeping 2).owed = [] ∧ (0x8000 % 8 = 0 ∧ granule (0x8000 / 8 * 256) = 1) ∧
      ((sweeping 1).stack 3).rec_ = false) ∧
    ((stacked (stackIn 0 none)).dev.hbm[0]? = some (stackIn 0 none) ∧ (stacked (stackIn 1 none)).dev.hbm[0]? = some (stackIn 1 none) ∧
      (stacked (stackIn 1 (some 0))).dev.hbm[0]? = some (stackIn 1 (some 0)) ∧ 0 + 10 ^ 10 < ({ base with clock := 10000000001 } : State).clock.toNat) := by decide +kernel

/-- A monitor unit that runs. -/
def monitoring : State := tiers (fun d => { d with mons := d.mons.set 0 { MonU.init with on := true, ctl := 0x10 } })

/-- A monitor unit that reads the temperature of stack 0. -/
def sensing : State := tiers (fun d => { d with mons := d.mons.set 0 { MonU.init with on := true, ctl := 1 } })

/-- A self-test that is due for a row of stack 3, which an uncorrectable error named. -/
def testingRow : State := tiers (fun d => { d with tests := [⟨some 0, ⟨true, 0, 1, true, 0, 3, 0⟩⟩] })

/-- A self-test that is due for core 0. -/
def testing : State := tiers (fun d => { d with tests := [⟨some 0, ⟨true, 0, 3, true, 0, 0, 0⟩⟩] })

theorem witness_ErrorAndPowerSteps :
    ((tiers id).underTest ⟨0, false, 0, 0⟩ = false ∧ (tiers id).dev.elHead.toNat < (tiers id).dev.elog.length ∧ ((tiers id).dev.hbm[0]?).isSome = true) ∧
    ((tiers id).underTest ⟨2, true, 0, 0⟩ = false ∧ ((tiers id).errKey ⟨2, true, 0, 0⟩).isSome = true ∧ ((tiers id).errKey ⟨0, true, 0, 0⟩).isSome = true) ∧
    ((tiers id).underTest ⟨3, true, 0, 0⟩ = false ∧ ((tiers id).crew? 0).map (fun (c : Crew) => decide (c.phase = .resident) && c.core == 0) = some true) ∧
    ((testing.dev.tests[0]?).isSome = true ∧ (testing.cores[0]?).isSome = true ∧ (testing.dev.elog[0]?).isSome = true ∧ testing.owed = [] ∧
      (testingRow.dev.tests[0]?).isSome = true ∧ (testingRow.dev.hbm[3]?).isSome = true ∧ (testingRow.stack 3).state ≠ 1) ∧
    (let s := ({ base with crews := [] } : State).modCore 0 (fun k => { k with needRow := 1 })
     (s.cores[0]?).map (fun (k : Core) => decide (0 < k.needRow) && decide (0 < k.spare)) = some true ∧ s.onCore 0 = []) ∧
    ((monitoring.dev.mons[0]?).map (fun (u : MonU) => u.on && decide (u.next ≤ monitoring.clock.toNat)) = some true) ∧
    ((sensing.dev.mons[0]?).map (fun (u : MonU) => u.on && decide (u.next ≤ sensing.clock.toNat) && decide (monSrc u.ctl = 1) && decide (monIndex u.ctl < 12)) = some true ∧
      (sensing.dev.hbm[0]?).map (fun (h : Stack) => h.state) = some 0 ∧ 105 ≤ ((110 : BitVec 32).setWidth 8).toNat) ∧
    ((tiers (fun d => { d with statC := [1800, 50] })).dev.statC[1]? = some 50 ∧ 50 ≤ (50 : BitVec 12).toNat ∧ (50 : BitVec 12).toNat < 1800) ∧
    (blockValid (.cluster 19) = true ∧ (.cluster 19) ∉ (tiers id).dev.gated ∧ ((tiers id).crews.all (fun c => c.core / 8 != 19)) = true ∧
      (.stack 0) ∈ (tiers (fun d => { d with gated := [.stack 0] })).dev.gated) := by
  refine ⟨?_, ?_, ?_, ?_, ?_, ?_, ?_, ?_, ?_⟩ <;> decide +kernel

/-- R403: the line that a self-test works on waits as at the map point, and no other. -/
theorem test_line_under_test_waits :
    let s := tiers (fun d => { d with tests := [⟨some 0, ⟨true, 0, 0, false, 0, 0, 0⟩⟩, ⟨some 1, ⟨true, 0, 2, false, 0, 0, 1⟩⟩] })
    s.tested .tier1 0 = true ∧ s.tested .tier1 0x100 = false ∧ s.tested .tier2 0x1FF = true := by
  refine ⟨List.any_eq_true.mpr ⟨_, List.mem_cons_self, ?_⟩, by decide +kernel, List.any_eq_true.mpr ⟨_, List.mem_cons_of_mem _ List.mem_cons_self, ?_⟩⟩
  · exact Bool.and_eq_true_iff.mpr ⟨by decide +kernel, beq_iff_eq.mpr (congrArg Config.rowOf (by decide +kernel))⟩
  · exact Bool.and_eq_true_iff.mpr ⟨by decide +kernel, beq_iff_eq.mpr (congrArg Config.rowOf (by decide +kernel))⟩

/-- R407: a unit of SRC 6 samples the corrected errors since its last sample. -/
theorem test_corrected_errors_sampled :
    let s := (tiers (fun d => { d with mons := d.mons.set 0 { MonU.init with on := true, ctl := 0x26 } })).logError ⟨3, false, 0, 0⟩
    (match exec (.monitorSample 0 9) s with
     | .next t => (t.dev.mons[0]?).map (fun u => (u.value, u.errs))
     | _ => none) = some (1, 0) := by decide +kernel

/-! ### Links, resets and the host's side -/

/-- Port 0 up to module 5 after some retries, the only way to it. -/
def linked (retry : BitVec 32) : State := tiers (fun d => { d with ports := d.ports.set 0 ⟨true, 5, retry⟩, route := d.route.set 5 1 })

/-- A 1 GiB leaf of partition 0 that names module 5, which is marked lost though its port is up. -/
def leafed : State :=
  let s := linked 0
  { s with
    mem := Memory.setAll [] ((bytesOf 8 0x2001).mapIdx (fun i b => (tier1Key (0x1000 + i), b)) ++
      (bytesOf 8 (7 + 3 * 2 ^ 52 + 5 * 2 ^ 54)).mapIdx (fun i b => (tier1Key (0x2000 + i), b)))
    dev := { s.dev with lost := 32, parts := s.dev.parts.modify 0 (fun p => { p with ptroot := 0x1000 }) } }

/-- R395, R400: a mark that is cleared while a leaf names the module leaves it lost to the next access; with the leaf gone it is reached. -/
theorem test_mark_cleared_under_a_leaf :
    ((leafed.clearLost [5]).dev.lost.getLsbD 5, (leafed.clearLost [5]).findsLost 5, (({ leafed with mem := [] } : State).clearLost [5]).findsLost 5) = (false, true, false) := by
  decide +kernel

theorem witness_LinkAndResetSteps :
    ((linked 64).dev.ports[0]? = some ⟨true, 5, 64⟩ ∧ base.dev.ports[0]? = some ⟨false, 0, 0⟩ ∧ 64 ≤ (64 : BitVec 32).toNat) ∧
    ((linked 0).dev.route[5]? = some 1 ∧ (1 : BitVec 18).getLsbD 0 = true ∧ (List.range 18).all (fun q => q == 0 || !(1 : BitVec 18).getLsbD q) = true) ∧
    ((linked 0).dev.ports.any (fun p => p.up && p.peer == 5) = true) ∧ base.dev.queues.length = 128 ∧
    (base.dev.power = true ∧ base.dev.ready = false ∧ base.dev.halt = false ∧ base.dev.stage = 0 ∧
      ∀ st : BitVec 3, ({ base with dev := { base.dev with stage := st } } : State).dev.stage = st ∧ 0 < base.dev.ports.length) ∧
    (base.tasks.any (fun k => k.queue.map (·.1) == some 1) = false ∧
      ({ base with tasks := [{ task0 3 0 with queue := some (1, 0) }] } : State).tasks.any (fun k => k.queue.map (·.1) == some 1) = true) := by decide +kernel

/-- A ready device with a mailbox command and a bad-page list. -/
def mailed (op : BitVec 4) (data : BitVec 64) : State :=
  { tiers (fun d => { d with mboxBusy := some (op, 0), mboxData := data }) with flash := { base.flash with bad := [7] } }

/-- The served device whose Keyway argument is its root. -/
def argued : State := let s := served base; { s with dev := { s.dev with kwyArg := 0x4000 } }

/-- A Keyway command in progress, of an operation. -/
def keyed (op : BitVec 4) : State := { argued with dev := { argued.dev with kwyBusy := some (op, 0x4000) } }

/-- The page tables lie in the granule that a sweep moves: a command that reads a region record waits. -/
def keyHeld : State :=
  { argued with dev := { argued.dev with
      table_ := List.range 12, capLive := 2, phase := 1, watermark := 0, sweep := some ⟨3, 0⟩
      parts := argued.dev.parts.modify 0 (fun p => { p with ptroot := 1 }) } }

/-- The region's control block as a top-level region of partition 0. -/
def topRegion : State := { served base with rcbs := [(regionKey 0 0x4000, BitVec.ofNat 1024 (15 * 2 ^ 72))] }

theorem witness_HostSteps :
    (base.dev.ready = false ∧ (tiers id).dev.ready = true ∧ ((tiers id).dev.parts[31]?).isSome = true) ∧
    ((((tiers id).dev.queues[127]?).map (fun (x : Queue) => decide (2 ^ x.log2n.toNat < ((17 : BitVec 32) - x.head).toNat) && !decide (2 ^ x.log2n.toNat < ((16 : BitVec 32) - x.head).toNat))) = some true) ∧
    ((topRegion.rcb? 0 0x4000).map (fun (r : BitVec 1024) => decide (rcbParent r = 0) && (List.range 4).all (rcbOvr r) && decide (rcbPartition r = 0)) = some true ∧
      ((served base).rcb? 0 0x4000).map (fun (r : BitVec 1024) => rcbOvr r 0) = some false) ∧
    (argued.refreshWaits 0x4000 = false ∧ argued.kwyWaits 2 0x4000 = false ∧ argued.dev.kwyBusy = none ∧ (keyed 3).dev.kwyBusy = some (3, 0x4000) ∧
      keyHeld.kwyWaits 1 0x4000 = true ∧ keyHeld.kwyWaits 2 0x4000 = true) ∧
    ((tiers id).kwyWaits 2 0x9000 = false ∧ (tiers id).regionPart 0x9000 = none) ∧
    (argued.regionPart 0x4000 = some 0 ∧ argued.dev.parts.length = 32 ∧ (drainingOf argued).draining 0 = true ∧ argued.draining 0 = false) ∧
    ((mailed 1 0).flash.bad[0]? = some 7 ∧ (mailed 1 0).flash.bad[1]? = none ∧ badEntryOk (BitVec.ofNat 64 (2 ^ 32 + 2 ^ 48)) = true ∧ badEntryOk 0 = false ∧ (mailed 3 0).dev.mboxBusy = some (3, 0)) ∧
    ((tiers id).dev.secBusy = false ∧ (tiers (fun d => { d with secBusy := true })).dev.secBusy = true ∧ ((tiers id).dev.meas[7]?).isSome = true) ∧
    ((tiers id).outsideOk .host 0x1000 8 = true ∧ (tiers id).outsideOk .tier1 0x100 8 = true ∧ (tiers id).outsideOk .host 0x1000 256 = true ∧ (tiers id).outsideOk .tier1 0x100 256 = true ∧
      ({ tiers id with poison := [8] } : State).poisoned (plocKey .tier1 0x100) = true) ∧
    ((tiers id).loadStops 0 0x2000 = false ∧ keyHeld.dev.ready = true ∧ keyHeld.loadStops 0 0x2000 = true) := by
  refine ⟨?_, ?_, ?_, ?_, ?_, ?_, ?_, ?_, ?_, ?_⟩ <;> decide +kernel

/-! ### The engines -/

/-- A crew with one kick of one record. -/
def kicked : State := baseC (fun c => { c with kicks := [⟨0, 5, 0, 1⟩] })

/-- A copy request of core 0: a linear copy of 64 bytes within scratch, or one of no bytes. -/
def requested (len : Nat) : State :=
  base.modCore 0 (fun k => { k with reqs := [⟨0, 0, 5, 0, BitVec.ofNat 512 (16 * 5 + len * 2 ^ 32 + 256 * 2 ^ 192), none, false⟩] })

/-- The premises of COPY_ACCEPT. -/
def acceptB (s : State) (bad : Bool) : Bool :=
  match s.nextReq 0, s.crew? 0 with
  | some r, some c => decide (reqSbar r.raw % 16 = 0) && decide (reqSbar r.raw + 16 ≤ 1024 * c.scrKiB) && badRequest r.raw == bad && decide (reqKind r.raw = 0) && !reqDbv r.raw &&
      (s.core 0).copies.isEmpty && (s.sideRanges c (s.sideOf c (reqDsp r.raw) (reqDst r.raw)) (reqLength r.raw)).all (fun x => decide (s.sbCount x.1 < 128))
  | _, _ => false

/-- An engine operation of group 0 at the head of core 0's queue. -/
def matOp0 (started : Bool) (fail : Option (BitVec 8 × Word)) (op : MOp := .amzero 0 32 32) : MatOp := ⟨0, [(0, 2)], [], op, [(0, 5)], [BitVec.allOnes 64], [], started, fail, [], 0, []⟩

/-- Core 0 with that operation. -/
def queuedOp (x : MatOp) : State := base.modCore 0 (fun k => { k with matrix := [x] })

/-- A product of int8 from V8, or of the reservation given, with weights at 0. -/
def prod0 (r : Option (BitVec 64)) (fmt : Nat) (w : Word) : MmaP :=
  { sparse := false, m := 32, n := 32, k := 32, aReg := if r.isNone then some 8 else none, aFmt := fmt, aRec := r.getD 0, wdesc := w, bmReg := 0, sel := 0, tile := 0 }

/-- Operations that complete: products of plain and of block formats, dense and compressed, a WBLD and conversions. -/
def completing : List MOp :=
  [.mma (prod0 none 0 0), .mma (prod0 (some 0x3300) 5 (5 * 2 ^ 48 + 2 ^ 53)), .mma (prod0 (some 0x3300) 11 (11 * 2 ^ 48)), .wbld 0 (.scratch 0 0) 16,
    .amcvt 0 32 32 5 false 0 0x3300, .amcvt 0 32 32 0 false 0 0x3300]

/-- The premises of such a completion. -/
def completesB (o : MOp) : Bool :=
  let x := matOp0 true none o
  decide ((queuedOp x).drained = []) && ((queuedOp x).core 0).matrix == [x] &&
  (match o with
   | .mma p => decide (p.k % 32 = 0) && [0, 5, 6, 7, 8, 9, 10, 11].contains p.aFmt && [0, 5, 6, 7, 8, 9, 10, 11].contains (wdFmt p.wdesc) && (p.aReg.isNone || decide (p.aFmt < 9))
   | .wbld _ src len => decide (0 < len) && ((queuedOp x).sidePlace src 0 1 == some (.mem (scratchKey 0 0)))
   | .amcvt _ _ _ f _ _ r => [0, 5, 6, 7, 8].contains f && swizzleOk (resvSwen r) (resvChunk r) (resvSwsrc r)
   | _ => false)

/-- A reduction of one block between this module's die 0 and module 1. -/
def reduction0 (local_ : Bool) : Reduction :=
  ⟨7, 1, false, if local_ then [0, 2, 3] else [2, 0, 3], [⟨if local_ then 0 else 1, 0, 0, 5, 0, 0x2000, 0x2040, 0x2000, 0x2040, 0, 0, false⟩], [], [], [], [], false⟩

/-- That reduction in flight, its page mapped. -/
def reducing (local_ : Bool) : State :=
  { base with
    xreds := [reduction0 local_]
    dev := { base.dev with ports := base.dev.ports.set 0 ⟨true, 1, 0⟩, route := base.dev.route.set 1 1 }
    tlb1 := [⟨0, 0, 0, 0x2000, 4096, BitVec.ofNat 64 (7 + 2 * 2 ^ 52), 0x2000, 0, true, true⟩] }

theorem witness_EngineSteps :
    (kicked.crew? 0).map (fun c => decide (c.phase = .resident) && decide (c.core < kicked.cores.length) && ((c.groups[0]?).map (fun g => g.doneBefore 5)).getD false) = some true ∧
    acceptB (requested 64) false = true ∧ acceptB (requested 0) true = true ∧
    (copying.copy? 0 0 = some copy0 ∧ copying.poison = [] ∧ copying.drained = [] ∧ copying.pieceReady copy0 0 4 = true ∧ copying.sectorFree 0 copy0 0 = true ∧
      pieceLines ((List.range 4).map (fun j => copying.moveEnds copy0.body (0 + j))) = [] ∧ copy0.overtaken 0 (.mem (scratchKey 0 64)) = false) ∧
    ((queuedOp (matOp0 false none)).opReady (matOp0 false none) = true ∧ ((queuedOp (matOp0 true none)).crew? 0).map (fun c => c.rdv.isEmpty) = some true ∧
      ((queuedOp (matOp0 true (some (0x16, 0)))).group? 0 0).map (fun g => !g.retired && decide (2 < g.k.length)) = some true) ∧
    completing.all completesB = true ∧
    ((reducing false).allIssued (reduction0 false) = true ∧ (reduction0 false).part? 0 = none ∧ (reducing false).outOfReach 1 = false) ∧
    (let s := reducing true
     let x := reduction0 true
     s.allIssued x = true ∧ (x.part? 0).isSome = true ∧ (match x.part? 0 with
       | some p => (match hopRes (s.partLines x p (blockVas p.src p.ssc 0) false).2 (blockVas p.src p.ssc 0) false with
         | .ok places => places.length == 33 && !(s.partLines x p (blockVas p.src p.ssc 0) false).1.returnedHop (.ok places) && !p.dead
         | _ => false)
       | none => false) = true) := by decide +kernel

/-- A core whose Beryl unit has one word. -/
def berylDue (op : BOp) : State := base.modCore 0 (fun k => { k with beryl := [⟨0, 0, 5, 0, 0, 0, op⟩] })

/-- Words of the unit: each kind, with factors of its accumulator's mode, of the other one and none. -/
def berylOps : List BOp :=
  [.init 3 63 true, .deg 3 0, .load 0 0, .mul 3 6 false [(0x3F800000, 0x3F800000)], .mul 3 3 false [(1, 2)], .mul 3 3 true [], .muls 3 6 false [0x3F000000, 0x3E800000],
    .div 3 6 false [(0x3F800000, 0x40000000)], .div 3 6 false [(0, 0)], .conv 3 0 1, .norm 3 7, .rd 5 false 3 63 1, .rd 5 true 3 0 1, .save 3]

theorem witness_BerylSteps :
    (∀ op ∈ berylOps, ((berylDue op).core 0).beryl = [⟨0, 0, 5, 0, 0, 0, op⟩] ∧
      ((berylDue op).group? 0 0).map (fun g => !g.retired && decide (3 < g.q.length) && decide (5 < 16 * g.nblk)) = some true) ∧
    (((berylDue (.init 3 63 true)).modGroup 0 0 Group.retire).group? 0 0).map (·.retired) = some true ∧
    (((berylDue (.init 3 63 true)).modGroup 0 0 Group.retire).modCore 0 (fun k => { k with beryl := [] })).berylLeft 0 0 = false ∧
    (((berylDue (.save 3)).modGroup 0 0 (fun g => { g with mws := [outstanding 5 .store .none [placeAcc 0 (.mem (scratchKey 0 0)) 16 0 0]] })).group? 0 0).map
      (fun g => g.mws.any (fun m => m.seq == 5)) = some true := by decide +kernel

/-! ### The machine as a whole -/

theorem witness_DecodeOfEncode : addV.wf = true ∧ (encode addV).isSome = true := by decide +kernel

theorem witness_EncodeOfDecode : decode ((encode addV).getD 0) = .ok addV := by decide +kernel

theorem witness_StepKeepsMemoryCanonical : Memory.wf State.reset.mem = true ∧ Memory.wf (withBar addV (barOf 1 0 0)).mem = true := by decide +kernel

theorem witness_StepRunsDecodedWord :
    (let s := State.reset.withFetchWord 96 ((encode addV).getD 0).toNat
     s.issue = [⟨0, 0, 0⟩] ∧ (s.ent? ⟨0, 0, 0⟩).map (fun e => decode ((e.code[e.pos]?).getD 0)) = some (.ok addV)) ∧
    ((State.reset.withFetchWord 96 (2 ^ 96 - 1)).ent? ⟨0, 0, 0⟩).map (fun e => match decode ((e.code[e.pos]?).getD 0) with
      | .error _ => true
      | .ok _ => false) = some true ∧
    (State.reset.dev.power = true ∧ ({ State.reset with dev := { State.reset.dev with power := false } } : State).issue = []) := by decide +kernel

/-! ### Decoding: words written out field by field at the bit places of R159, R163 and R164 -/

/-- A word from its header and its fields CLASS, MINOR, TYPE, DST, SRCA, SRCB and FS. -/
def fields (hdr cls minor ty d a b fs : Nat) : Code :=
  BitVec.ofNat 96 (cls * 2 ^ 90 + minor * 2 ^ 84 + ty * 2 ^ 81 + d * 2 ^ 72 + a * 2 ^ 63 + b * 2 ^ 54 + fs * 2 ^ 16 + hdr)

/-- Class 0x00: BR to block 1 by SRCA 0x1FF and IMM32 at bit 22. -/
theorem test_decode_br : decode (fields 0x0010 0 0 0 0 0x1FF 0 (1 * 2 ^ 6)) = .ok (.br ⟨⟨0, false, 1, 0, false, false⟩, 0, .v 0, .imm, .v 0, .i ⟨1, 0, false, false, 0⟩⟩) := by decide +kernel

/-- Class 0x01: SRD S6, PARAM (code 0x191). -/
theorem test_decode_srd : decode (fields 7 1 0 0 0x106 0x191 0 0) = .ok (.srd (wr 0 (.s 6) (.sys .param) (.v 0) (.v 0))) := by decide +kernel

/-- Class 0x01: RACQ.try P2, 6 has SUB2 1. -/
theorem test_decode_racqTry : decode (fields 7 1 2 0 0x142 0x1FF 0 (6 * 2 ^ 6 + 1 * 2 ^ 4)) = .ok (.racqTry (wi 0 (.p 2) .imm (.v 0) 6 (sub := 1))) := by decide +kernel

/-- Class 0x02: PAND.w P4, P1, P2. -/
theorem test_decode_pand : decode (fields 7 2 0 2 0x144 0x141 0x142 0) = .ok (.pand (wr 2 (.p 4) (.p 1) (.p 2) (.v 0))) := by decide +kernel

/-- Class 0x04: IADDS.u.b V4, V1, V2 has UNS at bit 19. -/
theorem test_decode_iadds : decode (fields 7 4 2 0 4 1 2 (2 ^ 3)) = .ok (.iadds ⟨hd, 0, .v 4, .v 1, .v 2, .r ⟨.v 0, 0, 0, 0, 0, true, false, 0⟩⟩) := by decide +kernel

/-- Class 0x05: IMAD.d S5, S1, S2, S3 has SRCC at bit 45. -/
theorem test_decode_imad : decode (fields 7 5 2 3 0x105 0x101 0x102 (0x103 * 2 ^ 29)) = .ok (.imad (wr 3 (.s 5) (.s 1) (.s 2) (.s 3))) := by decide +kernel

/-- Class 0x06: TERN.d V7, V1, V2, V3, 0x96 has IMM8 at bit 24. -/
theorem test_decode_tern : decode (fields 7 6 5 3 7 1 2 (3 * 2 ^ 29 + 0x96 * 2 ^ 8)) = .ok (.tern (wr 3 (.v 7) (.v 1) (.v 2) (.v 3) (imm8 := 0x96))) := by decide +kernel

/-- Class 0x07: FSH.r.w V5, V2, V1, V4 has SUB 1. -/
theorem test_decode_fsh : decode (fields 7 7 5 2 5 2 1 (4 * 2 ^ 29 + 1 * 2 ^ 4)) = .ok (.fsh (wr 2 (.v 5) (.v 2) (.v 1) (.v 4) (sub := 1))) := by decide +kernel

/-- Class 0x08: CLZ.w V3, V3. -/
theorem test_decode_clz : decode (fields 7 8 1 2 3 3 0 0) = .ok (.clz (wr 2 (.v 3) (.v 3) (.v 0) (.v 0))) := by decide +kernel

/-- Class 0x09: SEL.h V6, V2, V3, P4. -/
theorem test_decode_sel : decode (fields 7 9 1 1 6 2 3 (0x144 * 2 ^ 29)) = .ok (.sel (wr 1 (.v 6) (.v 2) (.v 3) (.p 4))) := by decide +kernel

/-- Class 0x0C: SHFL.down.h V5, V4.l0s1 and COMPACT.w V20, V8, P5. -/
theorem test_decode_compact : decode (fields 7 0x0C 5 2 20 8 0x145 0) = .ok (.compact (wr 2 (.v 20) (.v 8) (.p 5) (.v 0))) := by decide +kernel

/-- Class 0x10: FFMA.f32.rtz V9, V1, V2, V9 has RND 1 at bit 16. -/
theorem test_decode_ffma : decode (fields 7 0x10 3 2 9 1 2 (9 * 2 ^ 29 + 1)) = .ok (.ffma ⟨hd, 2, .v 9, .v 1, .v 2, .r ⟨.v 9, 0, 0, 0, 0, false, false, 1⟩⟩) := by decide +kernel

/-- Class 0x12: FSIGM.bf16 V12, V12. -/
theorem test_decode_fsigm : decode (fields 7 0x12 9 1 12 12 0 0) = .ok (.fsigm (wr 1 (.v 12) (.v 12) (.v 0) (.v 0))) := by decide +kernel

/-- Class 0x13: the bytes that the spec gives for FCVT.p1.e4m3.f32 V6, V3. -/
theorem test_decode_fcvt : decode (codeOfBytes [0x07, 0x00, 0x10, 0x00, 0x02, 0x00, 0x00, 0x80, 0x01, 0x06, 0x08, 0x4C]) =
    .ok (.fcvt (wr 4 (.v 6) (.v 3) (.v 0) (.v 0) (sub := 1) (ty2 := 2))) := by decide +kernel

/-- Class 0x14: FDOT.f32.e4m3 V30, V10, V11, V30 has TYPE2 4 at bit 32. -/
theorem test_decode_fdot : decode (fields 7 0x14 4 2 30 10 11 (30 * 2 ^ 29 + 4 * 2 ^ 16)) = .ok (.fdot (wr 2 (.v 30) (.v 10) (.v 11) (.v 30) (ty2 := 4))) := by decide +kernel

/-- Class 0x18: ST.d.rel.system B0(V3+8), V9 has ORDER 2, SCOPE 5 and IMM24 8. -/
theorem test_decode_st : decode (fields 7 0x18 1 3 0 3 9 (2 * 2 ^ 33 + 5 * 2 ^ 28 + 8 * 2 ^ 4)) = .ok (.st ⟨hd, 3, .v 0, .v 3, .v 9, .m ⟨0, 2, 0, 5, 8, 0⟩⟩) := by decide +kernel

/-- Class 0x1B: CELLADD.q.f32 B3(V4+0), V7 has SUBM 0 and BIDX 3. -/
theorem test_decode_celladd : decode (fields 7 0x1B 2 4 0 4 7 3) = .ok (.celladd ⟨hd, 4, .v 0, .v 4, .v 7, .m ⟨0, 0, 0, 0, 0, 3⟩⟩) := by decide +kernel

/-- Class 0x1C: FENCE.full.device has SUBM 2 and SCOPE 4. -/
theorem test_decode_fence : decode (fields 7 0x1C 0 0 0 0 0 (2 * 2 ^ 35 + 4 * 2 ^ 28)) = .ok (.fence ⟨hd, 0, .v 0, .v 0, .v 0, .m ⟨2, 0, 0, 4, 0, 0⟩⟩) := by decide +kernel

/-- Class 0x1D: TBARRIVE S3, 768. -/
theorem test_decode_tbarrive : decode (fields 7 0x1D 4 0 0 0x103 0x1FF (768 * 2 ^ 6)) = .ok (.tbarrive (wi 0 (.v 0) (.s 3) .imm 768)) := by decide +kernel

/-- Class 0x1E: XRED (S14). -/
theorem test_decode_xred : decode (fields 7 0x1E 1 0 0 0x10E 0 0) = .ok (.xred (wr 0 (.v 0) (.s 14) (.v 0) (.v 0))) := by decide +kernel

/-- Class 0x20: TWAIT K2 (code 0x17A). -/
theorem test_decode_twait : decode (fields 7 0x20 7 0 0 0x17A 0 0) = .ok (.twait twaitW) := by decide +kernel

/-- Class 0x21: SPEXP.b V9, V8. -/
theorem test_decode_spexp : decode (fields 7 0x21 2 0 9 8 0 0) = .ok (.spexp (wr 0 (.v 9) (.v 8) (.v 0) (.v 0))) := by decide +kernel

/-- Class 0x22: QRD.w V30, Q0, 0 (Q0 is code 0x170). -/
theorem test_decode_qrd : decode (fields 7 0x22 6 2 30 0x170 0 0) = .ok (.qrd (wr 2 (.v 30) (.q 0) (.v 0) (.v 0))) := by decide +kernel

/-- WHY and FIELD of a word that is none (R173): an unassigned minor code, a reserved operand, a kind that is not accepted, a field that must be zero, a reserved TYPE. -/
theorem test_decode_refuses :
    decode (fields 7 4 0x3F 0 0 0 0 0) = .error ⟨0, 84⟩ ∧ decode (fields 7 4 0 2 0x175 1 2 0) = .error ⟨1, 72⟩ ∧ decode (fields 7 4 0 2 0x145 1 2 0) = .error ⟨2, 72⟩ ∧
    decode (fields 7 4 0 2 5 1 2 (1 * 2 ^ 29)) = .error ⟨3, 45⟩ ∧ decode (fields 7 4 0 4 5 1 2 0) = .error ⟨4, 81⟩ := by decide +kernel

/-! ### Ill-formed instructions: one for each check -/

/-- Every instruction of the list is ill-formed. -/
def illFormed (l : List Instr) : Bool := l.all (fun i => !i.wf)

/-- A word in form M with its fields. -/
def wmf (ty : BitVec 3) (d a b : Opnd) (subm : BitVec 3) (order cache : BitVec 2) (scope : BitVec 3) (imm : BitVec 24) (bidx : BitVec 4) : Body :=
  ⟨hd, ty, d, a, b, .m ⟨subm, order, cache, scope, imm, bidx⟩⟩

/-- A form that is not the word's, a name that is not its SUB's, operands of other kinds, and fields that must be zero. -/
theorem test_wf_refuses_fields : illFormed [
    .iadd (wr 2 (.v 5) (.v 1) .imm (.v 0)), .iadd (wi 2 (.v 5) (.v 1) (.v 2) 7), .racq (wi 0 (.v 0) .imm (.v 0) 6 (sub := 1)), .iadd (wr 2 (.p 5) (.v 1) (.v 2) (.v 0)),
    .iadd (wr 2 (.s 5) (.v 1) (.v 2) (.v 0)), .iadd (wr 2 (.v 5) (.v 1) (.v 2) (.v 1)), .iadd (wr 2 (.v 5) (.v 1) (.v 2) (.v 0) (imm8 := 1)),
    .iadd (wr 2 (.v 5) (.v 1) (.v 2) (.v 0) (sub := 1)), .iadd (wr 2 (.v 5) (.v 1) (.v 2) (.v 0) (ssel := 1)), .iadd (wr 2 (.v 5) (.v 1) (.v 2) (.v 0) (ty2 := 1)),
    .imad ⟨hd, 2, .v 5, .v 1, .v 2, .r ⟨.v 3, 0, 0, 0, 0, true, false, 0⟩⟩, .iadd ⟨hd, 2, .v 5, .v 1, .v 2, .r ⟨.v 0, 0, 0, 0, 0, false, true, 0⟩⟩,
    .iadd ⟨hd, 2, .v 5, .v 1, .v 2, .r ⟨.v 0, 0, 0, 0, 0, false, false, 1⟩⟩, .iadd (wi 2 (.v 5) (.v 1) .imm 7 (sub := 1)), .iadd (wr 4 (.v 5) (.v 1) (.v 2) (.v 0)),
    .ld (wmf 7 (.v 5) (.v 1) (.v 0) 0 0 0 0 0 0)] = true := by decide +kernel

/-- SUBM, ORDER, SCOPE, CACHE, IMM24 and BIDX of memory words. -/
theorem test_wf_refuses_memory : illFormed [
    .ld (wmf 2 (.v 5) (.v 1) (.v 0) 2 0 0 0 0 0), .ld (wmf 2 (.v 5) (.v 1) (.v 0) 0 2 0 0 0 0), .st (wmf 2 (.v 0) (.v 1) (.v 2) 0 1 0 0 0 0), .ld (wmf 2 (.v 5) (.v 1) (.v 0) 0 1 0 6 0 0),
    .ld (wmf 2 (.v 5) (.v 1) (.v 0) 0 0 0 1 0 0), .ldX (wmf 2 (.v 5) (.v 1) (.v 0) 0 1 0 2 0 0), .lds (wmf 2 (.v 5) (.v 1) (.a 3) 0 1 0 0 0 0), .ldX (wmf 2 (.v 5) (.v 1) (.v 0) 0 0 1 0 0 0),
    .fence (wmf 0 (.v 0) (.v 0) (.v 0) 0 0 0 0 1 0), .sld (wmf 3 (.s 5) (.s 1) (.v 0) 0 0 0 0 0 1), .monitor (wmf 3 (.p 2) (.v 1) (.v 0) 2 0 0 0 0 0),
    .acpy (wmf 2 (.s 1) (.v 1) (.v 2) 0 0 0 0 0 1)] = true := by decide +kernel

/-- What single entries refuse. -/
theorem test_wf_refuses_entries : illFormed [
    .brrd (wr 0 (.v 5) (.b 15) (.v 0) (.v 0) (ssel := 4)), .vote (wr 0 (.p 5) (.p 1) (.v 0) (.v 0) (sub := 2)), .vote (wr 0 (.s 5) (.p 1) (.v 0) (.v 0) (sub := 4)),
    .splitq (wr 0 (.s 5) (.v 0) (.v 0) (.v 0) (sub := 5)), .inarrow (wr 3 (.v 5) (.v 1) (.v 0) (.v 0)), .iext (wr 0 (.v 5) (.v 1) (.v 0) (.v 0)),
    .shfl (wr 2 (.v 5) (.v 1) (.v 0) (.v 0) (sub := 3) (imm8 := 64)), .bcast (wr 3 (.v 5) (.v 1) (.v 0) (.v 0) (ssel := 1)), .lscan (wr 2 (.v 5) (.v 1) (.v 0) (.v 0) (sub := 6)),
    .lred (wr 2 (.v 5) (.v 1) (.v 0) (.v 0) (imm8 := 1)), .fcvt (wr 4 (.v 6) (.v 3) (.v 0) (.v 0) (sub := 4) (ty2 := 2)), .fdot (wr 2 (.v 5) (.v 1) (.v 2) (.v 3) (ty2 := 2)),
    .obres ⟨⟨7, false, 1, 0, false, false⟩, 0, .s 5, .s 1, .v 0, .r ⟨.v 0, 0, 0, 0, 0, false, false, 0⟩⟩, .amzero (wr 4 (.k 2) (.v 0) (.v 0) (.v 0)),
    .mma (wr 0 (.k 2) (.v 8) (.s 1) (.v 0)), .amcvt (wr 0 (.k 2) (.s 1) (.v 0) (.v 0) (ty2 := 2)), .prune48 (wr 0 (.v 5) (.v 1) (.v 0) (.v 0) (sub := 3)),
    .bmap (wr 0 (.v 5) (.v 1) (.v 0) (.v 0)), .qmul ⟨hd, 4, .q 2, .v 1, .v 2, .r ⟨.v 0, 0, 0, 0, 0, true, false, 0⟩⟩, .qrd (wr 2 (.v 5) (.q 2) (.v 0) (.v 0) (imm8 := 64)),
    .pair ⟨7, false, 0, 2, false, false⟩ ⟨.iadd, 2, 5, 1, 2, 0⟩ ⟨.ffma, 2, 9, 1, 2, 9⟩] = true := by decide +kernel

/-! ### Effects: the spec's worked examples, each one step -/

/-- The group after a word of one lane, its results landed. -/
def after (i : Instr) (f : Group → Group) : Option Group :=
  match exec i (readyG i (fun g => f (entIn (fun e => { e with lanes := 1 }) g))) with
  | .next t => (t.group? 0 0).map Group.landAll
  | _ => none

/-- A V register of lane 0 afterwards. -/
def vAfter (i : Instr) (f : Group → Group) (r : Nat) : Option Word := (after i f).map (fun g => g.getV r 0)

/-- Lane 0's FLAGS afterwards. -/
def flagsAfter (i : Instr) (f : Group → Group) : Option (BitVec 16) := (after i f).map (fun g => (g.lane 0).flags)

/-- 10: 200 + 100 saturates to 255 and sets SAT. -/
theorem test_effect_iadds :
    let i : Instr := .iadds ⟨hd, 0, .v 4, .v 1, .v 2, .r ⟨.v 0, 0, 0, 0, 0, true, false, 0⟩⟩
    let f := fun (g : Group) => (g.setV 1 0 200).setV 2 0 100
    vAfter i f 4 = some 255 ∧ flagsAfter i f = some 0x80 := by decide +kernel

/-- 10: the majority of three words by the table 0xE8. -/
theorem test_effect_tern : vAfter (.tern (wr 2 (.v 10) (.v 1) (.v 2) (.v 3) (imm8 := 0xE8)))
    (fun g => ((g.setV 1 0 0x0F0F00FF).setV 2 0 0x00FF0F0F).setV 3 0 0xFF000F00) 10 = some 0x0F0F0F0F := by decide +kernel

/-- 10: BFE with S10 = 0x0C10 takes 12 bits from bit 16. -/
theorem test_effect_bfe : vAfter (.bfe ⟨hd, 3, .v 9, .v 4, .s 10, .r ⟨.v 0, 0, 0, 0, 0, true, false, 0⟩⟩)
    (fun g => (g.setV 4 0 0x123456789ABCDEF0).setS 10 0x0C10) 9 = some 0xABC := by decide +kernel

/-- 10: PACK.u.b of −5, 300, 17 and 255 gives 0, 255, 17, 255 and sets SAT. -/
theorem test_effect_pack :
    let i : Instr := .pack ⟨hd, 0, .v 5, .v 1, .v 2, .r ⟨.v 0, 0, 0, 0, 0, true, false, 0⟩⟩
    let f := fun (g : Group) => g.setV 1 0 0x00FF0011012CFFFB
    vAfter i f 5 = some 0xFF11FF00 ∧ flagsAfter i f = some 0x80 := by decide +kernel

/-- 10: SHFL.down.h in a group of width 8: lane 3 reads across to lane 4, and position 32 is out of range. -/
theorem test_effect_shfl :
    let i : Instr := .shfl (wr 1 (.v 5) (.v 4) (.v 0) (.v 0) (sub := 2) (ssel := 1))
    let s := (readyC i (fun c => { c with width := 8, groups := c.groups.map (fun g => { g with lanes := g.lanes.take 8 }) })).modGroup 0 0
      (fun g => (List.range 8).foldl (fun g l => g.setV 4 l (BitVec.ofNat 64 (4 * l + (4 * l + 1) * 2 ^ 16 + (4 * l + 2) * 2 ^ 32 + (4 * l + 3) * 2 ^ 48))) (entIn (fun e => { e with lanes := 0xFF }) g))
    (match exec i s with
     | .next t => (t.group? 0 0).map (fun (g : Group) => ((Group.landAll g).getV 5 0, (Group.landAll g).getV 5 3, (Group.landAll g).getV 5 7))
     | _ => none) = some (0x0004000300020001, 0x0010000F000E000D, 0x001F001F001E001D) := by decide +kernel

/-- 11: FCVT.p1.e4m3.f32 of 500.0 and 1.0 gives 0x7E and 0x38 in bytes 3 and 2, with OF and NX. -/
theorem test_effect_fcvt :
    let i : Instr := .fcvt (wr 4 (.v 6) (.v 3) (.v 0) (.v 0) (sub := 1) (ty2 := 2))
    let f := fun (g : Group) => g.setV 3 0 0x43FA00003F800000
    vAfter i f 6 = some 0x7E380000 ∧ flagsAfter i f = some (0x04 ||| 0x10) := by decide +kernel

/-- 11: F2I.u.b.f32.rne of 254.5 gives 254, and of 255.5 gives 255 with NV. -/
theorem test_effect_f2i :
    let i : Instr := .f2i ⟨hd, 0, .v 5, .v 1, .v 0, .r ⟨.v 0, 0, 2, 0, 0, true, false, 0⟩⟩
    vAfter i (fun g => g.setV 1 0 0x437E8000) 5 = some 254 ∧ vAfter i (fun g => g.setV 1 0 0x437F8000) 5 = some 255 ∧
      flagsAfter i (fun g => g.setV 1 0 0x437F8000) = some 1 := by decide +kernel

/-- 11: Q4PK.out.f32.k0 of 40.0, 0.5, 3.0, −1.25 and zeros. -/
theorem test_effect_q4pk :
    let i : Instr := .q4pk (wr 2 (.v 40) (.v 16) (.v 0) (.v 0) (sub := 1))
    let f := fun (g : Group) => ((g.setV 16 0 0x3F00000042200000).setV 17 0 0xBFA0000040400000).setV 42 0 0xAABBCCDDEEFF0011
    vAfter i f 40 = some 0xF348 ∧ vAfter i f 41 = some 0 ∧ vAfter i f 42 = some 0xAABBCCDDEEFF007F := by decide +kernel

/-- 04: the block with scale 0x7C and codes 92 58 8F F8: its first eight elements in BF16. -/
theorem test_effect_q4upk :
    let i : Instr := .q4upk (wr 1 (.v 48) (.v 40) (.v 0) (.v 0))
    let f := fun (g : Group) => (g.setV 40 0 0xF88F5892).setV 42 0 0x7C
    vAfter i f 48 = some 0x000040C0BF603E80 ∧ vAfter i f 49 = some 0x0000C1400000BE00 := by decide +kernel

/-- 13: PRUNE48.i8 of 6, −4, 4, 9, 4, −6, 1, 0. -/
theorem test_effect_prune48 : vAfter (.prune48 (wr 0 (.v 8) (.v 7) (.v 0) (.v 0))) (fun g => g.setV 7 0 0x0001FA040904FC06) 8 = some 0x0000002BFA09FC06 := by decide +kernel

/-- 09: TRAP 0x51 enters its handler with TRAPINFO 0x51 in bits 31:0. -/
theorem test_effect_trap : (match exec (.trap (wi 0 (.v 0) .imm (.v 0) 0x51)) (handled (.trap (wi 0 (.v 0) .imm (.v 0) 0x51))) with
    | .next t => (t.group? 0 0).map (fun g => (g.handler.isSome, g.cause, g.info.extractLsb' 0 32))
    | _ => none) = some (true, 0x03, 0x51) := by decide +kernel

/-- The Beryl unit's accumulator Q1 after a word. -/
def qAfter (op : BOp) (q : QAcc) : Option (List Word) :=
  match exec (.berylOpComplete 0) ((berylDue op).modGroup 0 0 (fun g => { g with q := List.replicate 4 q })) with
  | .next t => (t.group? 0 0).map (fun g => (List.range 4).map (smGet 0 (g.acc 1).coef))
  | _ => none

/-- 13: the elementary symmetric sums of 1, 2 and 3. -/
theorem test_effect_qmuls : qAfter (.muls 1 3 true [1, 2, 3]) ⟨[(0, 1)], 0, 3, true, 0⟩ = some [1, 6, 11, 6] := by decide +kernel

/-- 07: after the factors 0.5, 0.25 and 0.5 at DEG 2, QDIV by 0.75 + 0.25x leaves 0.25, 0.5 and 0.25. -/
theorem test_effect_qdiv : qAfter (.div 1 6 false [(0x3F400000, 0x3E800000)]) ⟨[(0, 0x3E400000), (1, 0x3EE00000), (2, 0x3EA00000)], 0, 2, false, 0⟩ =
    some [0x3E800000, 0x3F000000, 0x3E800000, 0] := by decide +kernel

/-- 05: with SWCHUNK 0 and SWSRC 8 offset 0x310 maps to 0x320. -/
theorem test_effect_swizzle : swizzle 0x310 0 8 = 0x320 := by decide +kernel

/-- 23: the stack and line of address 0x0012_3456_7800 under 12 and 11 stacks, and back. -/
theorem test_effect_stackMap :
    stackIdx 12 74565 1656 = 3 ∧ stackLine 12 74565 1656 = 25501368 ∧ stackIdx 11 74565 1656 = 3 ∧ stackLine 11 74565 1656 = 27812895 ∧
    lineAddr 12 3 25501368 = some 0x001234567800 := by decide +kernel

/-- 24: Q_TAIL of queue 2 of virtual function 5 at 0x081_6020 of the physical function, and at 0x2020 of its own. -/
theorem test_effect_queueTail :
    let f := fun (fn off : Nat) => match exec (.registerWrite fn off ⟨8, 1⟩) (tiers id) with
      | .next t => some (t.queue 5 2).tail
      | _ => none
    f 0 0x816020 = some 1 ∧ f 5 0x2020 = some 1 := by decide +kernel

/-- 12: INCB below its bound adds 1, and at its bound leaves the counter. -/
theorem test_effect_incb :
    let f := fun (old : Nat) => match exec (.perform ⟨0, 0⟩ 5 0) ((withWord .incb (.v 2 false) [placeAcc 0 (.mem (tier1Key 0x100)) 4 4 0]).storeAll (tier1Key 0x100) (bytesOf 4 old)) with
      | .next t => (t.group? 0 0).map (fun g => (g.getV 2 0, t.latestKey (tier1Key 0x100)))
      | _ => none
    f 3 = some (3, 4) ∧ f 4 = some (4, 4) := by decide +kernel

end Sys2Proof.Tests
end

section
/-!
PROOFS. What leaves the device's registers alone: stores, flushes of translations, traps, fences, reductions, and with them all of the loss of a module but for its mark.
-/

namespace Sys2Proof.Machine

/-- What no step of a fold changes, the fold does not change. -/
theorem foldl_keeps {α β : Type} (p : State → β) (f : State → α → State) (hf : ∀ s x, p (f s x) = p s) (l : List α) (s : State) : p (l.foldl f s) = p s := by
  induction l generalizing s with
  | nil => rfl
  | cons x xs ih => rw [List.foldl_cons, ih, hf]

/-! ### Stores -/

@[simp] theorem State.settleMem_dev (s : State) : s.settleMem.dev = s.dev := by
  unfold State.settleMem
  split_ifs <;> rfl

@[simp] theorem State.append_dev (s : State) (w : Agent) (po level : Nat) (cells : List (Nat × Byte)) (rels : List (Nat × List Seen)) :
    (s.append w po level cells rels).dev = s.dev := by
  unfold State.append
  split_ifs
  · rfl
  · exact State.settleMem_dev _

@[simp] theorem State.keepOld_dev (s : State) (crew grp reg lane : Nat) (mask : Word) : (s.keepOld crew grp reg lane mask).dev = s.dev := by
  unfold State.keepOld
  dsimp only
  split_ifs <;> rfl

@[simp] theorem State.pokeReg_dev (s : State) (p : Place) (b : Byte) : (s.pokeReg p b).dev = s.dev := by
  cases p with
  | mem _ => rfl
  | vreg _ _ _ _ _ => exact State.keepOld_dev ..

@[simp] theorem State.storeAt_dev (s : State) (w : Agent) (po level : Nat) (p : Place) (bytes : List Byte) (rels : List (Nat × List Seen)) :
    (s.storeAt w po level p bytes rels).dev = s.dev := by
  cases p with
  | mem _ => exact State.append_dev ..
  | vreg _ _ _ _ _ => exact foldl_keeps State.dev _ (fun s i => State.pokeReg_dev s _ _) _ s

@[simp] theorem State.wake_dev (s : State) (keys : List Nat) : (s.wake keys).dev = s.dev := by
  unfold State.wake
  split_ifs <;> rfl

@[simp] theorem State.put_dev (s : State) (w : Agent) (po level : Nat) (p : Place) (bytes : List Byte) (rels : List (Nat × List Seen)) :
    (s.put w po level p bytes rels).dev = s.dev := by
  unfold State.put
  dsimp only
  split_ifs <;> simp

@[simp] theorem State.storeAll_dev (s : State) (k : Nat) (bytes : List Byte) : (s.storeAll k bytes).dev = s.dev := by simp [State.storeAll]

@[simp] theorem State.tearStores_dev (s : State) (k bits : Nat) : (s.tearStores k bits).dev = s.dev := by
  unfold State.tearStores
  split_ifs <;> rfl

@[simp] theorem State.tbUpdate_dev (s : State) (w : Agent) (po k : Nat) (u : TbUp) (rels : List (Nat × List Seen)) : (s.tbUpdate w po k u rels).dev = s.dev := by
  unfold State.tbUpdate
  dsimp only
  rw [State.tearStores_dev, State.put_dev]

/-! ### Translations that leave their caches -/

@[simp] theorem State.orLeaf_dev (s : State) (k : Nat) (a d : Bool) : (s.orLeaf k a d).dev = s.dev := by
  unfold State.orLeaf
  dsimp only
  split_ifs <;> simp

@[simp] theorem State.flushEntry_dev (s : State) (e : TlbE) : (s.flushEntry e).dev = s.dev := by
  unfold State.flushEntry
  split_ifs <;> simp

@[simp] theorem State.flushAll_dev (s : State) (l : List TlbE) : (s.flushAll l).dev = s.dev := foldl_keeps State.dev _ State.flushEntry_dev l s

@[simp] theorem State.dropModule_dev (s : State) (m : Nat) : (s.dropModule m).dev = s.dev := State.flushAll_dev ..

/-! ### Traps -/

@[simp] theorem State.fatal_dev (s : State) (uid : Nat) (cause : BitVec 8) : (s.fatal uid cause).dev = s.dev := by
  unfold State.fatal
  split <;> rfl

@[simp] theorem State.enter_dev (s : State) (m : Member) (st : Nat) : (s.enter m st).dev = s.dev := by
  unfold State.enter
  split <;> rfl

@[simp] theorem State.takeTrap_dev (s : State) (uid i : Nat) (t : Trap) : (s.takeTrap uid i t).dev = s.dev := by
  unfold State.takeTrap
  split
  · rfl
  · split
    · exact State.fatal_dev ..
    · exact State.enter_dev ..

@[simp] theorem State.deliver_dev (s : State) (uid i : Nat) : (s.deliver uid i).dev = s.dev := by
  unfold State.deliver
  split
  · rfl
  · split
    · split_ifs
      · exact State.takeTrap_dev ..
      · rfl
    · rfl

@[simp] theorem State.raise_dev (s : State) (m : Member) (cause : BitVec 8) (info : Word) : (s.raise m cause info).dev = s.dev := by
  unfold State.raise
  split_ifs
  · exact State.fatal_dev ..
  · exact State.deliver_dev ..

@[simp] theorem State.deliverWord_dev (s : State) (uid gi seq : Nat) (cause : BitVec 8) (info : Word) : (s.deliverWord uid gi seq cause info).dev = s.dev := by
  unfold State.deliverWord
  split
  · split_ifs
    · rfl
    · rfl
    · exact State.raise_dev ..
  · rfl

@[simp] theorem State.lostFault_dev (s : State) (c : Crew) (gi : Nat) (m : MemWord) (line mod : Nat) : (s.lostFault c gi m line mod).dev = s.dev :=
  State.deliverWord_dev ..

/-! ### Fences -/

@[simp] theorem State.endFence_dev (s : State) (c : Crew) (gi : Nat) (f : Fence) : (s.endFence c gi f).dev = s.dev := by
  unfold State.endFence
  dsimp only
  split <;> rfl

@[simp] theorem State.settleGroup_dev (s : State) (uid gi : Nat) : (s.settleGroup uid gi).dev = s.dev := by
  unfold State.settleGroup
  split
  · refine foldl_keeps State.dev _ (fun s f => ?_) _ s
    split
    · split_ifs
      · exact State.endFence_dev ..
      · rfl
    · rfl
  · rfl

@[simp] theorem State.settleFences_dev (s : State) : s.settleFences.dev = s.dev := by
  refine foldl_keeps State.dev _ (fun s c => foldl_keeps State.dev _ (fun s gi => ?_) _ s) _ s
  split_ifs
  · rfl
  · exact State.settleGroup_dev ..

/-! ### Reductions -/

@[simp] theorem State.partError_dev (s : State) (p : XPart) (kind : Nat) : (s.partError p kind).dev = s.dev := by
  unfold State.partError
  split
  · split_ifs
    · rfl
    · exact State.tbUpdate_dev ..
  · rfl

@[simp] theorem State.partCount_dev (s : State) (p : XPart) (ids : List Nat) : (s.partCount p ids).dev = s.dev := by
  unfold State.partCount
  split
  · split_ifs
    · rfl
    · exact State.tbUpdate_dev ..
  · rfl

@[simp] theorem State.retireReduction_dev (s : State) (i : Nat) : (s.retireReduction i).dev = s.dev := by
  unfold State.retireReduction
  split
  · split_ifs
    · exact State.settleMem_dev _
    · rfl
  · rfl

@[simp] theorem State.endBlock_dev (s : State) (i b : Nat) : (s.endBlock i b).dev = s.dev := State.retireReduction_dev ..

@[simp] theorem State.failBlock_dev (s : State) (i b kind : Nat) : (s.failBlock i b kind).dev = s.dev := by
  unfold State.failBlock
  split
  · rfl
  · exact (State.endBlock_dev ..).trans (foldl_keeps State.dev _ (fun s p => by simp) _ s)

@[simp] theorem State.failLost_dev (s : State) (m : Nat) : (s.failLost m).dev = s.dev := by
  refine foldl_keeps State.dev _ (fun s e => ?_) _ s
  dsimp only
  split_ifs
  · exact foldl_keeps State.dev _ (fun s b => State.failBlock_dev s _ b 4) _ s
  · rfl

/-! ### A lost module -/

@[simp] theorem State.loseWords_dev (s : State) (m : Nat) : (s.loseWords m).dev = s.dev := by
  refine foldl_keeps State.dev _ (fun s x => ?_) _ s
  split
  · rfl
  · split
    · rfl
    · split
      · rfl
      · split
        · rfl
        · exact State.lostFault_dev ..

@[simp] theorem State.loseCopies_dev (s : State) (m : Nat) : (s.loseCopies m).dev = s.dev := rfl

@[simp] theorem State.loseMonitors_dev (s : State) (m : Nat) : (s.loseMonitors m).dev = s.dev := rfl

/-- Of the device's registers the loss of a module changes what its mark changes (R394, R395). -/
theorem State.loseModule_dev (s : State) (m : Nat) : (s.loseModule m).dev = (s.markLost m).dev := by simp [State.loseModule]

@[simp] theorem State.markLost_ports (s : State) (m : Nat) : (s.markLost m).dev.ports = s.dev.ports := by
  unfold State.markLost
  split_ifs <;> rfl

/-- A mark sets its own bit and keeps the others. -/
theorem State.markLost_lost (s : State) {m n : Nat} (hn : n < 256) : (s.markLost m).dev.lost.getLsbD n = (decide (n = m) || s.dev.lost.getLsbD n) := by
  have hbit : (BitVec.ofNat 256 (2 ^ m)).getLsbD n = decide (n = m) := by
    rw [BitVec.getLsbD_ofNat, Nat.testBit_two_pow]
    simp [hn, eq_comm]
  unfold State.markLost
  split_ifs with h
  · by_cases hm : n = m
    · subst hm; simp [h]
    · simp [hm]
  · rw [BitVec.getLsbD_or, hbit, Bool.or_comm]

@[simp] theorem State.loseModule_ports (s : State) (m : Nat) : (s.loseModule m).dev.ports = s.dev.ports := by rw [State.loseModule_dev, State.markLost_ports]

theorem State.loseModule_lost (s : State) {m n : Nat} (hn : n < 256) : (s.loseModule m).dev.lost.getLsbD n = (decide (n = m) || s.dev.lost.getLsbD n) := by
  rw [State.loseModule_dev, State.markLost_lost s hn]

/-- A lost module has its mark. -/
theorem State.loseModule_self (s : State) {m : Nat} (hm : m < 256) : (s.loseModule m).dev.lost.getLsbD m = true := by
  rw [State.loseModule_lost s hm, decide_eq_true rfl, Bool.true_or]

/-- The loss of several modules marks each of them and keeps the marks that stood. -/
theorem State.loseModules_lost (l : List Nat) (s : State) {n : Nat} (hn : n < 256) :
    (l.foldl (fun s m => s.loseModule m) s).dev.lost.getLsbD n = (l.contains n || s.dev.lost.getLsbD n) := by
  induction l generalizing s with
  | nil => rfl
  | cons m ms ih => rw [List.foldl_cons, ih, State.loseModule_lost s hn, List.contains_cons, Bool.or_left_comm, Bool.or_assoc]; rfl

end Sys2Proof.Machine
end

section
/-!
PROOFS. Hinge links, lost modules, module reset and boot, and function-level reset (R7, R89, R391, R394 to R397, R400).
-/

namespace Sys2Proof.Machine

open Sys2Proof.Claims

/-! ### Ports -/

theorem State.port_of_getElem {s : State} {p : Nat} {x : Port} (h : s.dev.ports[p]? = some x) : s.port p = x := by simp [State.port, h]

/-- The port that is changed takes its new value, and nothing else changes. -/
theorem State.modPort_eq {s : State} {p : Nat} {x : Port} (h : s.dev.ports[p]? = some x) (f : Port → Port) :
    s.modPort p f = { s with dev := { s.dev with ports := s.dev.ports.set p (f x) } } := by
  have hset : s.dev.ports.modify p f = s.dev.ports.set p (f x) := by rw [List.modify_eq_set_getElem?, h]; rfl
  show ({ s with dev := { s.dev with ports := s.dev.ports.modify p f } } : State) = _
  rw [hset]

/-- A module is out of reach when no port of its route mask is up (R395). -/
theorem State.outOfReach_of_down {s : State} {m : Nat} {r : BitVec 18} (hr : s.dev.route[m]? = some r)
    (h : ∀ q y, q < 18 → r.getLsbD q = true → s.dev.ports[q]? = some y → y.up = false) : s.outOfReach m = true := by
  rw [State.outOfReach, Bool.or_eq_true, List.all_eq_true]
  refine .inr fun q hq => ?_
  rw [hr, Option.getD_some]
  cases hrq : r.getLsbD q with
  | false => rfl
  | true =>
    cases hy : s.dev.ports[q]? with
    | none => rfl
    | some y => simp [h q y (List.mem_range.mp hq) hrq hy]

/-- A module that a port cuts off, or one that is lost, is lost once the port's modules are. -/
theorem State.cutOff_or_lost {s : State} {p m : Nat} {r : BitVec 18} (hm : m < 256) (hr : s.dev.route[m]? = some r) (hp : r.getLsbD p = true) (ho : s.outOfReach m = true) :
    ((s.cutOff p).contains m || s.dev.lost.getLsbD m) = true := by
  cases hl : s.dev.lost.getLsbD m with
  | true => exact Bool.or_true _
  | false =>
    rw [Bool.or_false, List.contains_iff_mem, State.cutOff, List.mem_filter, List.mem_range]
    exact ⟨hm, by rw [hr, hl, ho, Option.getD_some, hp]; rfl⟩

theorem State.portDown_ports {s : State} {p : Nat} {x : Port} (h : s.dev.ports[p]? = some x) :
    (s.portDown p).dev.ports = s.dev.ports.set p { x with up := false } := by
  unfold State.portDown
  dsimp only
  rw [foldl_keeps (fun s => s.dev.ports) _ State.loseModule_ports, State.modPort_eq h]; rfl

/-- A port that goes down loses the modules that no other up port of their route mask serves (R395). -/
theorem State.portDown_lost {s : State} {p m : Nat} {x : Port} {r : BitVec 18} (hx : s.dev.ports[p]? = some x) (hm : m < 256) (hr : s.dev.route[m]? = some r)
    (hp : r.getLsbD p = true) (hdown : ∀ q y, q ≠ p → q < 18 → r.getLsbD q = true → s.dev.ports[q]? = some y → y.up = false) :
    (s.portDown p).dev.lost.getLsbD m = true := by
  unfold State.portDown
  dsimp only
  rw [State.modPort_eq hx, State.loseModules_lost _ _ hm]
  refine State.cutOff_or_lost hm hr hp (State.outOfReach_of_down hr fun q y hq hrq hy => ?_)
  replace hy : (s.dev.ports.set p { x with up := false })[q]? = some y := hy
  by_cases hqp : q = p
  · subst hqp
    rw [List.getElem?_set_self (List.getElem?_eq_some_iff.mp hx).1, Option.some.injEq] at hy
    rw [← hy]
  · rw [List.getElem?_set_ne (Ne.symm hqp)] at hy
    exact hdown q y hqp hq hrq hy

/-- The four events of a port. -/
theorem portSteps (port : Nat) (s : State) (x : Port) (hport : port < 18) (hx : s.dev.ports[port]? = some x) :
    let gives := fun (y : Port) (v : List (Nat × Nat)) => Host.Outcome.next ({ s with dev := { s.dev with ports := s.dev.ports.set port y, vectors := s.dev.vectors ++ v } } : State)
    (x.up = true → exec (.flitRetry port) s = gives { x with retry := x.retry + 1 } []) ∧
    (∀ peer, x.up = false → exec (.portUp port peer) s = gives { x with up := true, peer := peer } [(0, 3)]) ∧
    (x.up = true → 64 ≤ x.retry.toNat → Goes (.flitRetryLimit port) s (fun t => t.dev.lost.getLsbD x.peer.toNat = true)) ∧
    (x.up = true → Goes (.portDown port) s (fun t => t.dev.ports = s.dev.ports.set port { x with up := false } ∧
      ∀ (m : Nat) (r : BitVec 18), m < 256 → s.dev.route[m]? = some r → r.getLsbD port = true →
        (∀ q y, q ≠ port → q < 18 → r.getLsbD q = true → s.dev.ports[q]? = some y → y.up = false) → t.dev.lost.getLsbD m = true)) := by
  have hget := State.port_of_getElem hx
  dsimp only
  refine ⟨fun hup => ?_, fun peer hup => ?_, fun hup hretry => ?_, fun hup => ?_⟩
  · have h : port < 18 ∧ (s.port port).up = true := ⟨hport, hget ▸ hup⟩
    rw [List.append_nil]
    show execFlitRetry port s = _
    rw [execFlitRetry, if_pos h, State.modPort_eq hx]
  · have h : port < 18 ∧ (!(s.port port).up) = true := ⟨hport, by simp [hget, hup]⟩
    show execPortUp port peer s = _
    rw [execPortUp, if_pos h, State.portUp, State.modPort_eq hx]; rfl
  · have h : port < 18 ∧ (s.port port).up = true ∧ 64 ≤ (s.port port).retry.toNat := ⟨hport, hget ▸ hup, hget ▸ hretry⟩
    exact ⟨_, if_pos h, hget ▸ State.loseModule_self _ (s.port port).peer.isLt⟩
  · have h : port < 18 ∧ (s.port port).up = true := ⟨hport, hget ▸ hup⟩
    exact ⟨_, if_pos h, State.portDown_ports hx, fun m r hm hr hp hdown => State.portDown_lost hx hm hr hp hdown⟩

/-- A peer that reports a reset is lost (R395). -/
theorem peerReset_lost (m : BitVec 8) (s : State) (h : ∃ p ∈ s.dev.ports, p.up = true ∧ p.peer = m) :
    Goes (.peerReset m) s (fun t => t.dev.lost.getLsbD m.toNat = true) := by
  obtain ⟨p, hp, hup, hpeer⟩ := h
  have hany : s.dev.ports.any (fun p => p.up && p.peer == m) = true := List.any_eq_true.mpr ⟨p, hp, by simp [hup, hpeer]⟩
  exact ⟨_, if_pos hany, State.loseModule_self s m.isLt⟩

/-! ### Module reset -/

/-- A key that a list does not hold reads as unlisted. -/
theorem smGet_of_not_mem {α : Type} (d : α) (m : SMap α) (k : Nat) (h : k ∉ m.map (·.1)) : smGet d m k = d := by
  induction m with
  | nil => rfl
  | cons e t ih =>
    obtain ⟨a, v⟩ := e
    simp only [List.map_cons, List.mem_cons, not_or] at h
    rw [smGet, if_neg h.1, ih h.2]

theorem cellAt_of_not_mem (l : List (Nat × Byte)) (k : Nat) (h : k ∉ l.map (·.1)) : cellAt l k = none := by
  rw [cellAt, List.find?_eq_none.mpr, Option.map_none]
  intro e he hk
  exact h (List.mem_map.mpr ⟨e, he, by simpa using hk⟩)

/-- A byte that neither memory nor a drained store lists is unlisted in coherence order too. -/
theorem State.latestKey_of_not_mem (s : State) (k : Nat) (hm : k ∉ s.mem.map (·.1)) (hd : k ∉ s.drained.flatMap (fun d => d.cells.map (·.1))) :
    s.latestKey k = unlistedByte := by
  have hcell : ∀ d ∈ s.drained, cellAt d.cells k = none := fun d hdm => cellAt_of_not_mem _ _ fun hk => hd (List.mem_flatMap.mpr ⟨d, hdm, hk⟩)
  rw [State.latestKey, Memory.get, smGet_of_not_mem _ _ _ hm]
  generalize s.drained = l at hcell
  induction l with
  | nil => rfl
  | cons d t ih => rw [List.foldl_cons, hcell d List.mem_cons_self, Option.getD_none]; exact ih fun d hd => hcell d (List.mem_cons_of_mem _ hd)

/-- A byte given for each of some keys is read back at those keys. -/
theorem Memory.get_setAll_map (keys : List Nat) (f : Nat → Byte) (k : Nat) : Memory.get (Memory.setAll [] (keys.map (fun k => (k, f k)))) k = if k ∈ keys then f k else unlistedByte := by
  rw [Memory.get_setAll, List.find?_map]
  by_cases hk : k ∈ keys
  · obtain ⟨j, hj⟩ : ∃ j, keys.find? ((fun e : Nat × Byte => e.1 == k) ∘ fun k => (k, f k)) = some j :=
      Option.isSome_iff_exists.mp (List.find?_isSome.mpr ⟨k, hk, by simp⟩)
    have hjk : j = k := by simpa using List.find?_some hj
    rw [hj, if_pos hk, hjk]; rfl
  · have hnone : keys.find? ((fun e : Nat × Byte => e.1 == k) ∘ fun k => (k, f k)) = none := by
      rw [List.find?_eq_none]
      intro j hj hjk
      exact hk (by simpa using (by simpa using hjk : j = k) ▸ hj)
    rw [hnone, if_neg hk]; rfl

/-- A module reset leaves host memory and the memory of other modules as they were (R7). -/
theorem State.resetMem_outside (s : State) (k : Nat) (hk : k % 8 = 2 ∨ k % 8 = 3) : s.resetMem.get k = s.latestKey k := by
  have h4 : k % 8 < 4 := by omega
  have h2 : ¬ k % 8 < 2 := by omega
  unfold State.resetMem
  dsimp only
  rw [Memory.get_setAll_map, if_neg h2]
  split_ifs with hmem
  · rfl
  · simp only [List.mem_filter, List.mem_eraseDups, List.mem_append, h4, decide_true, and_true, not_or] at hmem
    exact (s.latestKey_of_not_mem k hmem.1 hmem.2).symm

/-! ### Boot -/

/-- Step 4 changes the measurements alone. -/
theorem State.measure_eq (s : State) : s.measure = { s with dev := { s.dev with
    meas := (s.flash.stages.mapIdx (fun i x => (i, x))).foldl (fun l e => l.modify (measOf e.1) (fun m => extendMeas m e.2)) s.dev.meas } } := by
  unfold State.measure
  generalize s.flash.stages.mapIdx (fun i x => (i, x)) = l
  induction l generalizing s with
  | nil => rfl
  | cons e t ih => rw [List.foldl_cons, ih]; rfl

/-- A boot under way. -/
theorem State.booting_of {s : State} (hp : s.dev.power = true) (hr : s.dev.ready = false) (hh : s.dev.halt = false) : s.booting = true := by
  simp [State.booting, hp, hr, hh]

/-- Before step 6 a step of boot ends, and STAGE shows the next. -/
theorem exec_bootNext {s : State} (hb : s.booting = true) (hst : s.dev.stage.toNat < 6) {d : Dev} (hd : s.bootStep s.dev.stage.toNat = { s with dev := d }) :
    exec (.moduleReset .next) s = .next { s with dev := { d with stage := s.dev.stage + 1 } } := by
  have hstage : BitVec.ofNat 3 (s.dev.stage.toNat + 1) = s.dev.stage + 1 := by bv_omega
  refine (if_pos ⟨hb, hst⟩).trans ?_
  rw [hd, hstage]; rfl

/-- What the last step of boot may change: the stacks' records, the ports, and vectors that join those that stand. No port goes down, and none disappears. -/
structure BootKeeps (s t : State) : Prop where
  rest : ∃ hbm ports vectors, t = { s with dev := { s.dev with hbm := hbm, ports := ports, vectors := s.dev.vectors ++ vectors } }
  length : t.dev.ports.length = s.dev.ports.length
  up : ∀ p, (s.port p).up = true → (t.port p).up = true

theorem BootKeeps.refl (s : State) : BootKeeps s s := ⟨⟨s.dev.hbm, s.dev.ports, [], by rw [List.append_nil]⟩, rfl, fun _ h => h⟩

theorem BootKeeps.trans {s t u : State} (h : BootKeeps s t) (h' : BootKeeps t u) : BootKeeps s u := by
  obtain ⟨⟨_, _, v, rfl⟩, hl, hu⟩ := h
  obtain ⟨⟨hbm, ports, w, rfl⟩, hl', hu'⟩ := h'
  exact ⟨⟨hbm, ports, v ++ w, by rw [← List.append_assoc]⟩, hl'.trans hl, fun p hp => hu' p (hu p hp)⟩

/-- A fold keeps what each of its steps keeps. -/
theorem BootKeeps.foldl {α : Type} {f : State → α → State} (hf : ∀ s x, BootKeeps s (f s x)) (l : List α) (s : State) : BootKeeps s (l.foldl f s) := by
  induction l generalizing s with
  | nil => exact .refl s
  | cons x xs ih => exact (hf s x).trans (ih _)

theorem bootKeeps_recommend (s : State) (k : Nat) : BootKeeps s (s.recommend k) := by
  unfold State.recommend
  dsimp only
  split_ifs
  · exact ⟨⟨_, s.dev.ports, [(0, 4)], rfl⟩, rfl, fun _ h => h⟩
  · exact .refl s

/-- A port that trained in boot goes up, unless it was up (R396). -/
def State.train (s : State) (e : Nat × BitVec 8) : State := if (s.port e.1).up then s else s.portUp e.1 e.2

theorem State.port_portUp (s : State) (p : Nat) (peer : BitVec 8) (q : Nat) :
    (s.portUp p peer).port q = if q = p ∧ q < s.dev.ports.length then { s.port q with up := true, peer := peer } else s.port q := by
  show ((s.dev.ports.modify p _)[q]?).getD default = _
  rw [List.getElem?_modify]
  by_cases hq : q < s.dev.ports.length
  · by_cases hp : q = p
    · subst hp; simp [hq, State.port]
    · simp [hp, Ne.symm hp, State.port]
  · simp [hq, State.port]

theorem bootKeeps_train (s : State) (e : Nat × BitVec 8) : BootKeeps s (s.train e) := by
  unfold State.train
  split_ifs
  · exact .refl s
  · refine ⟨⟨s.dev.hbm, _, [(0, 3)], rfl⟩, List.length_modify .., fun p hp => ?_⟩
    rw [State.port_portUp]
    split_ifs
    · rfl
    · exact hp

theorem State.train_up (s : State) (e : Nat × BitVec 8) (h : e.1 < s.dev.ports.length) : ((s.train e).port e.1).up = true := by
  unfold State.train
  split_ifs with hup
  · exact hup
  · rw [State.port_portUp, if_pos ⟨rfl, h⟩]

/-- Every port that trained is up in the end. -/
theorem State.trainAll_up (l : List (Nat × BitVec 8)) (s : State) (e : Nat × BitVec 8) (he : e ∈ l) (h : e.1 < s.dev.ports.length) :
    ((l.foldl State.train s).port e.1).up = true := by
  induction l generalizing s with
  | nil => exact absurd he List.not_mem_nil
  | cons x xs ih =>
    rw [List.foldl_cons]
    rcases List.mem_cons.mp he with rfl | hxs
    · exact (BootKeeps.foldl bootKeeps_train xs _).up _ (s.train_up e h)
    · exact ih _ hxs ((bootKeeps_train s x).length ▸ h)

/-- Vector 4 tells, once, of the thermal shutdown that went before (R408). -/
def State.tellThermal (s : State) : State := if s.flash.thermal then ({ s with flash := { s.flash with thermal := false } } : State).vector0 4 else s

theorem State.tellThermal_eq (s : State) : ∃ v, s.tellThermal =
    { s with flash := { s.flash with thermal := false }, dev := { s.dev with vectors := s.dev.vectors ++ v } } ∧ (s.flash.thermal = true → (0, 4) ∈ v) := by
  unfold State.tellThermal
  split_ifs with h
  · exact ⟨[(0, 4)], rfl, fun _ => List.mem_singleton_self _⟩
  · have hflash : s.flash = { s.flash with thermal := false } := by rw [← Bool.eq_false_of_not_eq_true h]
    exact ⟨[], by rw [List.append_nil, ← hflash], fun h' => absurd h' h⟩

/-- The last step of boot by its parts: recommendations that survive, the thermal vector, the ports that trained, READY. -/
theorem State.finishBoot_eq (s : State) (ports : List (Nat × BitVec 8)) : s.finishBoot ports =
    (((ports.filter (fun p => decide (p.1 < 18))).foldl State.train
      ((List.range 12).foldl (fun s k => s.recommend k) (s.modDev (fun d => { d with statC := [1800, 1800] }))).tellThermal).modDev
        (fun d => { d with ready := true, stage := 6 })) := rfl

/-- What the last step of boot leaves (R396, R408). -/
theorem State.finishBoot_spec (s : State) (ports : List (Nat × BitVec 8)) :
    ∃ hbm ps vectors, s.finishBoot ports = { s with
      flash := { s.flash with thermal := false }
      dev := { s.dev with statC := [1800, 1800], hbm := hbm, ports := ps, vectors := vectors, ready := true, stage := 6 } } ∧
    (s.flash.thermal = true → (0, 4) ∈ vectors) ∧ ∀ p m, (p, m) ∈ ports → p < s.dev.ports.length → p < 18 → ((ps[p]?).getD default).up = true := by
  rw [State.finishBoot_eq]
  obtain ⟨⟨hbm1, ports1, v1, h1⟩, hlen1, -⟩ := BootKeeps.foldl bootKeeps_recommend (List.range 12) (s.modDev (fun d => { d with statC := [1800, 1800] }))
  generalize (List.range 12).foldl (fun (s : State) k => s.recommend k) _ = s1 at h1 hlen1 ⊢
  obtain ⟨v2, h2, hthermal⟩ := s1.tellThermal_eq
  have hlen2 : s1.tellThermal.dev.ports.length = s.dev.ports.length := by rw [h2]; exact hlen1
  obtain ⟨hbm3, ports3, v3, h3⟩ := (BootKeeps.foldl bootKeeps_train (ports.filter (fun p => decide (p.1 < 18))) s1.tellThermal).rest
  have hup := State.trainAll_up (ports.filter (fun p => decide (p.1 < 18))) s1.tellThermal
  rw [hlen2, h3] at hup
  rw [h3, h2, h1]
  refine ⟨hbm3, ports3, _, rfl, fun h => ?_, fun p m hpm hp hp18 => hup (p, m) (List.mem_filter.mpr ⟨hpm, decide_eq_true hp18⟩) hp⟩
  exact List.mem_append_left _ (List.mem_append_right _ (hthermal (by rw [h1]; exact h)))

/-- The steps of a boot under way (R396, R397). -/
theorem bootSteps (s : State) (hp : s.dev.power = true) (hr : s.dev.ready = false) (hh : s.dev.halt = false) :
    let st := s.dev.stage
    let gives := fun (d : Dev) => exec (.moduleReset .next) s = .next { s with dev := { d with stage := st + 1 } }
    (st = 0 ∨ st = 1 ∨ st = 3 → gives s.dev) ∧
    (st = 2 →
      let cap := BitVec.ofNat 28 (min s.flash.cap.toNat (capOf s.flash.table.length))
      gives { s.dev with coreen := s.flash.coreen, table_ := s.flash.table, self := s.flash.modNo, capLive := cap }) ∧
    (st = 4 → gives { s.dev with meas := (s.flash.stages.mapIdx (fun i x => (i, x))).foldl (fun l e => l.modify (measOf e.1) (fun m => extendMeas m e.2)) s.dev.meas }) ∧
    (st = 5 → gives { s.dev with hbm := (List.range 12).map s.flash.stackAt }) ∧
    (∀ (cause : BitVec 8), 1 ≤ st.toNat → st.toNat ≤ 5 → 1 ≤ cause.toNat → cause.toNat ≤ 6 →
      exec (.moduleReset (.fail cause)) s = .next { s with dev := { s.dev with halt := true, cause := cause } }) ∧
    (∀ (ports : List (Nat × BitVec 8)), st = 6 → Goes (.moduleReset (.ready ports)) s (fun t => t.dev.ready = true ∧ t.dev.halt = false ∧ t.dev.stage = 6 ∧
      t.dev.statC = [1800, 1800] ∧ t.dev.table_ = s.dev.table_ ∧ t.dev.capLive = s.dev.capLive ∧ t.crews = s.crews ∧ SameBytes s t ∧ t.flash.thermal = false ∧
      (s.flash.thermal = true → (0, 4) ∈ t.dev.vectors) ∧ ∀ p m, (p, m) ∈ ports → p < s.dev.ports.length → p < 18 → ((t.dev.ports[p]?).getD default).up = true)) ∧
    (5 < st.toNat → exec (.moduleReset .next) s = .refused (.notEnabled "MODULE_RESET")) := by
  have hb := State.booting_of hp hr hh
  dsimp only
  refine ⟨?_, fun h => ?_, fun h => ?_, fun h => ?_, fun cause h1 h5 hc1 hc6 => ?_, fun ports h => ?_, fun h => ?_⟩
  · rintro (h | h | h) <;> exact exec_bootNext hb (by rw [h]; decide) (by rw [h]; rfl)
  · exact exec_bootNext hb (by rw [h]; decide) (by rw [h]; rfl)
  · exact exec_bootNext hb (by rw [h]; decide) (by rw [h]; exact s.measure_eq)
  · exact exec_bootNext hb (by rw [h]; decide) (by rw [h]; rfl)
  · exact if_pos ⟨hb, h1, h5, hc1, hc6⟩
  · obtain ⟨hbm, ps, vectors, ht, hthermal, hup⟩ := s.finishBoot_spec ports
    have hex : exec (.moduleReset (.ready ports)) s = .next (s.finishBoot ports) := if_pos ⟨hb, congrArg BitVec.toNat h⟩
    refine ⟨_, hex.trans (congrArg _ ht), rfl, hh, rfl, rfl, rfl, rfl, rfl, fun _ _ => rfl, rfl, hthermal, hup⟩
  · exact if_neg fun h' => absurd h'.2 (by omega)

/-! ### Function-level reset -/

/-- The queues of a function changed one after another. -/
def modQueues (fn n : Nat) (f : Queue → Queue) (l : List Queue) : List Queue := (List.range n).foldl (fun l q => l.modify (4 * fn + q) f) l

/-- Changing queues of a function changes the list of queues alone. -/
theorem State.foldl_modQueue (s : State) (fn n : Nat) (f : Queue → Queue) :
    (List.range n).foldl (fun s q => s.modQueue fn q f) s = { s with dev := { s.dev with queues := modQueues fn n f s.dev.queues } } := by
  unfold modQueues
  generalize List.range n = l
  induction l generalizing s with
  | nil => rfl
  | cons q t ih => rw [List.foldl_cons, ih]; rfl

theorem modQueues_getElem? (fn n : Nat) (f : Queue → Queue) (l : List Queue) (i : Nat) :
    (modQueues fn n f l)[i]? = if 4 * fn ≤ i ∧ i < 4 * fn + n then l[i]?.map f else l[i]? := by
  unfold modQueues
  induction n with
  | zero => rw [if_neg (by omega)]; rfl
  | succ n ih =>
    rw [List.range_succ, List.foldl_concat, List.getElem?_modify, ih]
    by_cases hi : 4 * fn + n = i
    · rw [if_neg (by omega), if_pos (by omega)]; simp [hi]
    · by_cases hn : 4 * fn ≤ i ∧ i < 4 * fn + n
      · rw [if_pos hn, if_pos (by omega)]; simp [hi]
      · rw [if_neg hn, if_neg (by omega)]; simp [hi]

theorem modQueues_length (fn n : Nat) (f : Queue → Queue) (l : List Queue) : (modQueues fn n f l).length = l.length := by
  unfold modQueues
  generalize List.range n = r
  induction r generalizing l with
  | nil => rfl
  | cons q t ih => rw [List.foldl_cons, ih, List.length_modify]

/-- The state whose queues of a function have all been changed. -/
def State.modAllQueues (s : State) (fn : Nat) (f : Queue → Queue) : State := { s with dev := { s.dev with queues := modQueues fn 4 f s.dev.queues } }

theorem State.modAllQueues_rest (s : State) (fn : Nat) (f : Queue → Queue) (d : Dev) : ({ s.modAllQueues fn f with dev := d } : State) = { s with dev := d } := rfl

theorem State.queue_modAllQueues (s : State) (fn : Nat) (f : Queue → Queue) {g q : Nat} (hq : q < 4) (h : 4 * g + q < s.dev.queues.length) :
    (s.modAllQueues fn f).queue g q = if g = fn then f (s.queue g q) else s.queue g q := by
  have hrange : (4 * fn ≤ 4 * g + q ∧ 4 * g + q < 4 * fn + 4) ↔ g = fn := by omega
  rw [State.queue, State.modAllQueues, modQueues_getElem?, State.queue, List.getElem?_eq_getElem h]
  simp only [hrange]
  split_ifs <;> rfl

/-- A queue that a function-level reset no longer serves. -/
def Queue.stop (x : Queue) : Queue := { x with en := false, hand := none, flr := true }

/-- The indices of a queue that was reset return to 0. -/
def Queue.rewind (x : Queue) : Queue := if x.flr then { x with head := 0, tail := 0, done := 0, flr := false } else x

/-- The queues of a function that has no task in the matcher any more return to 0 (R391). -/
theorem State.flrSettle_eq (s : State) (fn : Nat) :
    s.flrSettle fn = if s.tasks.any (fun k => k.queue.map (·.1) == some fn) then s else s.modAllQueues fn Queue.rewind := by
  unfold State.flrSettle
  rw [State.foldl_modQueue]
  refine if_congr (iff_of_eq (congrArg (s.tasks.any · = true) (funext fun t => ?_))) rfl rfl
  cases t.queue <;> rfl

theorem exec_functionLevelReset {fn : Nat} (s : State) (h1 : 1 ≤ fn) (h32 : fn < 32) :
    exec (.functionLevelReset fn) s = .next ((s.modAllQueues fn Queue.stop).flrSettle fn) := by
  refine (if_pos ⟨h1, h32⟩).trans ?_
  rw [State.foldl_modQueue]; rfl

/-- A function-level reset stops the function's queues, and changes nothing else (R391). -/
theorem functionLevelReset_spec (fn : Nat) (s : State) (h1 : 1 ≤ fn) (h32 : fn < 32) (hlen : s.dev.queues.length = 128) :
    Goes (.functionLevelReset fn) s (fun t => ({ t with dev := s.dev } : State) = s ∧ ∀ f q, f < 32 → q < 4 →
      let x := s.queue f q
      t.queue f q = if f ≠ fn then x
        else if s.tasks.any (fun k => k.queue.map (·.1) == some fn) then { x with en := false, hand := none, flr := true }
        else { x with en := false, hand := none, flr := false, head := 0, tail := 0, done := 0 }) := by
  have hstop : ∀ f q, f < 32 → q < 4 → (s.modAllQueues fn Queue.stop).queue f q = if f = fn then (s.queue f q).stop else s.queue f q :=
    fun f q hf hq => s.queue_modAllQueues fn Queue.stop hq (by omega)
  refine ⟨_, exec_functionLevelReset s h1 h32, ?_⟩
  rw [State.flrSettle_eq]
  by_cases hany : s.tasks.any (fun k => k.queue.map (·.1) == some fn) = true
  · rw [if_pos (show (s.modAllQueues fn Queue.stop).tasks.any _ = true from hany)]
    refine ⟨rfl, fun f q hf hq => ?_⟩
    dsimp only
    rw [hstop f q hf hq, if_pos hany, ite_not]; rfl
  · rw [if_neg (show ¬ (s.modAllQueues fn Queue.stop).tasks.any _ = true from hany)]
    refine ⟨(State.modAllQueues_rest ..).trans (State.modAllQueues_rest ..), fun f q hf hq => ?_⟩
    have hlen1 : 4 * f + q < (s.modAllQueues fn Queue.stop).dev.queues.length := by
      show _ < (modQueues fn 4 Queue.stop s.dev.queues).length
      rw [modQueues_length]; omega
    dsimp only
    rw [State.queue_modAllQueues _ fn Queue.rewind hq hlen1, hstop f q hf hq, if_neg hany, ite_not]
    by_cases hfn : f = fn
    · rw [if_pos hfn, if_pos hfn, if_pos hfn]; rfl
    · rw [if_neg hfn, if_neg hfn, if_neg hfn]

/-- What a module reset leaves (R7). -/
theorem moduleReset_spec (s : State) : Goes (.moduleReset .start) s (fun t =>
    t.dev.ready = false ∧ t.dev.halt = false ∧ t.dev.stage = 0 ∧ t.dev.power = true ∧ t.crews = [] ∧ t.tasks = [] ∧ t.images = [] ∧ t.issue = [] ∧
    t.drained = [] ∧ t.clock = s.clock ∧ t.flash = s.flash ∧ ∀ k, k % 8 = 2 ∨ k % 8 = 3 → t.mem.get k = s.latestKey k) :=
  ⟨s.moduleReset, rfl, rfl, rfl, rfl, rfl, rfl, rfl, rfl, rfl, rfl, rfl, rfl, s.resetMem_outside⟩

/-- Settles O51, event by event: of the device's registers the loss of a module changes its mark and a vector alone, the last step of boot goes through states in which no port
goes down, and the rest is what each event's meaning says. -/
theorem linkAndResetSteps : Obligations.LinkAndResetSteps := by
  unfold Obligations.LinkAndResetSteps
  exact ⟨portSteps, peerReset_lost, moduleReset_spec, bootSteps, functionLevelReset_spec⟩

end Sys2Proof.Machine
end

section
/-!
PROOFS. The values at module reset (R7), and a kill whose region record lies on a lost module (R347, R391, R395, R400).
-/

namespace Sys2Proof.Machine

open Sys2Proof.Claims

/-! ### Values at module reset -/

/-- A register of a list that reset fills with one value. -/
theorem replicate_getD {α : Type} {n i : Nat} (h : i < n) (a b : α) : ((List.replicate n a)[i]?).getD b = a := by
  rw [List.getElem?_replicate_of_lt h, Option.getD_some]

/-- Every partition's registers are those of reset. -/
theorem reset_partReg {p : Nat} (h : p < 32) : State.reset.partReg p = Part.init := replicate_getD h _ _

/-- No partition drains. -/
theorem reset_draining {p : Nat} (h : p < 32) : State.reset.draining p = false := congrArg Part.drain (reset_partReg h)

/-- Every submission queue is that of reset. -/
theorem reset_queue {f q : Nat} (hf : f < 32) (hq : q < 4) : State.reset.queue f q = Queue.init := replicate_getD (by omega : 4 * f + q < 128) _ _

/-- Every port is down, without a peer or a retry. -/
theorem reset_port {p : Nat} (h : p < 18) : State.reset.port p = ⟨false, 0, 0⟩ := replicate_getD h _ _

/-- Every monitor unit is that of reset. -/
theorem reset_mon {u : Nat} (h : u < 16) : State.reset.mon u = MonU.init := replicate_getD h _ _

/-- Settles O58: each indexed register is a place of a list that reset fills with one value, and every other field is the one that reset names. -/
theorem resetValues : Obligations.ResetValues := by
  unfold Obligations.ResetValues
  refine ⟨reset_ok, rfl, rfl, rfl, rfl, rfl, rfl, rfl, rfl, rfl, rfl, rfl, rfl, ?parts, ?ids, ?queues, rfl, rfl, rfl, rfl, rfl, rfl, rfl,
    rfl, rfl, rfl, rfl, rfl, rfl, rfl, rfl, rfl, ?ports, rfl, rfl, rfl, rfl, rfl, ?mons⟩
  case parts =>
    intro p hp
    rw [reset_partReg hp]
    exact ⟨rfl, rfl, rfl, rfl, reset_draining hp⟩
  case ids =>
    intro p hp
    rw [reset_partReg hp]
    rfl
  case queues =>
    intro f q hf hq
    rw [reset_queue hf hq]
    exact ⟨rfl, rfl, rfl, rfl, rfl, rfl, rfl, rfl, rfl, rfl, rfl⟩
  case ports => exact fun p hp => reset_port hp
  case mons =>
    intro u hu
    rw [reset_mon hu]
    exact ⟨rfl, rfl, rfl, rfl, rfl⟩

/-! ### A kill that finds a module lost

The region at address 128 is the root of partition 0, and its record is in the Keyway cache. Its page lies on module 1, whose port is up, but whose lost mark the driver has
cleared while the leaf still names it (R395): the next access sets the mark again (R400). The kill writes KILLED to the record in memory, and that is this access, so that
vector 3 is raised before vector 1 (R391). -/

/-- The page tables, in host memory: the root's first entry names the table at 0x1000, whose first entry is a leaf of 1 GiB on module 1. -/
def clearedMarkTables : Memory := [(hostKey 0, 0x01), (hostKey 1, 0x10), (hostKey 6, 0x20), (hostKey 0x1000, 0x03), (hostKey 0x1006, 0x70)]

/-- The state in which the driver has cleared the lost mark of module 1 too early, with a kill of the region at 128 asked for. -/
def clearedMark : State :=
  { State.reset with
    mem := clearedMarkTables
    rcbs := [(regionKey 0 128, 0)]
    dev := { Dev.init with
      ready := true
      kwyArg := 128
      parts := Dev.init.parts.set 0 { Part.init with root := 128, ptroot := 0x0020000000000000 }
      ports := Dev.init.ports.set 0 ⟨true, 1, 0⟩
      route := Dev.init.route.set 1 1
      stale := 2 } }

/-- The vectors that stand after a step. -/
def vectorsAfter (i : Instr) (s : State) : List (Nat × Nat) :=
  match exec i s with
  | .next t => t.dev.vectors
  | _ => []

theorem vectorsAfter_next {i : Instr} {s t : State} (h : exec i s = .next t) : vectorsAfter i s = t.dev.vectors := by rw [vectorsAfter, h]

/-- The region is one of partition 0, and no line that the kill needs waits at the map point. -/
theorem clearedMark_kill_ready : clearedMark.regionPart 128 = some 0 ∧ clearedMark.kwyWaits 2 128 = false := by decide +kernel

/-- The kill raises vector 3 for the module beside vector 1 for the domain. -/
theorem clearedMark_kill_vectors : vectorsAfter .kwyKill clearedMark = [(0, 3), (0, 1)] := by decide +kernel

/-- Refutes O52: its clause for a kill lets vector 1 alone be raised, but in `clearedMark` the write of the record finds module 1 lost, and vector 3 tells that too. -/
theorem not_hostSteps : ¬ Obligations.HostSteps := by
  unfold Obligations.HostSteps
  rintro ⟨-, -, -, hkwy, -⟩
  obtain ⟨-, hkill, -⟩ := hkwy 128 clearedMark rfl
  obtain ⟨hpart, hwaits⟩ := clearedMark_kill_ready
  obtain ⟨t, ht, -, hvec, -⟩ := hkill 0 (.inr ⟨rfl, rfl⟩) hwaits hpart
  have hboth : [(0, 1)] = [(0, 3), (0, 1)] := hvec.symm.trans ((vectorsAfter_next ht).symm.trans clearedMark_kill_vectors)
  exact absurd hboth (by decide)

end Sys2Proof.Machine
end

section
/-!
PROOFS. Predicate results (R18): compares, predicate logic, selects and moves (R196, R206, R207).
-/

namespace Sys2Proof.Machine

open Sys2Proof.Claims

/-! ### Writes of P registers -/

theorem Group.getP_maskP (g : Group) (r l : Nat) (m x : Byte) (r' l' : Nat) :
    (g.apply (.p r l m x)).getP r' l' = if r ≠ 0 ∧ r' * 64 + l' = r * 64 + l ∧ r' ≠ 0 then (g.getP r l &&& ~~~m) ||| (x &&& m) else g.getP r' l' := by
  show (g.setP r l _).getP r' l' = _
  unfold Group.setP
  by_cases hr : r = 0
  · simp [hr]
  · by_cases hr' : r' = 0
    · simp [hr, hr', Group.getP]
    · rw [if_neg hr, Group.getP, if_neg hr', smGet_set]
      simp [hr, hr', Group.getP]

/-- What masked writes to one P register leave, lane by lane; P0 ignores them. -/
theorem applyAll_mapP (d : Nat) (m x : Nat → Byte) (ls : List Nat) (hnd : ls.Nodup) (hls : ∀ l ∈ ls, l < 64) (g : Group) :
    let g' := g.applyAll (ls.map (fun l => RegW.p d l (m l) (x l)))
    g'.v = g.v ∧ g'.s = g.s ∧
    ∀ r l, l < 64 → g'.getP r l = if r = d ∧ d ≠ 0 ∧ l ∈ ls then (g.getP d l &&& ~~~(m l)) ||| (x l &&& m l) else g.getP r l := by
  unfold Group.applyAll
  induction ls generalizing g with
  | nil => simp
  | cons a t ih =>
    simp only [List.map_cons, List.foldl_cons]
    obtain ⟨ha, hnd'⟩ := List.nodup_cons.mp hnd
    have ha64 := hls a List.mem_cons_self
    obtain ⟨hv, hs, hp⟩ := ih hnd' (fun l hl => hls l (List.mem_cons_of_mem _ hl)) (g.apply (.p d a (m a) (x a)))
    have hrest : (g.apply (.p d a (m a) (x a))).v = g.v ∧ (g.apply (.p d a (m a) (x a))).s = g.s := by
      show (g.setP d a _).v = _ ∧ (g.setP d a _).s = _
      unfold Group.setP
      split_ifs <;> exact ⟨rfl, rfl⟩
    have hget : ∀ r' l', l' < 64 → (g.apply (.p d a (m a) (x a))).getP r' l' =
        if r' = d ∧ d ≠ 0 ∧ l' = a then (g.getP d a &&& ~~~(m a)) ||| (x a &&& m a) else g.getP r' l' := by
      intro r' l' hl'
      rw [Group.getP_maskP]
      refine if_congr ?_ rfl rfl
      omega
    refine ⟨hv.trans hrest.1, hs.trans hrest.2, fun r l hl => ?_⟩
    rw [hp r l hl, hget r l hl, hget d l hl]
    by_cases hla : l = a
    · subst hla; simp [ha]
    · simp [hla]

/-- Masked writes of truths to one P register: in each executing sub-element the bits take its truth, and the others stay (R18). -/
theorem mapP_lands {g g' : Group} (d wd : Nat) (ex res : Nat → Nat → Bool) (m x : Nat → Byte) (act : Word) (hwd : wd = 8 ∨ wd = 16 ∨ wd = 32 ∨ wd = 64)
    (hact : ∀ l, act.getLsbD l = false → ∀ s, s < 64 / wd → ex l s = false)
    (hm : ∀ l b, b < 8 → (m l).getLsbD b = ex l (b / (wd / 8)))
    (hx : ∀ l b, b < 8 → ex l (b / (wd / 8)) = true → (x l).getLsbD b = res l (b / (wd / 8)))
    (h : g'.landAll.regs = (g.landAll.applyAll ((lanesOf act).map (fun l => RegW.p d l (m l) (x l)))).regs) :
    SameV g g' [] ∧ SameS g g' [] ∧ SameP g g' [d] ∧ ElemP g g' d wd ex res := by
  obtain ⟨hv, hs, hp⟩ := applyAll_mapP d m x (lanesOf act) (lanesOf_nodup act) (fun l hl => List.mem_range.mp (List.mem_filter.mp hl).1) g.landAll
  refine ⟨fun r l _ _ => ?_, fun r _ => ?_, fun r l hl hr => ?_, fun l => rfl, fun hd l b hl hb => ?_⟩
  · rw [Group.getV_regs h]; unfold Group.getV; rw [hv]
  · rw [Group.getS_regs h]; unfold Group.getS; rw [hs]
  · rw [Group.getP_regs h, hp r l hl, if_neg (fun e => hr (by simp [e.1]))]
  · rw [Group.getP_regs h, hp d l hl]
    by_cases ha : act.getLsbD l = true
    · rw [if_pos ⟨rfl, hd, (mem_lanesOf act l).mpr ha⟩, BitVec.getLsbD_or, BitVec.getLsbD_and, BitVec.getLsbD_and, BitVec.getLsbD_not, hm l b hb]
      by_cases he : ex l (b / (wd / 8)) = true
      · rw [if_pos he, he, hx l b hb he]; simp
      · rw [if_neg he, Bool.eq_false_of_not_eq_true he]; simp [hb]
    · have hsub : b / (wd / 8) < 64 / wd := by rcases hwd with h | h | h | h <;> subst h <;> omega
      rw [if_neg (fun e => ha ((mem_lanesOf act l).mp e.2.2)), hact l (Bool.eq_false_of_not_eq_true ha) _ hsub]; rfl

/-- The flags of a word that raises none. -/
theorem flagsOr_none {g g' : Group} (wd : Nat) (ex : Nat → Nat → Bool) (h : FlagsOr g g' (fun _ => 0)) : FlagsOr g g' (fun l => orFlags wd (ex l) (noFlag l)) := by
  have h0 : ∀ l, orFlags wd (ex l) (noFlag l) = 0 := fun l => by
    unfold orFlags noFlag
    generalize subs wd = L
    induction L with
    | nil => rfl
    | cons s t ih => simp
  exact fun l hl => (h l hl).trans (congrArg _ (h0 l).symm)

/-! ### Bits of a predicate -/

/-- The bits of sub-element s of width w are those whose number divided by the bits of a sub-element is s (R18). -/
theorem predMask_bit (wd s b : Nat) (hwd : wd = 8 ∨ wd = 16 ∨ wd = 32 ∨ wd = 64) (hb : b < 8) : (predMask wd s).getLsbD b = decide (b / (wd / 8) = s) := by
  have hk : 0 < wd / 8 := by omega
  unfold predMask
  rw [BitVec.getLsbD_ofNat, Nat.mul_comm, Nat.testBit_two_pow_mul, Nat.testBit_two_pow_sub_one]
  simp only [hb, decide_true, Bool.true_and, ← Bool.decide_and, decide_eq_decide, ge_iff_le]
  rw [Nat.div_eq_iff hk, Nat.mul_comm s]
  omega

/-- The bits that some of a list of sub-elements name. -/
theorem predFold_bit (wd : Nat) (p : Nat → Bool) (on : List Nat) (b : Nat) (hwd : wd = 8 ∨ wd = 16 ∨ wd = 32 ∨ wd = 64) (hb : b < 8) :
    (on.foldl (fun m s => if p s then m ||| predMask wd s else m) 0).getLsbD b = (decide (b / (wd / 8) ∈ on) && p (b / (wd / 8))) := by
  have h : ∀ m : Byte, (on.foldl (fun m s => if p s then m ||| predMask wd s else m) m).getLsbD b =
      (m.getLsbD b || (decide (b / (wd / 8) ∈ on) && p (b / (wd / 8)))) := by
    induction on with
    | nil => simp
    | cons s t ih =>
      intro m
      rw [List.foldl_cons, ih]
      by_cases hs : b / (wd / 8) = s
      · cases hp : p s <;> simp [hs, hp, predMask_bit wd s b hwd hb]
      · cases hp : p s <;> simp [hs, predMask_bit wd s b hwd hb]
  rw [h 0]
  simp

/-! ### Predicate logic -/

/-- Every word of predicate logic runs to its end. -/
theorem predWord_runs (o : Op) (w : Body) (f : Bool → Bool → Bool) {d : BitVec 4} {s t : State} {c : Ctx} (hd : w.dst = .p d) (h : Starts (o.mk w) s t c)
    (hx : exec (o.mk w) s = predWord o w f s) :
    ElemRunsP (o.mk w) w.hdr d.toNat s t c (intWidth w.ty) (latency o w) (c.exec w.hdr (intWidth w.ty))
      (fun l k => f ((c.val w.a 0 l).testBit (intWidth w.ty / 8 * k)) ((c.val w.b 0 l).testBit (intWidth w.ty / 8 * k))) noFlag := by
  obtain ⟨g, hg⟩ := starts_group h
  have hwd := intWidth_cases w.ty
  set n := intWidth w.ty with hn
  set act := c.active w.hdr n with hact
  let on := fun (l : Nat) => (subs n).filter (fun s => c.exec w.hdr n l s)
  let bits := fun (l : Nat) (k : Nat) => f ((c.val w.a 0 l).testBit (n / 8 * k)) ((c.val w.b 0 l).testBit (n / 8 * k))
  let m := fun (l : Nat) => (on l).foldl (fun m s => m ||| predMask n s) 0
  let x := fun (l : Nat) => (on l).foldl (fun m s => if bits l s then m ||| predMask n s else m) 0
  obtain ⟨u, g', he, hf, hr, hfl⟩ := writeFixed_effect t c w.hdr (latency o w) (guardWidth o w) act ((lanesOf act).map (fun l => RegW.p d.toNat l (m l) (x l))) [] g hg
  have hmem : ∀ l b, b < 8 → (b / (n / 8) ∈ on l ↔ c.exec w.hdr n l (b / (n / 8)) = true) := fun l b hb => by
    have hsub : b / (n / 8) < 64 / n := by rcases hwd with h | h | h | h <;> rw [h] <;> omega
    simp [on, subs, hsub]
  have hm : ∀ l b, b < 8 → (m l).getLsbD b = c.exec w.hdr n l (b / (n / 8)) := fun l b hb =>
    (predFold_bit n (fun _ => true) (on l) b hwd hb).trans (by simp [hmem l b hb])
  have hxb : ∀ l b, b < 8 → c.exec w.hdr n l (b / (n / 8)) = true → (x l).getLsbD b = bits l (b / (n / 8)) := fun l b hb he =>
    (predFold_bit n (bits l) (on l) b hwd hb).trans (by simp [hmem l b hb, he])
  obtain ⟨hv, hs, hp, hep⟩ := mapP_lands d.toNat n (c.exec w.hdr n) bits m x act hwd (active_sound c w.hdr n n hwd (.inl rfl)) hm hxb hr
  refine ⟨u, g, g', ?_, hf, hv, hs, hp, hep, flagsOr_none n _ hfl⟩
  rw [hx, predWord, begin_of_starts h]
  simp only [hd]
  rw [← he]

/-- Settles O8: the four words share one run, with the Boolean operation of each. -/
theorem predicateLogicResults : Obligations.PredicateLogicResults := by
  unfold Obligations.PredicateLogicResults
  intro w d s t c hd
  refine ⟨fun h => ?_, fun h => ?_, fun h => ?_, fun h => ?_⟩
  · exact predWord_runs .pand w (fun x y => x && y) hd h rfl
  · exact predWord_runs .por w (fun x y => x || y) hd h rfl
  · exact predWord_runs .pxor w (fun x y => x != y) hd h rfl
  · exact predWord_runs .pnot w (fun x _ => !x) hd h rfl

end Sys2Proof.Machine
end

section
/-!
PROOFS. Compares into a predicate, selects and moves (R18, R206, R207).
-/

namespace Sys2Proof.Machine

open Sys2Proof.Claims

/-! ### Compares into a predicate -/

/-- What a compare gives one sub-element: all its predicate bits where its truth is 1, and its flags. -/
def truthRes (k : Nat) (v : Nat → Bool × BitVec 16) (s : Nat) : Res := (if (v s).1 then 2 ^ k - 1 else 0, (v s).2)

/-- The predicate bits of a lane: those of the executing sub-elements, those that are true, and the flags. -/
def truthLane (wd : Nat) (ex : Nat → Bool) (v : Nat → Bool × BitVec 16) : LaneRes :=
  (subs wd).foldl (laneStep (wd / 8) ex (truthRes (wd / 8) v)) ⟨0, 0, 0⟩

/-- A compare gathers the bits of a lane as results of any width are gathered. -/
theorem cmpFold_eq (wd l : Nat) (ex : Nat → Bool) (v : Nat → Bool × BitVec 16) :
    (subs wd).foldl (fun (r : Nat × Nat × Nat × BitVec 16) s =>
      if ex s then (r.1, r.2.1 + (2 ^ (wd / 8) - 1) * 2 ^ (wd / 8 * s), r.2.2.1 + (if (v s).1 then (2 ^ (wd / 8) - 1) * 2 ^ (wd / 8 * s) else 0), r.2.2.2 ||| (v s).2)
      else r) (l, 0, 0, 0) = (l, (truthLane wd ex v).mask, (truthLane wd ex v).val, (truthLane wd ex v).fl) := by
  unfold truthLane
  have h : ∀ (L : List Nat) (r : LaneRes), L.foldl (fun (r : Nat × Nat × Nat × BitVec 16) s =>
      if ex s then (r.1, r.2.1 + (2 ^ (wd / 8) - 1) * 2 ^ (wd / 8 * s), r.2.2.1 + (if (v s).1 then (2 ^ (wd / 8) - 1) * 2 ^ (wd / 8 * s) else 0), r.2.2.2 ||| (v s).2)
      else r) (l, r.mask, r.val, r.fl) = (l, (L.foldl (laneStep (wd / 8) ex (truthRes (wd / 8) v)) r).mask, (L.foldl (laneStep (wd / 8) ex (truthRes (wd / 8) v)) r).val,
        (L.foldl (laneStep (wd / 8) ex (truthRes (wd / 8) v)) r).fl) := by
    intro L
    induction L with
    | nil => intro r; rfl
    | cons s t ih =>
      intro r
      rw [List.foldl_cons, List.foldl_cons, ← ih]
      congr 1
      unfold laneStep truthRes
      by_cases he : ex s = true
      · have hlt : 2 ^ (wd / 8) - 1 < 2 ^ (wd / 8) := Nat.sub_lt (Nat.two_pow_pos _) one_pos
        by_cases hv : (v s).1 = true
        · simp [he, hv, Nat.mod_eq_of_lt hlt]
        · simp [he, hv]
      · simp [he]
  exact h _ ⟨0, 0, 0⟩

/-- A bit of a predicate lies in the sub-element that it divides to. -/
theorem bit_of_getSub (k x b : Nat) (hk : 0 < k) : x.testBit b = (getSub k (b / k) x).testBit (b % k) := by
  rw [testBit_getSub, decide_eq_true (Nat.mod_lt _ hk), Bool.true_and, Nat.div_add_mod]

/-- The bits that a compare writes in a lane, and their truths. -/
theorem truthLane_bits (wd : Nat) (ex : Nat → Bool) (v : Nat → Bool × BitVec 16) (b : Nat) (hwd : wd = 8 ∨ wd = 16 ∨ wd = 32 ∨ wd = 64) (hb : b < 8) :
    (BitVec.ofNat 8 (truthLane wd ex v).mask).getLsbD b = ex (b / (wd / 8)) ∧
    (ex (b / (wd / 8)) = true → (BitVec.ofNat 8 (truthLane wd ex v).val).getLsbD b = (v (b / (wd / 8))).1) := by
  have hk : 0 < wd / 8 := by omega
  have hsub : b / (wd / 8) < 64 / wd := by rcases hwd with h | h | h | h <;> subst h <;> omega
  obtain ⟨-, -, hm, hv, -⟩ := laneFold_spec (wd / 8) ex (truthRes (wd / 8) v) (64 / wd)
  have hones : (2 ^ (wd / 8) - 1).testBit (b % (wd / 8)) = true := by rw [Nat.testBit_two_pow_sub_one]; exact decide_eq_true (Nat.mod_lt _ hk)
  have hlt : 2 ^ (wd / 8) - 1 < 2 ^ (wd / 8) := Nat.sub_lt (Nat.two_pow_pos _) one_pos
  simp only [BitVec.getLsbD_ofNat, hb, decide_true, Bool.true_and]
  rw [bit_of_getSub _ _ b hk, bit_of_getSub _ (truthLane wd ex v).val b hk]
  unfold truthLane subs
  rw [hm _ hsub, hv _ hsub]
  refine ⟨?_, fun he => ?_⟩
  · cases ex (b / (wd / 8)) <;> simp [hones]
  · rw [if_pos he, truthRes]
    cases (v (b / (wd / 8))).1 <;> simp [Nat.mod_eq_of_lt hlt, hones]

theorem truthLane_fl (wd : Nat) (ex : Nat → Bool) (v : Nat → Bool × BitVec 16) : (truthLane wd ex v).fl = orFlags wd ex (fun s => (v s).2) :=
  (laneFold_spec (wd / 8) ex (truthRes (wd / 8) v) (64 / wd)).2.2.2.2

/-- Every compare into a predicate runs to its end. -/
theorem cmpWord_runs (o : Op) (w : Body) (wd : Nat) (f : Ctx → Nat → Nat → Bool × BitVec 16) {d : BitVec 4} {s t : State} {c : Ctx} (hd : w.dst = .p d)
    (h : Starts (o.mk w) s t c) (hwd : wd = 8 ∨ wd = 16 ∨ wd = 32 ∨ wd = 64) (hx : exec (o.mk w) s = cmpWord o w wd f s) :
    ElemRunsP (o.mk w) w.hdr d.toNat s t c wd (latency o w) (c.exec w.hdr wd) (fun l k => (f c l k).1) (fun l k => (f c l k).2) := by
  obtain ⟨g, hg⟩ := starts_group h
  have hsound := active_sound c w.hdr wd wd hwd (.inl rfl)
  let r := fun (l : Nat) => truthLane wd (c.exec w.hdr wd l) (f c l)
  obtain ⟨u, g', he, hf, hr, hfl⟩ := writeFixed_effect t c w.hdr (latency o w) (guardWidth o w) (c.active w.hdr wd)
    ((lanesOf (c.active w.hdr wd)).map (fun l => RegW.p d.toNat l (BitVec.ofNat 8 (r l).mask) (BitVec.ofNat 8 (r l).val)))
    ((lanesOf (c.active w.hdr wd)).map (fun l => (l, (r l).fl))) g hg
  obtain ⟨hv, hs, hp, hep⟩ := mapP_lands d.toNat wd (c.exec w.hdr wd) (fun l k => (f c l k).1) _ _ _ hwd hsound
    (fun l b hb => (truthLane_bits wd _ (f c l) b hwd hb).1) (fun l b hb => (truthLane_bits wd _ (f c l) b hwd hb).2) hr
  refine ⟨u, g, g', ?_, hf, hv, hs, hp, hep, mapFlags_lands wd _ (fun l k => (0, (f c l k).2)) _ hsound ?_⟩
  · rw [hx, cmpWord, begin_of_starts h]
    simp only [hd, cmpFold_eq, List.map_map, Function.comp_def]
    rw [← he]
  · simpa only [r, truthLane_fl, laneRes_fl] using hfl

/-! ### The condition of ICMP -/

/-- A sub-element read as a number (R198). -/
theorem valOf_eq_val (u : Bool) (n x : Nat) (hn : 0 < n) (hx : x < 2 ^ n) : valOf u n x = val u (BitVec.ofNat n x) := by
  unfold valOf val
  cases u with
  | true => simp [Nat.mod_eq_of_lt hx]
  | false =>
    have hpow : 2 ^ n = 2 * 2 ^ (n - 1) := by rw [← pow_succ', Nat.sub_add_cancel hn]
    simp only [Bool.false_eq_true, if_false, toSigned, hn, true_and, BitVec.toInt_eq_toNat_cond, BitVec.toNat_ofNat, Nat.mod_eq_of_lt hx]
    split_ifs <;> omega

/-- The conditions of R206 by their numbers. -/
theorem eCmp_eq (cond : Nat) (u : Bool) (n a b : Nat) (hn : 0 < n) (ha : a < 2 ^ n) (hb : b < 2 ^ n) :
    eCmp cond u n a b = (let x := val u (BitVec.ofNat n a)
      let y := val u (BitVec.ofNat n b)
      match cond with
      | 0 => decide (x = y)
      | 1 => !decide (x = y)
      | 2 => decide (x < y)
      | 3 => !decide (x < y)
      | 4 => !decide (y < x)
      | _ => decide (y < x)) := by
  unfold eCmp
  rw [valOf_eq_val u n a hn ha, valOf_eq_val u n b hn hb]
  have hle : ∀ x y : Int, decide (x ≤ y) = !decide (y < x) := fun x y => by rw [← decide_not, decide_eq_decide, not_lt]
  dsimp only
  split <;> simp only [ne_eq, decide_not, hle]

theorem intWidth_pos (ty : BitVec 3) : 0 < intWidth ty := Nat.mul_pos (by norm_num) (Nat.two_pow_pos _)

/-! ### Selects and moves -/

/-- A sub-element is below the bound of its width. -/
theorem ofNat_getSub_toNat (n k x : Nat) : (BitVec.ofNat n (getSub n k x)).toNat = getSub n k x := Nat.mod_eq_of_lt (getSub_lt n k x)

/-- The half of a 64-bit value that MOVI writes (R207). -/
theorem moviValue (x : Nat) (imm : BitVec 32) (sub : Nat) (hx : x < 2 ^ 64) :
    (if sub = 0 then x / 2 ^ 32 * 2 ^ 32 + imm.toNat else imm.toNat * 2 ^ 32 + x % 2 ^ 32) =
      (if sub = 0 then (BitVec.ofNat 64 x &&& 0xFFFFFFFF00000000) ||| imm.setWidth 64 else imm ++ (BitVec.ofNat 64 x).setWidth 32).toNat := by
  have himm := imm.isLt
  split_ifs
  · have hhigh : (BitVec.ofNat 64 x &&& 0xFFFFFFFF00000000) ||| imm.setWidth 64 = BitVec.ofNat 32 (x / 2 ^ 32) ++ imm := by
      apply BitVec.eq_of_getLsbD_eq
      intro i hi
      have hmask : (0xFFFFFFFF00000000 : BitVec 64).getLsbD i = decide (32 ≤ i) := by
        have hshift : (0xFFFFFFFF00000000 : BitVec 64) = BitVec.allOnes 64 <<< 32 := rfl
        rw [hshift, BitVec.getLsbD_shiftLeft, BitVec.getLsbD_allOnes, decide_eq_true (show i < 64 from hi), decide_eq_true (show i - 32 < 64 by omega), Bool.true_and, Bool.and_true,
          ← decide_not, decide_eq_decide, not_lt]
      rw [BitVec.getLsbD_or, BitVec.getLsbD_and, BitVec.getLsbD_append, hmask, BitVec.getLsbD_setWidth, BitVec.getLsbD_ofNat, BitVec.getLsbD_ofNat, Nat.testBit_div_two_pow,
        decide_eq_true (show i < 64 from hi)]
      by_cases h32 : i < 32
      · rw [decide_eq_false (by omega : ¬ 32 ≤ i), if_pos h32]; simp
      · rw [decide_eq_true (by omega : 32 ≤ i), if_neg h32, BitVec.getLsbD_of_ge imm i (by omega), decide_eq_true (by omega : i - 32 < 32), show i - 32 + 32 = i by omega]; simp
    rw [hhigh, BitVec.toNat_append, BitVec.toNat_ofNat, Nat.mod_eq_of_lt (by omega : x / 2 ^ 32 < 2 ^ 32), ← Nat.shiftLeft_add_eq_or_of_lt himm, Nat.shiftLeft_eq]
  · rw [BitVec.toNat_append, BitVec.toNat_setWidth, BitVec.toNat_ofNat, Nat.mod_eq_of_lt hx, ← Nat.shiftLeft_add_eq_or_of_lt (Nat.mod_lt _ (by norm_num)), Nat.shiftLeft_eq]

/-- An operand that is no immediate gives 64 bits. -/
theorem val_lt (c : Ctx) (o : Opnd) (l : Nat) : c.val o 0 l < 2 ^ 64 := by
  cases o with
  | p n => exact (c.g.getP n.toNat l).isLt.trans (by norm_num)
  | v n => exact (c.g.getV n.toNat l).isLt
  | s n => exact (c.g.getS n.toNat).isLt
  | _ => exact Nat.two_pow_pos 64

/-- Settles O6: one compare, and three words that compute per sub-element. -/
theorem compareSelectMoveResults : Obligations.CompareSelectMoveResults := by
  unfold Obligations.CompareSelectMoveResults
  intro w s t c
  have hn := intWidth_cases w.ty
  refine ⟨fun d hd _ h => ?_, fun h => ?_, fun h => ?_, fun hty h => ?_⟩
  · have hrun := cmpWord_runs .icmp w (intWidth w.ty) (fun c l s =>
      (eCmp w.sub w.uns (intWidth w.ty) (getSub (intWidth w.ty) s (c.iA w (intWidth w.ty) l)) (getSub (intWidth w.ty) s (c.iB w (intWidth w.ty) l)), 0)) hd h hn rfl
    simp only [eCmp_eq w.sub w.uns _ _ _ (intWidth_pos w.ty) (getSub_lt _ _ _) (getSub_lt _ _ _)] at hrun
    exact hrun
  · have hrun := elemWord_runs .sel w (intWidth w.ty) (fun c l s =>
      plain (if (c.val w.c 0 l).testBit (intWidth w.ty / 8 * s) then getSub (intWidth w.ty) s (c.iA w (intWidth w.ty) l)
        else getSub (intWidth w.ty) s (c.iB w (intWidth w.ty) l))) h rfl hn (.inl rfl) rfl
    refine elemRuns_congr hrun (fun l k _ => ?_) (fun _ _ _ => rfl)
    rw [apply_ite BitVec.toNat, srcA, srcB, ofNat_getSub_toNat, ofNat_getSub_toNat]; rfl
  · have hrun := elemWord_runs .mov w (intWidth w.ty) (fun c l s => plain (getSub (intWidth w.ty) s (c.iA w (intWidth w.ty) l))) h rfl hn (.inl rfl) rfl
    refine elemRuns_congr hrun (fun l k _ => ?_) (fun _ _ _ => rfl)
    rw [srcA, ofNat_getSub_toNat]; rfl
  · have hrun := elemWord_runs .movi w 64 (fun c l _ => plain (if w.sub = 0 then c.val w.a 0 l / 2 ^ 32 * 2 ^ 32 + w.imm.toNat
      else w.imm.toNat * 2 ^ 32 + c.val w.a 0 l % 2 ^ 32)) h rfl hn (.inr rfl) rfl
    rw [show latency .movi w = 2 from rfl] at hrun
    refine elemRuns_congr hrun (fun l k _ => ?_) (fun _ _ _ => rfl)
    exact congrArg (· % 2 ^ 64) (moviValue _ w.imm w.sub (val_lt c w.a l))

end Sys2Proof.Machine
end

section
/-!
PROOFS. System words: reads and writes of system registers and buffer records (R25, R26, R97, R189, R190, R193).
-/

namespace Sys2Proof.Machine

open Sys2Proof.Claims

/-! ### Whole registers -/

/-- A whole register as one sub-element of 64 bits. -/
theorem laneRes_whole (x : Nat) : BitVec.ofNat 64 (laneRes 64 (fun _ => true) (fun _ => plain x)).mask = BitVec.allOnes 64 ∧
    BitVec.ofNat 64 (laneRes 64 (fun _ => true) (fun _ => plain x)).val = BitVec.ofNat 64 x := by
  have h : laneRes 64 (fun _ => true) (fun _ => plain x) = ⟨2 ^ 64 - 1, x % 2 ^ 64, 0⟩ := by
    simp [laneRes, subs, plain, List.range_succ]
  rw [h]
  exact ⟨rfl, BitVec.eq_of_toNat_eq (by simp)⟩

/-- A word that writes one value to the whole V register of each lane for which it executes runs to its end. -/
theorem wholeV_runs {i : Instr} {h : Hdr} {s t : State} {c : Ctx} (hs : Starts i s t c) (d lat : Nat) (x : Nat → Nat)
    (hx : exec i s = .next (t.writeFixed c h lat 64 (startAct i c) ((lanesOf (startAct i c)).map (fun l => RegW.v d l (BitVec.allOnes 64) (BitVec.ofNat 64 (x l)))) [])) :
    ElemRunsV i h d s t c 64 lat (whole i c) (fun l _ => x l) noFlag := by
  obtain ⟨g, hg⟩ := starts_group hs
  obtain ⟨u, g', he, hf, hr, hfl⟩ := writeFixed_effect t c h lat 64 (startAct i c)
    ((lanesOf (startAct i c)).map (fun l => RegW.v d l (BitVec.allOnes 64) (BitVec.ofNat 64 (x l)))) [] g hg
  have hwrites : (lanesOf (startAct i c)).map (fun l => RegW.v d l (BitVec.allOnes 64) (BitVec.ofNat 64 (x l))) =
      (lanesOf (startAct i c)).map (fun l => RegW.v d l (BitVec.ofNat 64 (laneRes 64 (whole i c l) (fun _ => plain (x l))).mask)
        (BitVec.ofNat 64 (laneRes 64 (whole i c l) (fun _ => plain (x l))).val)) := by
    refine List.map_congr_left fun l hl => ?_
    have hw : whole i c l = fun _ => true := funext fun _ => (mem_lanesOf _ l).mp hl
    rw [hw, (laneRes_whole (x l)).1, (laneRes_whole (x l)).2]
  rw [hwrites] at hr
  obtain ⟨hp, hs', hv, hev⟩ := mapV_lands d 64 (whole i c) (fun l _ => plain (x l)) (startAct i c) (fun l hl _ _ => hl) hr
  exact ⟨u, g, g', hx.trans (congrArg _ he), hf, hp, hs', hv, hev, flagsOr_none 64 _ hfl⟩

/-- A word that writes one value to an S register, unless no lane executes it, runs to its end (R168). -/
theorem wholeS_runs {i : Instr} {h : Hdr} {s t : State} {c : Ctx} (hs : Starts i s t c) (d lat x : Nat)
    (hx : exec i s = .next (t.writeFixed c h lat 64 (startAct i c) (if startAct i c = 0 then [] else [RegW.s d (BitVec.ofNat 64 x)]) [])) :
    ElemRunsS i h d s t c 64 lat (fun _ => x) (fun _ => 0) := by
  obtain ⟨g, hg⟩ := starts_group hs
  by_cases ha : startAct i c = 0
  · rw [if_pos ha] at hx
    obtain ⟨u, g', he, hf, hr, hfl⟩ := writeFixed_effect t c h lat 64 (startAct i c) [] [] g hg
    obtain ⟨hp, hv, hs'⟩ := noWrite_lands hr
    refine ⟨u, g, g', hx.trans (congrArg _ he), hf, hp, hv, fun r _ => hs' r List.not_mem_nil, ?_⟩
    rw [if_pos ha]
    exact ⟨hs', hfl⟩
  · rw [if_neg ha] at hx
    obtain ⟨u, g', he, hf, hr, hfl⟩ := writeFixed_effect t c h lat 64 (startAct i c) [RegW.s d (BitVec.ofNat 64 x)] [] g hg
    obtain ⟨hp, hv, hs', h0, hd⟩ := writeS_lands d _ hr
    refine ⟨u, g, g', hx.trans (congrArg _ he), hf, hp, hv, hs', ?_⟩
    rw [if_neg ha]
    refine ⟨⟨h0, fun hne k hk => ?_⟩, fun l hl => ?_⟩
    · obtain rfl : k = 0 := by omega
      rw [hd hne, BitVec.toNat_ofNat, getSub_def]; simp
    · have hnone : orFlags 64 (fun _ => true) (fun _ => 0) = 0 := by decide
      rw [hfl l hl]
      simp only [hnone, ite_self]; rfl

/-! ### Reads -/

/-- The model's value of a system register is the one that R25 and R189 name. -/
theorem sysVal_eq (t : State) (c : Ctx) (r : SysReg) (l : Nat) : t.sysVal c r l = sysValue t c r l := by
  cases r <;> rfl

/-- Settles O12: both words write one value to whole registers. -/
theorem systemReadResults : Obligations.SystemReadResults := by
  unfold Obligations.SystemReadResults
  intro w s t c
  refine ⟨fun r d ha hd h => ?_, fun r d ha hd h => ?_, fun b d ha hd h => ?_, fun b d ha hd h => ?_⟩
  · refine wholeV_runs h d.toNat 2 (sysValue t c r) ?_
    show execSrd w s = _
    rw [execSrd, begin_of_starts h]
    simp only [hd, ha, sysOf, sysVal_eq]; rfl
  · refine wholeS_runs h d.toNat 2 (sysValue t c r 0) ?_
    show execSrd w s = _
    rw [execSrd, begin_of_starts h]
    simp only [hd, ha, sysOf, sysVal_eq]; rfl
  · refine wholeV_runs h d.toNat 2 (fun _ => _) ?_
    show execBrrd w s = _
    rw [execBrrd, begin_of_starts h]
    simp only [hd, ha, bufOf, quarter, BitVec.ofNat_toNat, BitVec.setWidth_eq]; rfl
  · refine wholeS_runs h d.toNat 2 _ ?_
    show execBrrd w s = _
    rw [execBrrd, begin_of_starts h]
    simp only [hd, ha, bufOf, quarter, BitVec.ofNat_toNat, BitVec.setWidth_eq]; rfl

/-! ### Writes -/

/-- Changes of several lanes, one after another, are one change of all lanes. -/
theorem foldl_modLane (f : Nat → Lane → Lane) (ls : List Nat) (hnd : ls.Nodup) (g : Group) :
    ls.foldl (fun g l => g.modLane l (f l)) g = { g with lanes := g.lanes.mapIdx (fun i x => if i ∈ ls then f i x else x) } := by
  induction ls generalizing g with
  | nil =>
    have hid : g.lanes.mapIdx (fun _ x => x) = g.lanes := List.ext_getElem? fun i => by simp
    simp [hid]
  | cons a t ih =>
    obtain ⟨ha, hnd'⟩ := List.nodup_cons.mp hnd
    rw [List.foldl_cons, ih hnd']
    unfold Group.modLane
    dsimp only
    congr 1
    apply List.ext_getElem?
    intro i
    simp only [List.getElem?_mapIdx, List.getElem?_modify, List.mem_cons]
    cases g.lanes[i]? with
    | none => rfl
    | some x =>
      by_cases hi : i = a
      · subst hi; simp [ha]
      · simp [hi, Ne.symm hi]

/-- The bits of a number one of whose fields has been replaced. -/
theorem setField_testBit (x lo n v j : Nat) : (setField x lo n v).testBit j = if lo ≤ j ∧ j < lo + n then v.testBit (j - lo) else x.testBit j := by
  have hx : x = 2 ^ lo * (2 ^ n * (x / 2 ^ (lo + n)) + nbits x lo n) + x % 2 ^ lo := by
    rw [nbits, Nat.shiftRight_eq_div_pow, pow_add, ← Nat.div_div_eq_div_mul, Nat.div_add_mod, Nat.div_add_mod]
  have hlow : x % 2 ^ lo < 2 ^ lo := Nat.mod_lt _ (Nat.two_pow_pos _)
  have hmid : nbits x lo n < 2 ^ n := Nat.mod_lt _ (Nat.two_pow_pos _)
  have hset : setField x lo n v = 2 ^ lo * (2 ^ n * (x / 2 ^ (lo + n)) + v % 2 ^ n) + x % 2 ^ lo := by
    have hsub : x - nbits x lo n * 2 ^ lo = 2 ^ lo * (2 ^ n * (x / 2 ^ (lo + n))) + x % 2 ^ lo := by
      rw [Nat.mul_comm (nbits x lo n)]
      rw [Nat.mul_add] at hx
      omega
    rw [setField, hsub]
    ring
  rw [hset]
  conv_rhs => rw [hx]
  rw [Nat.testBit_two_pow_mul_add _ hlow, Nat.testBit_two_pow_mul_add _ hlow, Nat.testBit_two_pow_mul_add _ hmid, Nat.testBit_two_pow_mul_add _ (Nat.mod_lt _ (Nat.two_pow_pos n)),
    Nat.testBit_mod_two_pow]
  by_cases h1 : j < lo
  · simp [h1, Nat.not_le.mpr h1]
  · by_cases h2 : j < lo + n
    · have h3 : j - lo < n := by omega
      simp [h1, h2, h3, Nat.le_of_not_lt h1]
    · have h3 : ¬ j - lo < n := by omega
      simp [h1, h2, h3]

/-- A field of 64 bits of a record after one has been written: bits from 151 on are zero (R193). -/
theorem setQuarter_quarter (b : BufRec) (q k : Nat) (x : Word) (hk : k < 4) :
    (setQuarter b q x).extractLsb' (64 * k) 64 = (if k = q then x else b.extractLsb' (64 * k) 64) &&& (BitVec.ofNat 256 (2 ^ 151 - 1)).extractLsb' (64 * k) 64 := by
  apply BitVec.eq_of_getLsbD_eq
  intro i hi
  have hlt : 64 * k + i < 256 := by omega
  rw [BitVec.getLsbD_and, BitVec.getLsbD_extractLsb', BitVec.getLsbD_extractLsb', setQuarter, BitVec.getLsbD_ofNat, BitVec.getLsbD_ofNat, Nat.testBit_mod_two_pow,
    Nat.testBit_two_pow_sub_one, setField_testBit]
  simp only [hi, hlt, decide_true, Bool.true_and]
  rw [Bool.and_comm]
  congr 1
  by_cases hkq : k = q
  · subst hkq
    rw [if_pos rfl, if_pos (by omega), Nat.add_sub_cancel_left, BitVec.testBit_toNat]
  · rw [if_neg hkq, if_neg (by omega), BitVec.testBit_toNat, BitVec.getLsbD_extractLsb']
    simp [hi]

/-- Settles O14: SWR changes lane flags or the requested priority, BRWR one buffer record. -/
theorem systemWriteResults : Obligations.SystemWriteResults := by
  unfold Obligations.SystemWriteResults
  intro w s t c
  refine ⟨fun hd h => ?_, fun hd ha h => ?_, fun b hd ha h => ?_⟩
  · obtain ⟨g, hg⟩ := starts_group h
    refine groupRuns_of_issued hg ?_
    show execSwr w s = _
    rw [execSwr, begin_of_starts h]
    simp only [hd, foldl_modLane _ _ (lanesOf_nodup _), mem_lanesOf]; rfl
  · obtain ⟨g, hg⟩ := starts_group h
    refine groupRuns_of_issued hg ?_
    show execSwr w s = _
    rw [execSwr, begin_of_starts h]
    simp only [hd]
    exact congrArg (fun x => Host.Outcome.next (State.issued x c w.hdr)) (if_neg ha)
  · obtain ⟨g, hg⟩ := starts_group h
    have hx : exec (.brwr w) s = .next ((t.modGroup c.m.crew c.m.grp (fun g =>
        { g with b := smSet 0 g.b b.toNat (setQuarter (g.getB b.toNat) w.ssel (BitVec.ofNat 64 (c.val w.a 0 0))) })).issued c w.hdr) := by
      show execBrwr w s = _
      rw [execBrwr, begin_of_starts h]
      refine (if_neg ha).trans ?_
      simp only [hd, bufOf]
    obtain ⟨u, g1, g', hex, honly, hg1, hg', hiss, hrest⟩ := groupRuns_of_issued hg hx
    have hb : ∀ r, g'.getB r = if r = b.toNat then setQuarter (g1.getB b.toNat) w.ssel (BitVec.ofNat 64 (c.val w.a 0 0)) else g1.getB r := fun r => by
      have hb' := congrArg Group.b hrest
      rw [Group.getB, show g'.b = _ from hb']
      exact smGet_set ..
    refine ⟨g1, g', u, hex, honly, hg1, hg', ⟨hiss.mine, hiss.others, hiss.number, hiss.handler, hiss.group⟩, ?_, fun r hr => ?_, fun q hq => ?_⟩
    · exact congrArg (fun x : Group => { x with b := g1.b, ents := g1.ents, handler := g1.handler, issued := g1.issued }) hrest
    · rw [hb, if_neg hr]
    · rw [hb, if_pos rfl, setQuarter_quarter _ _ _ _ hq]

end Sys2Proof.Machine
end

section
/-!
PROOFS. The start that every instruction word shares, and what it checks (R12, R21, R53, R179, R182, R199, R318, R320, R325).
-/

namespace Sys2Proof.Machine

open Sys2Proof.Claims

/-! ### Every word begins alike -/

/-- A word's meaning runs through the start that all words share. -/
def Begins (i : Instr) : Prop := ∃ k, ∀ s, exec i s = s.begin i k

section

variable {o : Op} {w : Body}

theorem begins_begin {k} (h : ∀ s, exec (o.mk w) s = s.begin (o.mk w) k) : Begins (o.mk w) := ⟨_, h⟩
theorem begins_branch {x field k} (h : ∀ s, exec (o.mk w) s = branchWord (o.mk w) x field k s) : Begins (o.mk w) := ⟨_, h⟩
theorem begins_pred {f} (h : ∀ s, exec (o.mk w) s = predWord o w f s) : Begins (o.mk w) := ⟨_, h⟩
theorem begins_elem {wd f} (h : ∀ s, exec (o.mk w) s = elemWord o w wd f s) : Begins (o.mk w) := ⟨_, h⟩
theorem begins_int {f} (h : ∀ s, exec (o.mk w) s = intWord o w f s) : Begins (o.mk w) := begins_elem h
theorem begins_cmp {wd f} (h : ∀ s, exec (o.mk w) s = cmpWord o w wd f s) : Begins (o.mk w) := ⟨_, h⟩
theorem begins_move {f} (h : ∀ s, exec (o.mk w) s = moveWord o w f s) : Begins (o.mk w) := begins_elem h
theorem begins_float {wd pos f} (h : ∀ s, exec (o.mk w) s = floatWord o w wd pos f s) : Begins (o.mk w) := ⟨_, h⟩
theorem begins_arith {f} (h : ∀ s, exec (o.mk w) s = arithWord o w f s) : Begins (o.mk w) := begins_float h
theorem begins_conv {ws wd imm f} (h : ∀ s, exec (o.mk w) s = convWord o w ws wd imm f s) : Begins (o.mk w) := begins_float h
theorem begins_block {f} (h : ∀ s, exec (o.mk w) s = blockWord o w f s) : Begins (o.mk w) := ⟨_, h⟩
theorem begins_sparse {n f} (h : ∀ s, exec (o.mk w) s = sparseWord o w n f s) : Begins (o.mk w) := ⟨_, h⟩
theorem begins_mem (h : ∀ s, exec (o.mk w) s = memWord o w s) : Begins (o.mk w) := ⟨_, h⟩
theorem begins_entity {k} (h : ∀ s, exec (o.mk w) s = entityWord o w k s) : Begins (o.mk w) := ⟨_, h⟩
theorem begins_fence {kind scope} (h : ∀ s, exec (o.mk w) s = fenceWord o w kind scope s) : Begins (o.mk w) := begins_entity h
theorem begins_tb {up release} (h : ∀ s, exec (o.mk w) s = tbWord o w up release s) : Begins (o.mk w) := begins_entity h
theorem begins_tbRead {k} (h : ∀ s, exec (o.mk w) s = tbRead o w k s) : Begins (o.mk w) := begins_entity h
theorem begins_mat {k} (h : ∀ s, exec (o.mk w) s = matWord o w k s) : Begins (o.mk w) := ⟨_, h⟩
theorem begins_matMem {store} (h : ∀ s, exec (o.mk w) s = matMemWord o w store s) : Begins (o.mk w) := begins_mat h
theorem begins_mma {sparse} (h : ∀ s, exec (o.mk w) s = mmaWord o w sparse s) : Begins (o.mk w) := begins_mat h

end

/-- Every word that is no pair word begins, whatever its shape. -/
theorem mk_begins (o : Op) (w : Body) : Begins (o.mk w) := by
  cases o with
  | br | brc | brx | call | callx | ret | exit =>
    apply begins_branch; intro s
    dsimp only [exec, Op.mk, execBr, execBrc, execBrx, execCall, execCallx, execRet, execExit]
  | yield | nop | bkpt | trap | tret | pmdone | srd | swr | racq | racqTry | rrel | gang | brrd | brwr | vote | splitq | pref | monitor | acpy | qmul | qmuls | qdiv | qrd =>
    apply begins_begin; intro s
    dsimp only [exec, Op.mk, execYield, execNop, execBkpt, execTrap, execTret, execPmdone, execSrd, execSwr, execRacq, execRacqTry, execRrel, execGang, execBrrd, execBrwr,
      execVote, execSplitq, execPref, execMonitor, execAcpy, execQmul, execQmuls, execQdiv, execQrd]
  | rgath =>
    apply begins_begin; intro s
    dsimp only [exec, Op.mk, execRgath]
  | pand | por | pxor | pnot =>
    apply begins_pred; intro s
    dsimp only [exec, Op.mk, execPand, execPor, execPxor, execPnot]
  | iadd | isub | iadds | isubs | ineg | iabs | imin | imax | iclamp | isad | imul | imulh | imad | idiv | irem | and | or | xor | andn | not | tern | shl | shr | sar
  | rol | ror | fsh | popc | clz | ctz | brev | mov =>
    apply begins_int; intro s
    dsimp only [exec, Op.mk, execIadd, execIsub, execIadds, execIsubs, execIneg, execIabs, execImin, execImax, execIclamp, execIsad, execImul, execImulh, execImad,
      execIdiv, execIrem, execAnd, execOr, execXor, execAndn, execNot, execTern, execShl, execShr, execSar, execRol, execRor, execFsh, execPopc, execClz, execCtz,
      execBrev, execMov]
  | bfe | bfi | sel | movi | iext | inarrow | pack | unpack | lscan | lred | compact =>
    apply begins_elem; intro s
    dsimp only [exec, Op.mk, execBfe, execBfi, execSel, execMovi, execIext, execInarrow, execPack, execUnpack, execLscan, execLred, execCompact]
  | icmp | fcmp =>
    apply begins_cmp; intro s
    dsimp only [exec, Op.mk, execIcmp, execFcmp]
  | shfl | bcast =>
    apply begins_move; intro s
    dsimp only [exec, Op.mk, execShfl, execBcast]
  | fadd | fsub | fmul | ffma | fmin | fmax | fclass | fround | frcp | frsq | fsqrt | fdiv | fexp2 | flog2 | fsin | fcos | ftanh | fsigm =>
    apply begins_arith; intro s
    dsimp only [exec, Op.mk, execFadd, execFsub, execFmul, execFfma, execFmin, execFmax, execFclass, execFround, execFrcp, execFrsq, execFsqrt, execFdiv, execFexp2,
      execFlog2, execFsin, execFcos, execFtanh, execFsigm]
  | fscale | fdot =>
    apply begins_float; intro s
    dsimp only [exec, Op.mk, execFscale, execFdot]
  | fcvt | f2i | i2f =>
    apply begins_conv; intro s
    dsimp only [exec, Op.mk, execFcvt, execF2i, execI2f]
  | mxq | mxdq | q4pk | q4upk =>
    apply begins_block; intro s
    dsimp only [exec, Op.mk, execMxq, execMxdq, execQ4pk, execQ4upk]
  | prune48 | spexp | bmap =>
    apply begins_sparse; intro s
    dsimp only [exec, Op.mk, execPrune48, execSpexp, execBmap]
  | ld | st | lds | ldX | stX | sld | sst | recld | atom | incb | celladd | cellrd | cellclr =>
    apply begins_mem; intro s
    dsimp only [exec, Op.mk, execLd, execSt, execLds, execLdX, execStX, execSld, execSst, execRecld, execAtom, execIncb, execCelladd, execCellrd, execCellclr]
  | mwait | waita | ckick | bar | spawn | xred | qinit | qdeg | qconv | qnorm | qsave | qload =>
    apply begins_entity; intro s
    dsimp only [exec, Op.mk, execMwait, execWaita, execCkick, execBar, execSpawn, execXred, execQinit, execQdeg, execQconv, execQnorm, execQsave, execQload]
  | fence | codefence | rfence | opfence =>
    apply begins_fence; intro s
    dsimp only [exec, Op.mk, execFence, execCodefence, execRfence, execOpfence]
  | tbinit | tbexpect | tbarrive =>
    apply begins_tb; intro s
    dsimp only [exec, Op.mk, execTbinit, execTbexpect, execTbarrive]
  | tbwait | tbtest =>
    apply begins_tbRead; intro s
    dsimp only [exec, Op.mk, execTbwait, execTbtest]
  | obres | obrel | wbld | twait | amzero | amcvt =>
    apply begins_mat; intro s
    dsimp only [exec, Op.mk, execObres, execObrel, execWbld, execTwait, execAmzero, execAmcvt]
  | obst | obld | amld | amst =>
    apply begins_matMem; intro s
    dsimp only [exec, Op.mk, execObst, execObld, execAmld, execAmst]
  | mma | mmas =>
    apply begins_mma; intro s
    dsimp only [exec, Op.mk, execMma, execMmas]

/-- A word of an operation is the instruction that its operation makes of its fields. -/
theorem Instr.eq_mk {i : Instr} {o : Op} {w : Body} (h : i.word? = some (o, w)) : i = o.mk w := by
  cases i <;> cases h <;> rfl

/-- Every instruction that has a word begins. -/
theorem begins_of_encode {i : Instr} (h : (encode i).isSome = true) : Begins i := by
  by_cases hp : ∃ h x y, i = .pair h x y
  · obtain ⟨hd, x, y, rfl⟩ := hp
    exact ⟨_, fun s => (rfl : execPair hd x y s = _)⟩
  · have hmap : encode i = i.word?.map (fun p => codeOfRaw (rawOf p.1 p.2)) := by
      unfold encode
      split
      · exact absurd ⟨_, _, _, rfl⟩ hp
      · rfl
    rw [hmap, Option.isSome_map] at h
    obtain ⟨⟨o, w⟩, hw⟩ := Option.isSome_iff_exists.mp h
    rw [Instr.eq_mk hw]
    exact mk_begins o w

/-! ### The checks in their order -/

/-- What the checking scoreboard finds at a word's start: nothing on a crew that it does not check (R325). -/
def earlyRead (i : Instr) (s : State) (cu : Cur) (c0 : Ctx) : Option Word :=
  let c := s.view c0 i
  if c.crew.check then stallInfo c (c0.g.land cu.cyc).pend (instrHdr i) (instrUses i) (startAct i c) else none

section

variable {i : Instr} {s : State} {cu : Cur} {c0 : Ctx} (hcur : s.cur = some cu) (hctx : s.ctxOf cu.m cu.cyc (instrHdr i).slot = some c0) (k : State → Ctx → Out)

include hcur hctx

/-- The start of a word of an entity, its checks one after another. -/
theorem begin_eq : s.begin i k =
    if ((s.view c0 i).preMisuse i (startAct i (s.view c0 i))).isSome ∧ (earlyRead i s cu c0).isNone then
      ({ s with cur := none } : State).misuse (s.view c0 i) (((s.view c0 i).preMisuse i (startAct i (s.view c0 i))).getD 0)
    else if startAct i (s.view c0 i) ≠ 0 ∧ (unheld (s.view c0 i).g (instrUses i).vregs).isSome then
      ({ s with cur := none } : State).trapWord (s.view c0 i) causeRegblock
        (regblockInfo (s.view c0 i).st (s.view c0 i).pos ((unheld (s.view c0 i).g (instrUses i).vregs).getD 0) 0)
    else if ({ s with cur := none } : State).heldBy (s.view c0 i) i then .next (({ s with cur := none } : State).holdWord (s.view c0 i) i)
    else match earlyRead i s cu c0 with
      | some info => (State.startOf s cu c0).trapWord (s.view c0 i) causeStallchk info
      | none => k (State.startOf s cu c0) (s.view c0 i) := by
  unfold State.begin
  simp only [hcur, hctx]
  simp only [State.view_m]
  rfl

theorem begin_misuse {f : Nat} (hpre : (s.view c0 i).preMisuse i (startAct i (s.view c0 i)) = some f) (hearly : earlyRead i s cu c0 = none) :
    s.begin i k = ({ s with cur := none } : State).misuse (s.view c0 i) f := by
  rw [begin_eq hcur hctx, hpre, hearly, if_pos ⟨rfl, rfl⟩]; rfl

variable (hpre : (s.view c0 i).preMisuse i (startAct i (s.view c0 i)) = none ∨ earlyRead i s cu c0 ≠ none)

include hpre

theorem begin_blocks : s.begin i k =
    if startAct i (s.view c0 i) ≠ 0 ∧ (unheld (s.view c0 i).g (instrUses i).vregs).isSome then
      ({ s with cur := none } : State).trapWord (s.view c0 i) causeRegblock
        (regblockInfo (s.view c0 i).st (s.view c0 i).pos ((unheld (s.view c0 i).g (instrUses i).vregs).getD 0) 0)
    else if ({ s with cur := none } : State).heldBy (s.view c0 i) i then .next (({ s with cur := none } : State).holdWord (s.view c0 i) i)
    else match earlyRead i s cu c0 with
      | some info => (State.startOf s cu c0).trapWord (s.view c0 i) causeStallchk info
      | none => k (State.startOf s cu c0) (s.view c0 i) := by
  rw [begin_eq hcur hctx, if_neg]
  rintro ⟨hmis, hnone⟩
  rcases hpre with h | h
  · rw [h] at hmis; exact Bool.false_ne_true hmis
  · exact h (Option.isNone_iff_eq_none.mp hnone)

theorem begin_unheld {r : Nat} (hact : startAct i (s.view c0 i) ≠ 0) (hr : unheld (s.view c0 i).g (instrUses i).vregs = some r) :
    s.begin i k = ({ s with cur := none } : State).trapWord (s.view c0 i) causeRegblock (regblockInfo (s.view c0 i).st (s.view c0 i).pos r 0) := by
  rw [begin_blocks hcur hctx k hpre, hr, if_pos ⟨hact, rfl⟩]; rfl

variable (hblk : startAct i (s.view c0 i) = 0 ∨ unheld (s.view c0 i).g (instrUses i).vregs = none)

include hblk

theorem begin_waits : s.begin i k =
    if ({ s with cur := none } : State).heldBy (s.view c0 i) i then .next (({ s with cur := none } : State).holdWord (s.view c0 i) i)
    else match earlyRead i s cu c0 with
      | some info => (State.startOf s cu c0).trapWord (s.view c0 i) causeStallchk info
      | none => k (State.startOf s cu c0) (s.view c0 i) := by
  rw [begin_blocks hcur hctx k hpre, if_neg]
  rintro ⟨hact, hsome⟩
  rcases hblk with h | h
  · exact hact h
  · rw [h] at hsome; exact Bool.false_ne_true hsome

theorem begin_held (hheld : ({ s with cur := none } : State).heldBy (s.view c0 i) i = true) :
    s.begin i k = .next (({ s with cur := none } : State).holdWord (s.view c0 i) i) := by
  rw [begin_waits hcur hctx k hpre hblk, if_pos hheld]

theorem begin_early {info : Word} (hheld : ({ s with cur := none } : State).heldBy (s.view c0 i) i = false) (hearly : earlyRead i s cu c0 = some info) :
    s.begin i k = (State.startOf s cu c0).trapWord (s.view c0 i) causeStallchk info := by
  rw [begin_waits hcur hctx k hpre hblk, if_neg (by rw [hheld]; exact Bool.false_ne_true), hearly]

end

/-! ### Misuses that their entries name before all else -/

/-- A lane that has executed CALL, CALLX or RET may write no next block any more (R182). -/
theorem preMisuse_called {i : Instr} {c : Ctx} (h : ∃ l, active i c l = true ∧ (c.g.lane l).called = true) (hi : ∃ w, i = .brc w ∨ i = .brx w ∨ i = .callx w) :
    c.preMisuse i (startAct i c) = some 63 := by
  obtain ⟨l, hl, hcalled⟩ := h
  have hact : startAct i c ≠ 0 := fun h0 => by simp [active, h0] at hl
  have hany : c.calledLane (startAct i c) = true := List.any_eq_true.mpr ⟨l, (mem_lanesOf _ l).mpr hl, hcalled⟩
  obtain ⟨w, rfl | rfl | rfl⟩ := hi <;> exact (if_neg hact).trans (if_pos hany)

/-- An operand-buffer access through a handle that names no reservation (R262). -/
theorem preMisuse_handle {i : Instr} {c : Ctx} {w : Body} (hact : startAct i c ≠ 0) (hi : i = .obst w ∨ i = .obld w) (h : c.crew.resv? (c.val w.a 0 0) = none) :
    c.preMisuse i (startAct i c) = some 63 := by
  have hnone : (c.crew.resv? (c.val w.a 0 0)).isNone = true := by rw [h]; rfl
  obtain rfl | rfl := hi <;> exact (if_neg hact).trans (if_pos hnone)

/-- A matrix word that misuses its operands (R268). -/
theorem preMisuse_mma {i : Instr} {c : Ctx} {w : Body} {f : Nat} (hact : startAct i c ≠ 0)
    (h : (i = .mma w ∧ c.mmaMisuse w false = some f) ∨ (i = .mmas w ∧ c.mmaMisuse w true = some f)) : c.preMisuse i (startAct i c) = some f := by
  obtain ⟨rfl, hf⟩ | ⟨rfl, hf⟩ := h <;> exact (if_neg hact).trans hf

/-- What a held word does: under PREEMPT it abandons a wait of R53's list, and else it waits. -/
theorem holdWord_eq (s : State) (c : Ctx) (i : Instr) :
    (¬ (s.longHeld c i = true ∧ s.preempting c.m.crew c.m.grp = true ∧ c.m.ent ≠ handlerIdx) → s.holdWord c i = s.setWait c.m .held) ∧
    (s.longHeld c i = true ∧ s.preempting c.m.crew c.m.grp = true ∧ c.m.ent ≠ handlerIdx → s.holdWord c i = s.abandon c.m) := by
  have hcond : (s.longHeld c i && s.preempting c.m.crew c.m.grp && c.m.ent != handlerIdx) = true ↔
      s.longHeld c i = true ∧ s.preempting c.m.crew c.m.grp = true ∧ c.m.ent ≠ handlerIdx := by
    rw [Bool.and_eq_true, Bool.and_eq_true, bne_iff_ne, and_assoc]
  unfold State.holdWord
  exact ⟨fun h => if_neg (hcond.not.mpr h), fun h => if_pos (hcond.mpr h)⟩

/-- Settles O24: the checks of the start that all words share, one after another. -/
theorem wordStartChecks : Obligations.WordStartChecks := by
  unfold Obligations.WordStartChecks
  intro i s cu c0 henc hcur hctx
  obtain ⟨k, hk⟩ := begins_of_encode henc
  refine ⟨fun hl hi hearly => ?_, fun hact ⟨w, hi, hresv⟩ hearly => ?_, fun w f hact hf hearly => ?_,
    fun hpre => ⟨fun r hact hr => ?_, fun hblk hheld => ⟨fun hends => ?_, fun hends => ?_⟩, fun hblk hfree info hearly => ?_⟩⟩
  · exact (hk s).trans (begin_misuse hcur hctx k (preMisuse_called hl hi) hearly)
  · exact (hk s).trans (begin_misuse hcur hctx k (preMisuse_handle hact hi hresv) hearly)
  · exact (hk s).trans (begin_misuse hcur hctx k (preMisuse_mma hact hf) hearly)
  · refine (hk s).trans ((begin_unheld hcur hctx k hpre hact hr).trans ?_)
    rw [regblockInfo, Nat.zero_mul, Nat.add_zero]; rfl
  · rw [hk s, begin_held hcur hctx k hpre hblk hheld, (holdWord_eq ..).1 hends]
  · rw [hk s, begin_held hcur hctx k hpre hblk hheld, (holdWord_eq ..).2 hends]
  · exact (hk s).trans (begin_early hcur hctx k hpre hblk hfree hearly)

end Sys2Proof.Machine
end

section
/-!
PROOFS. One step: the word at the issuing entity's place, or the next entry of the agenda (R12, R30, R67, R158, R173, R408).
-/

namespace Sys2Proof.Machine

/-! ### Steps -/

/-- A step with an issuing entity takes the word at its place. -/
theorem step_word {s : State} {m : Member} {rest : List Member} {e : Ent} {code : Code} (hissue : s.issue = m :: rest) (he : s.ent? m = some e)
    (hcode : e.code[e.pos]? = some code) :
    step s = match decode code with
      | .ok i => exec i { s with issue := rest, cur := some ⟨m, e.st, e.pos, s.cycOf m⟩ }
      | .error d => .next (({ s with issue := rest } : State).illegalWord m e d) := by
  have hfetched : ({ s with issue := rest } : State).fetched m = some (e, code) := by
    have he' : ({ s with issue := rest } : State).ent? m = some e := he
    unfold State.fetched
    rw [he']
    exact (congrArg (Option.map _) hcode).trans rfl
  unfold step
  split
  · next m' rest' h =>
    obtain ⟨rfl, rfl⟩ := List.cons.inj (h.symm.trans hissue)
    simp only [hfetched]
    rfl
  · next h => rw [h] at hissue; cases hissue

/-- Without an issuing entity a step takes the head of the agenda. -/
theorem step_agenda {s : State} {e : Sched} {rest : List Sched} (hissue : s.issue = []) (hagenda : s.agenda = e :: rest) :
    step s = if !s.dev.power && !isReset e.ev then .fault .noPower else exec e.ev (({ s with agenda := rest } : State).tick e) := by
  have hnext : s.nextSched = (e, { s with agenda := rest }) := by rw [State.nextSched, hagenda]
  unfold step
  split
  · next h => rw [h] at hissue; cases hissue
  · simp only [hnext]

theorem isReset_iff (i : Instr) : isReset i = true ↔ ∃ b, i = .moduleReset b := by
  constructor
  · intro h
    unfold isReset at h
    split at h
    · exact ⟨_, rfl⟩
    · exact absurd h Bool.false_ne_true
  · rintro ⟨b, rfl⟩
    rfl

/-- Settles O60: the two forms of a step. -/
theorem stepRunsDecodedWord : Obligations.StepRunsDecodedWord := by
  unfold Obligations.StepRunsDecodedWord
  refine ⟨fun s m rest e code hissue he hcode _ _ => ⟨fun i hi => ?_, fun d hd => ?_⟩, fun s e rest hissue hagenda hpower => ?_, fun s e rest hissue hagenda hpower hev => ?_⟩
  · rw [step_word hissue he hcode, hi]; rfl
  · rw [step_word hissue he hcode, hd]; rfl
  · rw [step_agenda hissue hagenda, if_neg]
    · rfl
    · rw [Bool.and_eq_true, Bool.not_eq_true', Bool.not_eq_true']
      rintro ⟨hoff, hno⟩
      rcases hpower with h | h
      · exact Bool.false_ne_true (hoff.symm.trans h)
      · exact Bool.false_ne_true (hno.symm.trans ((isReset_iff _).mpr h))
  · rw [step_agenda hissue hagenda, if_pos]
    rw [hpower, Bool.not_false, Bool.true_and, Bool.not_eq_true', ← Bool.not_eq_true, isReset_iff]
    exact fun ⟨b, hb⟩ => hev b hb

end Sys2Proof.Machine
end

section
/-!
PROOFS. Register blocks (R21 to R23, R191): RACQ, RACQ.try and RREL.
-/

namespace Sys2Proof.Machine

open Sys2Proof.Claims

/-! ### The group that a word sees -/

theorem mixS_rest (free : Nat → Word) (wd : Nat → Nat) (n : Nat) (g : Group) (w : RegW) : ∃ v p s, mixS free wd n g w = { g with v := v, p := p, s := s } := by
  unfold mixS
  split
  · exact Group.apply_rest g (.s _ _)
  · exact Group.apply_rest g _

/-- What every step of a fold leaves of a group but its registers, the fold leaves. -/
theorem foldRegs_rest {α : Type} (f : Group → α → Group) (hf : ∀ g x, ∃ v p s, f g x = { g with v := v, p := p, s := s }) (l : List α) (g : Group) :
    ∃ v p s, l.foldl f g = { g with v := v, p := p, s := s } := by
  induction l generalizing g with
  | nil => exact ⟨g.v, g.p, g.s, rfl⟩
  | cons x t ih =>
    obtain ⟨v, p, s, h⟩ := hf g x
    obtain ⟨v', p', s', h'⟩ := ih (f g x)
    exact ⟨v', p', s', by rw [List.foldl_cons, h', h]⟩

/-- Landing changes registers and the results on their way alone (R318). -/
theorem Group.land_rest (g : Group) (cyc : Nat) : ∃ v p s, g.land cyc = { g with v := v, p := p, s := s, pend := g.pend.filter (fun p => !decide (p.due ≤ cyc)) } := by
  obtain ⟨v, p, s, h⟩ := foldRegs_rest (fun g (p : Pend) => g.applyAll p.ws) (fun g p => Group.applyAll_rest p.ws g) (g.pend.filter (fun p => decide (p.due ≤ cyc))) g
  exact ⟨v, p, s, by rw [Group.land, h]⟩

/-- An early reader sees other registers, and nothing else (R324). -/
theorem Group.early_rest (g : Group) (free : Nat → Word) (wd : Nat → Nat) : ∃ v p s, g.early free wd = { g with v := v, p := p, s := s } := by
  unfold Group.early
  exact foldRegs_rest (fun g (e : Nat × Pend) => e.2.ws.foldl (fun g w => mixS free wd e.1 g w) g) (fun g e => foldRegs_rest _ (mixS_rest free wd e.1) e.2.ws g) _ g

/-- The group that a word sees is the one that it finds, but for the registers that an early read may mix. -/
theorem starts_view {i : Instr} {s t : State} {c : Ctx} {g : Group} (h : Starts i s t c) (hg : t.group? c.m.crew c.m.grp = some g) :
    (∃ v p s, c.g = { g with v := v, p := p, s := s }) ∧ c.crew.uid = c.m.crew := by
  obtain ⟨⟨cu, c0, hcur, hctx, rfl, rfl, hst⟩, _, _, _⟩ := h
  obtain ⟨hc, hg0, hm, -, -⟩ := State.ctxOf_some hctx
  have hland : (State.startOf s cu c0).group? c0.m.crew c0.m.grp = some (c0.g.land cu.cyc) := by
    have hmod : (({ s with cur := none } : State).modGroup c0.m.crew c0.m.grp (fun g => g.land cu.cyc)).group? c0.m.crew c0.m.grp = some (c0.g.land cu.cyc) := by
      rw [State.group?_modGroup, hm, show ({ s with cur := none } : State).group? cu.m.crew cu.m.grp = some c0.g from hg0]; rfl
    unfold State.startOf
    dsimp only
    split_ifs <;> exact hmod
  obtain rfl : c0.g.land cu.cyc = g := by
    rw [State.view_m, hland] at hg
    exact Option.some.inj hg
  refine ⟨?_, by rw [State.view_crew, State.view_m, hm]; exact State.crew?_uid hc⟩
  unfold State.view
  dsimp only
  rw [show c0.cyc = cu.cyc from (State.ctxOf_some hctx).2.2.2.1]
  split_ifs
  · exact ⟨_, _, _, rfl⟩
  · exact Group.early_rest _ _ _

/-! ### The pool -/

/-- A raise is granted when the granules are free and every waiting request is of lower priority (R22). -/
theorem racqOk_iff (t : State) (c : Ctx) (n : Nat) : t.racqOk c n = true ↔
    (n - c.g.nblk) * (c.crew.width / 8) ≤ 1024 - t.granules c.crew.core ∧ (t.racqWaits c.crew.core).all (fun r => decide (r.2.2.2 < t.prio c.crew c.g)) = true := by
  unfold State.racqOk State.racqBlocked needGranules State.freeGranules
  rw [Bool.and_eq_true, decide_eq_true_eq, List.not_any_eq_all_not]
  simp only [← decide_not, not_le]

theorem smGet_filter {α : Type} (d : α) (f : Nat → Bool) (m : SMap α) (k : Nat) : smGet d (smFilter f m) k = if f k then smGet d m k else d := by
  unfold smFilter
  induction m with
  | nil => simp
  | cons e t ih =>
    obtain ⟨a, x⟩ := e
    rw [List.filter_cons]
    by_cases hk : k = a
    · subst hk
      by_cases hf : f k = true
      · simp [hf, smGet]
      · simp [hf, ih]
    · by_cases hf : f a = true
      · simp [hf, smGet, hk, ih]
      · simp [hf, smGet, hk, ih]

/-- A register of a block below the count keeps its value, and one at or above it reads 0 (R23). -/
theorem Group.getV_dropBlocks (g : Group) (n : Nat) (keep : Bool) (r l : Nat) (hl : l < 64) : (g.dropBlocks n keep).getV r l = if r < 16 * n then g.getV r l else 0 := by
  have hkey : (r * 64 + l) / 64 = r := by omega
  have hv : (g.dropBlocks n keep).getV r l = smGet 0 (smFilter (fun k => decide (k / 64 < 16 * n)) g.v) (r * 64 + l) := rfl
  rw [hv, smGet_filter, hkey]
  simp only [decide_eq_true_eq]; rfl

/-! ### Cores after a release -/

/-- The queued QRDs of a group's entity without the registers at and above a block count. -/
def cutReads (uid gi n : Nat) (k : Core) : Core := { k with beryl := k.beryl.map (fun b => if b.crew = uid ∧ b.grp = gi then { b with op := b.op.cut n } else b) }

/-- Of the cores a release changes the destinations of the group's queued QRDs alone (R23). -/
theorem noReadsOf_cut {t u : State} {c : Ctx} {n : Nat} (hu : u.cores = t.cores.modify c.crew.core (cutReads c.crew.uid c.m.grp n)) : NoReadsOf t u c n := by
  unfold NoReadsOf
  have hget : ∀ i, u.cores[i]? = (t.cores[i]?).map (fun k => if c.crew.core = i then cutReads c.crew.uid c.m.grp n k else k) := fun i => by
    rw [hu, List.getElem?_modify]
    split_ifs <;> simp
  refine ⟨List.ext_getElem? fun i => ?_, fun h => List.ext_getElem? fun i => ?_, fun i => ?_⟩
  · rw [List.getElem?_map, List.getElem?_map, hget]
    cases t.cores[i]? with
    | none => rfl
    | some k => simp only [Option.map_some]; split_ifs <;> rfl
  · rw [hget]
    cases hk : t.cores[i]? with
    | none => rfl
    | some k =>
      have hsame : cutReads c.crew.uid c.m.grp n k = k := by
        have hmap : k.beryl.map (fun b => if b.crew = c.crew.uid ∧ b.grp = c.m.grp then { b with op := b.op.cut n } else b) = k.beryl := by
          refine (List.map_congr_left fun b hb => ?_).trans (List.map_id _)
          split_ifs with hb'
          · rw [h k (List.mem_of_getElem? hk) b hb hb'.1 hb'.2]; rfl
          · rfl
        rw [cutReads, hmap]
      rw [Option.map_some, hsame, ite_self]
  · unfold State.core
    rw [hget]
    cases t.cores[i]? with
    | none => rfl
    | some k =>
      by_cases hi : c.crew.core = i
      · simp [hi, cutReads]
      · simp [hi, Ne.symm hi]

/-! ### The words -/

/-- RREL with an active lane (R191). -/
theorem rrel_eq {w : Body} {s t : State} {c : Ctx} (h : Starts (.rrel w) s t c) (hact : startAct (.rrel w) c ≠ 0) :
    let n := c.uval w w.a
    exec (.rrel w) s = if 16 < n then t.misuse c 63 else .next ((if n < c.g.nblk then t.dropBlocks c.crew c.m.grp n false else t).issued c w.hdr) := by
  show execRrel w s = _
  rw [execRrel, begin_of_starts h]
  exact if_neg hact

/-- RREL of fewer blocks than the group holds: the blocks at and above the count go, with every result on its way to them (R23). -/
theorem rrel_drops {w : Body} {s t : State} {c : Ctx} (h : Starts (.rrel w) s t c) (hact : startAct (.rrel w) c ≠ 0) (hn : c.uval w w.a < c.g.nblk) (h16 : c.uval w w.a ≤ 16) :
    let n := c.uval w w.a
    ∃ u g g', exec (.rrel w) s = .next (u.deliver c.m.crew c.m.grp) ∧
    OnlyGroup { t with cores := u.cores } u c.m.crew c.m.grp ∧ NoReadsOf t u c n ∧
    t.group? c.m.crew c.m.grp = some g ∧ u.group? c.m.crew c.m.grp = some g' ∧ Issued c w.hdr g g' ∧
    g'.nblk = n ∧ (∀ r l, l < 64 → g'.getV r l = if r < 16 * n then g.getV r l else 0) ∧
    g'.mws = g.mws.map (fun m => { m with dst := m.dst.cut n }) ∧
    ({ g' with v := g.v, nblk := g.nblk, pend := g.pend, mws := g.mws, ents := g.ents, handler := g.handler, issued := g.issued } : Group) = g := by
  obtain ⟨g, hg⟩ := starts_group h
  obtain ⟨⟨_, _, _, hview⟩, huid⟩ := starts_view h hg
  dsimp only
  set n := c.uval w w.a with hndef
  have hnblk : n < g.nblk := by rw [hview] at hn; exact hn
  let cores := t.cores.modify c.crew.core (cutReads c.crew.uid c.m.grp n)
  let f := fun (g : Group) => (g.dropBlocks n false).issue c w.hdr
  have hx : exec (.rrel w) s = .next ((({ t with cores := cores } : State).modGroup c.m.crew c.m.grp f).deliver c.m.crew c.m.grp) := by
    refine (rrel_eq h hact).trans ((if_neg (Nat.not_lt.mpr h16)).trans ?_)
    rw [if_pos hn, State.dropBlocks, huid, State.issued_eq]
    refine congrArg (fun x : State => Host.Outcome.next (x.deliver c.m.crew c.m.grp)) ?_
    refine Eq.trans ?_ (State.modGroup_modGroup ({ t with cores := cores } : State) c.m.crew c.m.grp (fun g => g.dropBlocks n false) (fun g => g.issue c w.hdr))
    rw [← huid]; rfl
  refine ⟨_, g, f g, hx, onlyGroup_modGroup _ _ _ _, noReadsOf_cut rfl, hg, ?_, ?_, ?_, fun r l hl => ?_, ?_, ?_⟩
  · rw [State.group?_modGroup]; exact (congrArg (Option.map f) hg).trans rfl
  · have hi := issued_of_issue (g.dropBlocks n false) c w.hdr
    exact ⟨hi.mine, hi.others, hi.number, hi.handler, hi.group⟩
  · have hmin : min g.nblk n = n := by omega
    show (Group.issue _ c w.hdr).nblk = n
    unfold Group.issue Group.modEnt
    split_ifs <;> exact hmin
  · rw [← Group.getV_dropBlocks g n false r l hl]
    exact Group.getV_regs (Group.issue_regs ..) r l
  · show (Group.issue _ c w.hdr).mws = _
    unfold Group.issue Group.modEnt Group.dropBlocks
    split_ifs <;> simp
  · show ({ Group.issue _ c w.hdr with v := _, nblk := _, pend := _, mws := _, ents := _, handler := _, issued := _ } : Group) = g
    unfold Group.issue Group.modEnt Group.dropBlocks
    split_ifs <;> rfl

/-- RACQ with an active lane, by its count and the pool (R22, R191). -/
theorem racq_eq {w : Body} {s t : State} {c : Ctx} (h : Starts (.racq w) s t c) (hact : startAct (.racq w) c ≠ 0) :
    let n := c.uval w w.a
    exec (.racq w) s = if 16 < n then t.misuse c 63
      else if n ≤ c.g.nblk then .next (t.issued c w.hdr)
      else if t.racqOk c n then .next ((t.modGroup c.m.crew c.m.grp (fun g => { g with nblk := max g.nblk n })).issued c w.hdr)
      else .next (t.waits c w.hdr (.racq n c.cyc)) := by
  show execRacq w s = _
  rw [execRacq, begin_of_starts h]
  exact if_neg hact

/-- RACQ.try with an active lane: it says whether it raised (R191). -/
theorem racqTry_eq {w : Body} {s t : State} {c : Ctx} (h : Starts (.racqTry w) s t c) (hact : startAct (.racqTry w) c ≠ 0) :
    let n := c.uval w w.a
    exec (.racqTry w) s = if 16 < n then t.misuse c 63
      else .next (((if decide (n ≤ c.g.nblk) || t.racqOk c n then t.modGroup c.m.crew c.m.grp (fun g => { g with nblk := max g.nblk n }) else t).modGroup c.m.crew c.m.grp
        (fun g => g.writeNow (truths (.racqTry w) c w.dst (decide (n ≤ c.g.nblk) || t.racqOk c n)))).issued c w.hdr) := by
  show execRacqTry w s = _
  rw [execRacqTry, begin_of_starts h]
  exact if_neg hact

/-- Settles O15: each word by the branches of its meaning. -/
theorem registerBlockResults : Obligations.RegisterBlockResults := by
  unfold Obligations.RegisterBlockResults
  intro w s t c
  have hok := racqOk_iff t c (c.uval w w.a)
  refine ⟨fun h ha h16 hn => ?_, fun h ha h16 hn hfits => ?_, fun h ha h16 hn hfits => ?_, fun h ha h16 hn => ?_, fun h ha h16 hn => ?_, fun h ha h16 hn => ?_,
    fun h ha hn h16 => rrel_drops h ha hn h16, fun h16 => ⟨fun h ha => ?_, fun h ha => ?_, fun h ha => ?_⟩⟩
  · obtain ⟨g, hg⟩ := starts_group h
    refine groupRuns_id hg ((racq_eq h ha).trans ?_)
    rw [if_neg (Nat.not_lt.mpr h16), if_pos hn]
  · obtain ⟨g, hg⟩ := starts_group h
    refine groupRuns_of_issued hg ((racq_eq h ha).trans ?_)
    rw [if_neg (Nat.not_lt.mpr h16), if_neg (Nat.not_le.mpr hn), if_pos (hok.mpr hfits)]
  · refine (racq_eq h ha).trans ?_
    rw [if_neg (Nat.not_lt.mpr h16), if_neg (Nat.not_le.mpr hn), if_neg (hok.not.mpr hfits)]
  · obtain ⟨g, hg⟩ := starts_group h
    have hraise : (decide (c.uval w w.a ≤ c.g.nblk) || t.racqOk c (c.uval w w.a)) = true := by rwa [Bool.or_eq_true, decide_eq_true_eq, hok]
    refine groupRuns_of_issued hg ((racqTry_eq h ha).trans ?_)
    rw [if_neg (Nat.not_lt.mpr h16), hraise, if_pos rfl, State.modGroup_modGroup]
  · obtain ⟨g, hg⟩ := starts_group h
    have hraise : (decide (c.uval w w.a ≤ c.g.nblk) || t.racqOk c (c.uval w w.a)) = false := by
      rwa [← Bool.not_eq_true, Bool.or_eq_true, decide_eq_true_eq, hok]
    refine groupRuns_of_issued hg ((racqTry_eq h ha).trans ?_)
    rw [if_neg (Nat.not_lt.mpr h16), hraise, if_neg Bool.false_ne_true]
  · obtain ⟨g, hg⟩ := starts_group h
    refine groupRuns_id hg ((rrel_eq h ha).trans ?_)
    rw [if_neg (Nat.not_lt.mpr h16), if_neg (Nat.not_lt.mpr hn)]
  · exact ⟨_, (racq_eq h ha).trans (if_pos h16)⟩
  · exact ⟨_, (racqTry_eq h ha).trans (if_pos h16)⟩
  · exact ⟨_, (rrel_eq h ha).trans (if_pos h16)⟩

end Sys2Proof.Machine
end

section
/-!
PROOFS. The addresses that lanes form and the faults found at issue (R57 to R60, R239, R243 to R247).
-/

namespace Sys2Proof.Machine

open Sys2Proof.Claims

/-! ### Sizes and numbers -/

theorem memSize_pos (ty : BitVec 3) : 0 < memSize ty := by
  unfold memSize
  split <;> omega

theorem toSigned_toNat {w : Nat} (x : BitVec w) : toSigned w x.toNat = x.toInt := by
  have hlt := x.isLt
  unfold toSigned
  rw [BitVec.toInt_eq_toNat_cond]
  dsimp only
  rw [Nat.mod_eq_of_lt hlt]
  cases w with
  | zero =>
    have h0 : x.toNat = 0 := by omega
    simp [h0]
  | succ n =>
    have hpow : 2 ^ (n + 1) = 2 * 2 ^ n := Nat.pow_succ'
    simp only [Nat.succ_sub_one, Nat.zero_lt_succ, true_and]
    split_ifs <;> omega

/-- A number below 2^64 is itself modulo 2^64 (R93). -/
theorem wrap64_of_lt {x : Nat} (h : x < 2 ^ 64) : wrap 64 (x : Int) = x := by
  unfold wrap
  omega

/-! ### Addresses -/

/-- The words that address through a buffer record form the lane's address there (R57). -/
theorem laneAddr_record (w : Body) (t : State) (c : Ctx) (o : Op) (l : Nat) (ho : o ∈ [Op.ld, .st, .lds, .atom, .incb, .celladd, .cellrd, .cellclr, .monitor]) :
    let b := c.g.getB w.fm.bidx.toNat
    let lane := if o = .monitor then 0 else l
    t.laneAddr c o w l = if badRec b (cellUse o w) then .bad causeBadrec (faultInfo lane (opWrites o) 0)
      else t.recAddr c.crew b lane (opWrites o) (recOffset b (c.val w.a 0 l) w.fm.imm24) (opSize o w) := by
  simp only [List.mem_cons, List.not_mem_nil, or_false] at ho
  rcases ho with rfl | rfl | rfl | rfl | rfl | rfl | rfl | rfl | rfl <;> rfl

theorem recOffset_eq (b : BufRec) (idx : Nat) (imm : BitVec 24) : recOffset b idx imm = (idx : Int) * (b.extractLsb' 64 32).toNat + imm.toInt := by
  rw [recOffset, toSigned_toNat, recStride]

/-- An access that leaves its record is dropped or a BOUNDS fault (R58). -/
theorem recAddr_out {t : State} {k : Crew} {b : BufRec} {lane size : Nat} {wr : Bool} {off : Int} (h : off < 0 ∨ (b.extractLsb' 96 40).toNat < off + size) :
    t.recAddr k b lane wr off size = if b.getLsbD 148 then .drop else .bad causeBounds (faultInfo lane wr (wrap 64 off)) := if_pos h

/-- The place in memory that an offset of a record names (R57). -/
def recPlace (b : BufRec) (off : Nat) : Nat := (recBase b + if recSwen b then swizzle off (recChunk b) (recSwsrc b) else off) % 2 ^ 64

/-- An access within its record (R57, R239). -/
theorem recAddr_in {t : State} {k : Crew} {b : BufRec} {lane size : Nat} {wr : Bool} {off : Int} (h0 : 0 ≤ off) (h1 : off + size ≤ (b.extractLsb' 96 40).toNat) :
    t.recAddr k b lane wr off size = if recPlace b off.toNat % size ≠ 0 then .bad causeAlign (faultInfo lane wr (recPlace b off.toNat))
      else if b.getLsbD 150 then
        match t.onchipFor k (recPlace b off.toNat) size with
        | some p => .chip p
        | none => .bad causeBounds (faultInfo lane wr (wrap 64 off))
      else .virt (recPlace b off.toNat) :=
  if_neg (by unfold recExtent; omega)

/-- The address of a scratch word's lane (R60, R244). -/
theorem laneAddr_scratch (w : Body) (t : State) (c : Ctx) (o : Op) (l : Nat) (ho : o ∈ [Op.ldX, .stX]) :
    t.laneAddr c o w l = scratchAddr c.crew l (opWrites o) ((c.val w.a 0 l : Int) + w.fm.imm24.toInt) (memSize w.ty) := by
  rw [← toSigned_toNat]
  simp only [List.mem_cons, List.not_mem_nil, or_false] at ho
  rcases ho with rfl | rfl <;> rfl

/-! ### The fault that is reported (R239) -/

/-- The fault that stands first so far, after one more lane's address. -/
def laterFault (b : Option (BitVec 8 × Word)) (e : Nat × LaneAddr) : Option (BitVec 8 × Word) :=
  match e.2 with
  | .bad cause info =>
    match b with
    | some (c0, _) => if causeRank cause < causeRank c0 then some (cause, info) else b
    | none => some (cause, info)
  | _ => b

theorem firstFault_concat (as : List (Nat × LaneAddr)) (e : Nat × LaneAddr) : firstFault (as ++ [e]) = laterFault (firstFault as) e :=
  List.foldl_concat ..

/-- A fault that comes first among the lanes': none is of an earlier kind, and none of its kind has a lower lane. -/
def IsFirst (as : List (Nat × LaneAddr)) (cause : BitVec 8) (info : Word) : Prop :=
  ∃ l, (l, LaneAddr.bad cause info) ∈ as ∧ ∀ l' cause' info', (l', LaneAddr.bad cause' info') ∈ as →
    causeRank cause < causeRank cause' ∨ (causeRank cause = causeRank cause' ∧ l ≤ l')

theorem IsFirst.mono {as bs : List (Nat × LaneAddr)} {cause : BitVec 8} {info : Word} (h : IsFirst as cause info) (hsub : as ⊆ bs)
    (hnew : ∀ l' cause' info', (l', LaneAddr.bad cause' info') ∈ bs → (l', LaneAddr.bad cause' info') ∉ as →
      causeRank cause ≤ causeRank cause' ∧ ∀ a ∈ as, a.1 ≤ l') : IsFirst bs cause info := by
  obtain ⟨l, hmem, hfirst⟩ := h
  refine ⟨l, hsub hmem, fun l' cause' info' h' => ?_⟩
  by_cases hin : (l', LaneAddr.bad cause' info') ∈ as
  · exact hfirst l' cause' info' hin
  · obtain ⟨hrank, hle⟩ := hnew l' cause' info' h' hin
    exact (lt_or_eq_of_le hrank).imp_right fun he => ⟨he, hle _ hmem⟩

/-- With the lanes in ascending order the fault reported is the first (R239), and none is reported only where no lane has one. -/
theorem firstFault_first (as : List (Nat × LaneAddr)) (hs : as.Pairwise (fun a b => a.1 ≤ b.1)) :
    (firstFault as = none → NoFault as) ∧ ∀ cause info, firstFault as = some (cause, info) → IsFirst as cause info := by
  induction as using List.reverseRecOn with
  | nil => exact ⟨fun _ _ h => absurd h List.not_mem_nil, fun _ _ h => by cases h⟩
  | append_singleton as e ih =>
    obtain ⟨hs', -, hlast⟩ := List.pairwise_append.mp hs
    obtain ⟨hnone, hsome⟩ := ih hs'
    obtain ⟨l, a⟩ := e
    have hle : ∀ x ∈ as, x.1 ≤ l := fun x h => hlast x h _ List.mem_cons_self
    have hsub : as ⊆ as ++ [(l, a)] := List.subset_append_left ..
    rw [firstFault_concat]
    by_cases hbad : ∃ c1 i1, a = .bad c1 i1
    · obtain ⟨c1, i1, rfl⟩ := hbad
      have hnew : ∀ {l' c' i'}, (l', LaneAddr.bad c' i') ∈ as ++ [(l, .bad c1 i1)] → (l', LaneAddr.bad c' i') ∉ as → l' = l ∧ c' = c1 := fun h h' => by
        simp only [List.mem_append, h', List.mem_singleton, false_or, Prod.mk.injEq, LaneAddr.bad.injEq] at h
        exact ⟨h.1, h.2.1⟩
      cases hff : firstFault as with
      | none =>
        refine ⟨fun h => by simp [laterFault] at h, fun cause info h => ?_⟩
        obtain ⟨rfl, rfl⟩ : c1 = cause ∧ i1 = info := by simpa [laterFault] using h
        refine ⟨l, by simp, fun l' c' i' h' => ?_⟩
        have hno : (l', LaneAddr.bad c' i') ∉ as := fun hin => hnone hff _ hin c' i' rfl
        obtain ⟨rfl, rfl⟩ := hnew h' hno
        exact .inr ⟨rfl, le_rfl⟩
      | some f =>
        obtain ⟨c0, i0⟩ := f
        have hfirst := hsome c0 i0 hff
        by_cases hr : causeRank c1 < causeRank c0
        · have hl : laterFault (some (c0, i0)) (l, .bad c1 i1) = some (c1, i1) := if_pos hr
          rw [hl]
          refine ⟨fun h => (nomatch h), fun cause info h => ?_⟩
          obtain ⟨rfl, rfl⟩ : c1 = cause ∧ i1 = info := by simpa using h
          obtain ⟨l0, -, hmin⟩ := hfirst
          refine ⟨l, by simp, fun l' c' i' h' => ?_⟩
          by_cases hin : (l', LaneAddr.bad c' i') ∈ as
          · have := hmin l' c' i' hin
            omega
          · obtain ⟨rfl, rfl⟩ := hnew h' hin
            exact .inr ⟨rfl, le_rfl⟩
        · have hl : laterFault (some (c0, i0)) (l, .bad c1 i1) = some (c0, i0) := if_neg hr
          rw [hl]
          refine ⟨fun h => (nomatch h), fun cause info h => ?_⟩
          obtain ⟨rfl, rfl⟩ : c0 = cause ∧ i0 = info := by simpa using h
          refine hfirst.mono hsub fun l' c' i' h' hin => ?_
          obtain ⟨rfl, rfl⟩ := hnew h' hin
          exact ⟨Nat.le_of_not_lt hr, hle⟩
    · have hl : laterFault (firstFault as) (l, a) = firstFault as := by
        cases a with
        | bad c1 i1 => exact absurd ⟨c1, i1, rfl⟩ hbad
        | drop => rfl
        | virt va => rfl
        | chip p => rfl
      rw [hl]
      refine ⟨fun h x hx c' i' hx' => ?_, fun cause info h => (hsome cause info h).mono hsub fun l' c' i' h' hin => absurd ?_ hbad⟩
      · rcases List.mem_append.mp hx with hin | hin
        · exact hnone h x hin c' i' hx'
        · obtain rfl := List.mem_singleton.mp hin
          exact hbad ⟨c', i', hx'⟩
      · obtain ⟨rfl, rfl⟩ : l' = l ∧ LaneAddr.bad c' i' = a := by simpa [hin] using h'
        exact ⟨c', i', rfl⟩

theorem addrLanes_sorted (o : Op) (act : Word) : (addrLanes o act).Pairwise (· ≤ ·) := by
  have h : (lanesOf act).Pairwise (· ≤ ·) := (List.pairwise_lt_range.imp Nat.le_of_lt).filter _
  unfold addrLanes
  split
  case h_1 => exact h.sublist (List.take_sublist ..)
  case h_5 => exact h
  all_goals split_ifs <;> simp

theorem addresses_sorted (t : State) (c : Ctx) (o : Op) (w : Body) (act : Word) : (addresses t c o w act).Pairwise (fun a b => a.1 ≤ b.1) :=
  List.pairwise_map.mpr (addrLanes_sorted o act)

/-- The words that access memory for their lanes have one meaning (R237). -/
theorem exec_memWord {o : Op} (w : Body) (ho : o ∈ [Op.ld, .st, .lds, .ldX, .stX, .sld, .sst, .recld, .atom, .incb, .celladd, .cellrd, .cellclr]) (s : State) (c : Ctx) :
    exec (o.mk w) s = memWord o w s ∧ startAct (o.mk w) c = c.active w.hdr 0 := by
  simp only [List.mem_cons, List.not_mem_nil, or_false] at ho
  rcases ho with rfl | rfl | rfl | rfl | rfl | rfl | rfl | rfl | rfl | rfl | rfl | rfl | rfl <;> exact ⟨rfl, rfl⟩

/-- Settles O32: the address by the record's fields, and the first fault of a fold over the lanes in ascending order. -/
theorem memoryAddressesAndFaults : Obligations.MemoryAddressesAndFaults := by
  unfold Obligations.MemoryAddressesAndFaults
  refine ⟨fun w t c o l ho => ?_, fun w t c o l ho => ?_, fun w s t c o ho h => ?_⟩
  · intro b n off put addr lane info
    have hoff : recOffset b (c.val w.a 0 l) w.fm.imm24 = off := recOffset_eq ..
    have haddr : recPlace b off.toNat = addr := rfl
    have hlt : addr < 2 ^ 64 := Nat.mod_lt _ (by norm_num)
    have hw : wrap 64 (addr : Int) = addr := wrap64_of_lt hlt
    have hlane := laneAddr_record w t c o l ho
    dsimp only at hlane
    rw [hoff] at hlane
    refine ⟨fun hb => by rw [hlane, if_pos hb]; rfl, fun hb => ?_⟩
    rw [hlane, if_neg (Bool.not_eq_true _ ▸ hb)]
    refine ⟨fun hout => recAddr_out hout, fun h0 h1 => ?_⟩
    rw [recAddr_in h0 h1, haddr]
    refine ⟨fun hal => ?_, fun hal hs => ?_, fun p hal hs hp => ?_⟩
    · rw [if_pos hal, show info addr = faultInfo lane (opWrites o) addr from congrArg (faultInfo lane (opWrites o)) hw, causeAlign]
    · rw [if_neg (not_not.mpr hal), if_neg (Bool.not_eq_true _ ▸ hs)]
    · rw [if_neg (not_not.mpr hal), if_pos hs, hp]
  · intro n off
    rw [laneAddr_scratch w t c o l ho]
    refine ⟨fun hal h0 h1 => ?_, fun hal => if_pos hal⟩
    exact (if_neg (not_not.mpr hal)).trans (if_neg (by omega))
  · obtain ⟨hexec, hact⟩ := exec_memWord w ho s c
    have hrun := hexec.trans (memWord_starts h)
    rw [hact]
    refine ⟨fun h0 => ?_, fun h0 hf => ?_⟩
    · obtain ⟨g, hg⟩ := starts_group h
      exact groupRuns_id hg (hrun.trans (if_pos h0))
    · obtain ⟨hnone, hsome⟩ := firstFault_first _ (addresses_sorted t c o w (c.active w.hdr 0))
      cases hff : firstFault (addresses t c o w (c.active w.hdr 0)) with
      | none => exact absurd (hnone hff) hf
      | some f =>
        obtain ⟨cause, info⟩ := f
        obtain ⟨l, hmem, hmin⟩ := hsome cause info hff
        refine ⟨l, cause, info, hmem, traps_of_trapWord ?_, hmin⟩
        rw [hrun, if_neg h0, show firstFault (t.laneAddrs c o w (c.active w.hdr 0)) = some (cause, info) from hff]

end Sys2Proof.Machine
end

section
/-!
PROOFS. What the entry of a handler leaves alone (R48 to R50): blocks, tickets and the latch of every group, its entities but for their note of a meeting, memory, and
the pipes.
-/

namespace Sys2Proof.Machine

open Sys2Proof.Claims

/-! ### One group among others -/

/-- A changed group, and every other group. -/
theorem State.group?_modGroup_at (s : State) (uid i u j : Nat) (f : Group → Group) :
    (s.modGroup uid i f).group? u j = if u = uid ∧ j = i then (s.group? u j).map f else s.group? u j := by
  split_ifs with h
  · obtain ⟨rfl, rfl⟩ := h
    exact State.group?_modGroup s u j f
  · by_cases hu : u = uid
    · subst hu
      have hj : j ≠ i := fun hj => h ⟨rfl, hj⟩
      unfold State.group?
      rw [State.crew?_modGroup]
      cases s.crew? u with
      | none => rfl
      | some c => exact List.getElem?_modify_ne f c.groups (Ne.symm hj)
    · unfold State.group?
      rw [State.crew?_modGroup_ne s uid i u f hu]

theorem State.ent?_of_group {s : State} {m : Member} {g : Group} (h : s.group? m.crew m.grp = some g) : s.ent? m = g.ent? m.ent := by
  rw [State.ent?, h]; rfl

theorem State.group_of_ent? {s : State} {m : Member} {e : Ent} (h : s.ent? m = some e) : ∃ g, s.group? m.crew m.grp = some g ∧ g.ent? m.ent = some e :=
  Option.bind_eq_some_iff.mp h

/-- A changed entity, and every other entity, where the change keeps the entity's index. -/
theorem Group.ent?_modEnt (g : Group) (i j : Nat) (f : Ent → Ent) (hf : ∀ e, (f e).idx = e.idx) :
    (g.modEnt i f).ent? j = if j = i then (g.ent? j).map f else g.ent? j := by
  have hfind : ∀ l : List Ent, (l.map (fun e => if e.idx = i then f e else e)).find? (fun e => e.idx == j) =
      if j = i then (l.find? (fun e => e.idx == j)).map f else l.find? (fun e => e.idx == j) := fun l => by
    rw [List.find?_map]
    have hp : ((fun e : Ent => e.idx == j) ∘ fun e => if e.idx = i then f e else e) = fun e => e.idx == j := by
      funext e
      by_cases he : e.idx = i
      · simp [he, hf]
      · simp [he]
    rw [hp]
    cases hl : l.find? (fun e => e.idx == j) with
    | none => split_ifs <;> rfl
    | some e =>
      have hidx : e.idx = j := by simpa using List.find?_some hl
      rw [Option.map_some, hidx]
      split_ifs <;> rfl
  unfold Group.modEnt Group.ent?
  by_cases hi : i = handlerIdx
  · rw [if_pos hi]
    by_cases hj : j = handlerIdx
    · rw [if_pos hj, if_pos (hj.trans hi.symm), if_pos hj, Option.map_map, Option.map_map]; rfl
    · rw [if_neg hj, if_neg (fun h => hj (h.trans hi)), if_neg hj]
  · rw [if_neg hi]
    by_cases hj : j = handlerIdx
    · rw [if_pos hj, if_neg (fun h => hi (h.symm.trans hj)), if_pos hj]
    · rw [if_neg hj, if_neg hj]
      exact hfind g.ents

theorem State.ent?_modEnt (s : State) (m n : Member) (f : Ent → Ent) (hf : ∀ e, (f e).idx = e.idx) :
    (s.modEnt m f).ent? n = if n = m then (s.ent? n).map f else s.ent? n := by
  unfold State.ent? State.modEnt
  rw [State.group?_modGroup_at]
  by_cases hg : n.crew = m.crew ∧ n.grp = m.grp
  · rw [if_pos hg]
    have hnm : n = m ↔ n.ent = m.ent := ⟨fun h => h ▸ rfl, fun h => by cases n; cases m; obtain ⟨rfl, rfl⟩ := hg; cases h; rfl⟩
    simp only [hnm]
    cases s.group? n.crew n.grp with
    | none => simp
    | some g => exact Group.ent?_modEnt g m.ent n.ent f hf
  · rw [if_neg hg, if_neg (fun h : n = m => hg (h ▸ ⟨rfl, rfl⟩))]

/-! ### What a group keeps -/

/-- What the entry of a handler leaves of a group. -/
structure Kept (g g' : Group) : Prop where
  nblk    : g'.nblk = g.nblk
  tickets : g'.k = g.k
  latch   : g'.latch = g.latch
  ents    : g'.ents.map unmet = g.ents.map unmet
  handler : ∀ h, g.handler = some h → g'.handler = some h

theorem Kept.refl (g : Group) : Kept g g := ⟨rfl, rfl, rfl, rfl, fun _ h => h⟩

theorem Kept.trans {g g' g'' : Group} (h : Kept g g') (h' : Kept g' g'') : Kept g g'' :=
  ⟨h'.nblk.trans h.nblk, h'.tickets.trans h.tickets, h'.latch.trans h.latch, h'.ents.trans h.ents, fun x hx => h'.handler x (h.handler x hx)⟩

/-- An entity stays, but for the note that its lanes have met. -/
theorem Kept.ent {g g' : Group} (h : Kept g g') {i : Nat} {e : Ent} (he : g.ent? i = some e) : (g'.ent? i).map unmet = some (unmet e) := by
  unfold Group.ent? at he ⊢
  split_ifs at he ⊢ with hi
  · obtain ⟨x, hx, rfl⟩ := Option.map_eq_some_iff.mp he
    rw [h.handler x hx]; rfl
  · have hfind : ∀ l : List Ent, (l.find? (fun e => e.idx == i)).map unmet = (l.map unmet).find? (fun e => e.idx == i) := fun l => by rw [List.find?_map]; rfl
    rw [hfind, h.ents, ← hfind, he]; rfl

/-- A change of the registers, the results on their way, the lanes and the traps of a group keeps it. -/
theorem Kept.of_eq {g g' : Group} (h : ({ g' with
    v := g.v, p := g.p, s := g.s, pend := g.pend, lanes := g.lanes, traps := g.traps, fences := g.fences, heldFences := g.heldFences
    cause := g.cause, info := g.info, acq := g.acq, preTaken := g.preTaken, mws := g.mws } : Group) = g) : Kept g g' := by
  rw [← h]
  exact ⟨rfl, rfl, rfl, rfl, fun _ hx => hx⟩

/-! ### What a step keeps -/

/-- What issues, when the pipes are free, and memory: no trap changes any of it. -/
def State.still (s : State) : List Member × List (List Nat) × List Drained × Memory := (s.issue, s.cores.map (·.pipes), s.drained, s.mem)

/-- A step that leaves each group what the entry of a handler leaves of it, and all that stands still. -/
structure Leaves (s t : State) : Prop where
  groups : ∀ u j g, s.group? u j = some g → ∃ g', t.group? u j = some g' ∧ Kept g g'
  still  : t.still = s.still

theorem Leaves.refl (s : State) : Leaves s s := ⟨fun _ _ g h => ⟨g, h, Kept.refl g⟩, rfl⟩

theorem Leaves.trans {s t u : State} (h : Leaves s t) (h' : Leaves t u) : Leaves s u :=
  ⟨fun x j g hg => by
    obtain ⟨g', hg', hk⟩ := h.groups x j g hg
    obtain ⟨g'', hg'', hk'⟩ := h'.groups x j g' hg'
    exact ⟨g'', hg'', hk.trans hk'⟩, h'.still.trans h.still⟩

theorem Leaves.ent {s t : State} (h : Leaves s t) {m : Member} {e : Ent} (he : s.ent? m = some e) : (t.ent? m).map unmet = some (unmet e) := by
  obtain ⟨g, hg, hge⟩ := State.group_of_ent? he
  obtain ⟨g', hg', hk⟩ := h.groups _ _ g hg
  rw [State.ent?_of_group hg']
  exact hk.ent hge

theorem sameBytes_of_still {s t : State} (h : t.still = s.still) : SameBytes s t := by
  obtain ⟨-, -, hd, hm⟩ : t.issue = s.issue ∧ t.cores.map (·.pipes) = s.cores.map (·.pipes) ∧ t.drained = s.drained ∧ t.mem = s.mem := by
    simpa [State.still] using h
  intro r k
  rw [State.readKey, hd, hm]; rfl

theorem Leaves.bytes {s t : State} (h : Leaves s t) : SameBytes s t := sameBytes_of_still h.still

/-- A change of one group that keeps what it was. -/
theorem leaves_modGroup {s : State} {uid i : Nat} {f : Group → Group} (hf : ∀ g, s.group? uid i = some g → Kept g (f g)) : Leaves s (s.modGroup uid i f) := by
  refine ⟨fun u j g hg => ?_, rfl⟩
  rw [State.group?_modGroup_at]
  split_ifs with h
  · obtain ⟨rfl, rfl⟩ := h
    exact ⟨f g, by rw [hg]; rfl, hf g hg⟩
  · exact ⟨g, hg, Kept.refl g⟩

/-! ### Traps -/

theorem State.still_modCore (s : State) (i : Nat) (f : Core → Core) (hf : ∀ k, (f k).pipes = k.pipes) : (s.modCore i f).still = s.still := by
  have hp : (s.cores.modify i f).map (·.pipes) = s.cores.map (·.pipes) := by
    refine List.ext_getElem? fun j => ?_
    rw [List.getElem?_map, List.getElem?_map, List.getElem?_modify]
    cases s.cores[j]? with
    | none => rfl
    | some k => split_ifs <;> simp [hf]
  exact congrArg (fun x => (s.issue, x, s.drained, s.mem)) hp

@[simp] theorem State.fatal_still (s : State) (uid : Nat) (cause : BitVec 8) : (s.fatal uid cause).still = s.still := by
  unfold State.fatal
  split <;> rfl

@[simp] theorem State.fatal_group? (s : State) (uid u j : Nat) (cause : BitVec 8) : (s.fatal uid cause).group? u j = s.group? u j := by
  unfold State.fatal
  split
  · rfl
  · show ((s.modCrew uid (fun c => { c with stopped := true })).crew? u).bind _ = _
    rw [State.crew?_modCrew s uid u (fun c => { c with stopped := true }) (fun _ => rfl), State.group?]
    cases s.crew? u with
    | none => rfl
    | some c => by_cases hc : c.uid = uid <;> simp [hc]

theorem leaves_fatal (s : State) (uid : Nat) (cause : BitVec 8) : Leaves s (s.fatal uid cause) :=
  ⟨fun u j g hg => ⟨g, by rw [State.fatal_group?, hg], Kept.refl g⟩, State.fatal_still ..⟩

@[simp] theorem State.enter_still (s : State) (m : Member) (st : Nat) : (s.enter m st).still = s.still := by
  unfold State.enter
  split
  · rfl
  · exact State.still_modCore _ _ _ (fun _ => rfl)

/-- Entering a state changes the entity's group alone, and of it the lanes and the entity. -/
theorem State.enter_group? (s : State) (m : Member) (st u j : Nat) : ∃ f : Ent → Ent, ∃ fl : Group → List Lane,
    (s.enter m st).group? u j = if u = m.crew ∧ j = m.grp then (s.group? u j).map (fun g => ({ g with lanes := fl g } : Group).modEnt m.ent f) else s.group? u j := by
  unfold State.enter
  split
  next hc =>
    refine ⟨id, Group.lanes, ?_⟩
    split_ifs with h
    · rw [State.group?, h.1, hc]; rfl
    · rfl
  next c hc => exact ⟨_, fun g => (g.modLanes _ _).lanes, State.group?_modGroup_at s m.crew m.grp u j _⟩

theorem Group.landAll_kept (g : Group) : Kept g g.landAll := by
  obtain ⟨v, p, s, h⟩ := foldRegs_rest (fun g (p : Pend) => g.applyAll p.ws) (fun g p => Group.applyAll_rest p.ws g) g.pend g
  refine Kept.of_eq ?_
  rw [Group.landAll, h]

theorem Group.landOf_kept (g : Group) (m : Word) : Kept g (g.landOf m) := by
  obtain ⟨v, p, s, h⟩ := foldRegs_rest (fun g (p : Pend) => g.applyAll p.ws) (fun g p => Group.applyAll_rest p.ws g) (g.pend.filter (fun p => (p.lanes &&& m) != 0)) g
  refine Kept.of_eq ?_
  rw [Group.landOf, h]

theorem Group.unmeet_kept {g : Group} (hn : g.handler = none) (t : Trap) : Kept g (g.unmeet t) := by
  unfold Group.unmeet
  split
  next i _ =>
    split_ifs with hb
    · unfold Group.modEnt
      split_ifs with hi
      · exact ⟨rfl, rfl, rfl, rfl, fun h hh => by rw [hn] at hh; cases hh⟩
      · refine ⟨rfl, rfl, rfl, ?_, fun _ h => h⟩
        rw [List.map_map]
        refine List.map_congr_left fun e _ => ?_
        show unmet (if e.idx = i then _ else e) = _
        split_ifs <;> rfl
    · exact Kept.refl g
  · exact Kept.refl g

theorem Group.holdFences_kept (g : Group) (cause : BitVec 8) : Kept g (g.holdFences cause) := by
  unfold Group.holdFences
  split_ifs
  · exact Kept.of_eq rfl
  · exact Kept.refl g

/-- Where no handler runs, one that starts changes nothing else. -/
theorem Kept.withHandler {g g' : Group} (h : Kept g g') (hn : g.handler = none) (x : Option Handler) (cause : BitVec 8) (info : Word) (l : List Lane) :
    Kept g { g' with handler := x, cause := cause, info := info, lanes := l } :=
  ⟨h.nblk, h.tickets, h.latch, h.ents, fun y hy => by rw [hn] at hy; cases hy⟩

/-- Entering the handler of a trap (R49), where no handler runs. -/
theorem leaves_takeTrap {s : State} {uid i : Nat} {t : Trap} (hn : ∀ g, s.group? uid i = some g → g.handler = none) : Leaves s (s.takeTrap uid i t) := by
  unfold State.takeTrap
  split
  · exact Leaves.refl s
  · split
    · exact leaves_fatal s uid 1
    next c _ entry home _ =>
      dsimp only
      set f := fun g : Group => _ with hf
      have hkept : ∀ (g : Group) (fe : Ent → Ent) (l : List Lane), s.group? uid i = some g → Kept g (({ f g with lanes := l } : Group).modEnt handlerIdx fe) := by
        intro g fe l hg
        have hland : Kept g (if t.cause = causeBinding then (g.unmeet t).landOf (g.entering t) else g.landAll) := by
          split_ifs
          · exact (Group.unmeet_kept (hn g hg) t).trans (Group.landOf_kept ..)
          · exact Group.landAll_kept g
        have hlanes := hland.trans (Kept.of_eq (g' := Group.modLanes _ (g.entering t) (fun _ l => l.enterHandler entry)) rfl)
        exact (hlanes.trans (Group.holdFences_kept _ t.cause)).withHandler (hn g hg) _ _ _ l
      refine ⟨fun u j g hg => ?_, State.enter_still ..⟩
      obtain ⟨fe, fl, he⟩ := State.enter_group? (s.modGroup uid i f) ⟨uid, i, handlerIdx⟩ home u j
      rw [he, State.group?_modGroup_at]
      split_ifs with h
      · obtain ⟨rfl, rfl⟩ := h
        exact ⟨_, by rw [hg]; rfl, hkept g fe _ hg⟩
      · exact ⟨g, hg, Kept.refl g⟩

@[simp] theorem State.takeTrap_still (s : State) (uid i : Nat) (t : Trap) : (s.takeTrap uid i t).still = s.still := by
  unfold State.takeTrap
  split
  · rfl
  · split
    · exact State.fatal_still ..
    · exact State.enter_still ..

/-- Delivering a held trap leaves all that the entry of a handler leaves (R48, R50). -/
theorem leaves_deliver (s : State) (uid i : Nat) : Leaves s (s.deliver uid i) := by
  unfold State.deliver
  split
  · exact Leaves.refl s
  next g hg =>
    split
    next t hh ht =>
      split_ifs
      · refine (leaves_modGroup (s := s) (f := fun g => { g with traps := g.traps.erase t }) fun g _ => Kept.of_eq rfl).trans (leaves_takeTrap fun g' hg' => ?_)
        rw [State.group?_modGroup, hg] at hg'
        obtain rfl := Option.some.inj hg'
        exact hh
      · exact Leaves.refl s
    · exact Leaves.refl s

/-- Nothing is delivered where no trap is held. -/
theorem deliver_of_no_traps {s : State} {uid i : Nat} (h : ∀ g, s.group? uid i = some g → g.traps = []) : s.deliver uid i = s := by
  unfold State.deliver
  split
  · rfl
  next g hg =>
    rw [h g hg]
    split
    next ht => cases ht
    · rfl

/-! ### A word that is over -/

/-- The end of an entity's word but for the traps it lets in (R160). -/
def State.stepPast (s : State) (m : Member) : State := s.modEnt m (fun e => { e with pos := e.pos + 1, wait := none })

theorem State.advance_eq (s : State) (m : Member) : s.advance m = (s.stepPast m).deliver m.crew m.grp := rfl

theorem State.stepPast_ent? (s : State) (m n : Member) :
    (s.stepPast m).ent? n = if n = m then (s.ent? n).map (fun e => { e with pos := e.pos + 1, wait := none }) else s.ent? n :=
  State.ent?_modEnt s m n _ (fun _ => rfl)

/-- An entity that advances ends its word, and every other entity stays where it is. -/
theorem advance_ent {s : State} {m n : Member} {e : Ent} (he : s.ent? n = some e) :
    ((s.advance m).ent? n).map unmet = some (unmet (if n = m then { e with pos := e.pos + 1, wait := none } else e)) := by
  refine (leaves_deliver (s.stepPast m) m.crew m.grp).ent ?_
  rw [State.stepPast_ent?, he]
  split_ifs <;> rfl

theorem advance_still (s : State) (m : Member) : (s.advance m).still = s.still := (leaves_deliver (s.stepPast m) m.crew m.grp).still

end Sys2Proof.Machine
end

section
/-!
PROOFS. The ends of waits (R22, R23, R111, R114, R120 to R123, R137, R191, R250, R254, R255, R270).
-/

namespace Sys2Proof.Machine

open Sys2Proof.Claims

/-! ### The end of a word after a change of its group -/

theorem Group.modEnt_fields (g : Group) (i : Nat) (f : Ent → Ent) :
    (g.modEnt i f).nblk = g.nblk ∧ (g.modEnt i f).k = g.k ∧ (g.modEnt i f).latch = g.latch ∧ (g.modEnt i f).traps = g.traps ∧
      (g.modEnt i f).regs = g.regs ∧ (g.modEnt i f).pend = g.pend := by
  unfold Group.modEnt
  split_ifs <;> exact ⟨rfl, rfl, rfl, rfl, rfl, rfl⟩

/-- A wait that ends with a change of its group: the word is over, memory stands, and the group is as changed but for what a trap that comes in changes. -/
theorem advance_modGroup {s : State} {m : Member} {g : Group} {e : Ent} {f : Group → Group} (hg : s.group? m.crew m.grp = some g) (he : (f g).ent? m.ent = some e) :
    let t := (s.modGroup m.crew m.grp f).advance m
    WordOver t m e ∧ SameBytes s t ∧ ∃ g', t.group? m.crew m.grp = some g' ∧ g'.nblk = (f g).nblk ∧ g'.k = (f g).k ∧ g'.latch = (f g).latch ∧
      ((f g).traps = [] → g'.landAll.regs = (f g).landAll.regs) := by
  intro t
  have hfg : (s.modGroup m.crew m.grp f).group? m.crew m.grp = some (f g) := by rw [State.group?_modGroup, hg]; rfl
  have hent : (s.modGroup m.crew m.grp f).ent? m = some e := (State.ent?_of_group hfg).trans he
  obtain ⟨hnblk, hk, hlatch, htraps, hregs, hpend⟩ := Group.modEnt_fields (f g) m.ent (fun e => { e with pos := e.pos + 1, wait := none })
  set past := (f g).modEnt m.ent (fun e => { e with pos := e.pos + 1, wait := none }) with hpast
  have hstep : ((s.modGroup m.crew m.grp f).stepPast m).group? m.crew m.grp = some past := by
    rw [State.stepPast, State.modEnt, State.group?_modGroup, hfg]; rfl
  obtain ⟨g', hg', hkept⟩ := (leaves_deliver ((s.modGroup m.crew m.grp f).stepPast m) m.crew m.grp).groups _ _ past hstep
  refine ⟨(advance_ent hent).trans (by rw [if_pos rfl]), sameBytes_of_still (advance_still ..), g', hg', hkept.nblk.trans hnblk, hkept.tickets.trans hk,
    hkept.latch.trans hlatch, fun h => ?_⟩
  have hno : t = (s.modGroup m.crew m.grp f).stepPast m := deliver_of_no_traps fun x hx => by
    obtain rfl := Option.some.inj (hstep.symm.trans hx)
    exact htraps.trans h
  obtain rfl : past = g' := Option.some.inj (hstep.symm.trans (hno ▸ hg'))
  exact Group.landAll_congr hregs hpend

/-! ### Registers written at once -/

/-- A write without a latency changes registers, the results on their way and what LDS words note of it. -/
theorem Group.writeNow_rest (g : Group) (l : List RegW) : ∃ v p s pend mws, g.writeNow l = { g with v := v, p := p, s := s, pend := pend, mws := mws } := by
  unfold Group.writeNow Group.writeFor
  by_cases h : l = []
  · rw [if_pos h]
    exact ⟨_, _, _, _, _, rfl⟩
  · rw [if_neg h]
    obtain ⟨v, p, s, ha⟩ := Group.applyAll_rest (l.filter (fun w => (g.behind w).isNone)) g
    dsimp only
    rw [ha]
    exact ⟨_, _, _, _, _, rfl⟩

@[simp] theorem Group.writeNow_ent? (g : Group) (l : List RegW) (i : Nat) : (g.writeNow l).ent? i = g.ent? i := by
  obtain ⟨v, p, s, pend, mws, h⟩ := g.writeNow_rest l
  rw [h]; rfl

@[simp] theorem Group.writeNow_traps (g : Group) (l : List RegW) : (g.writeNow l).traps = g.traps := by
  obtain ⟨v, p, s, pend, mws, h⟩ := g.writeNow_rest l
  rw [h]

@[simp] theorem Group.writeNow_latch (g : Group) (l : List RegW) : (g.writeNow l).latch = g.latch := by
  obtain ⟨v, p, s, pend, mws, h⟩ := g.writeNow_rest l
  rw [h]

/-- What one result on its way adds to the cycle before which a write may not land (R321). -/
def behindStep (w : RegW) (n : Option Nat) (p : Pend) : Option Nat := if p.ws.any w.meets then some (max (n.getD 0) p.due) else n

/-- A write lands at once only where no result on its way writes the same register. -/
theorem no_meeting_of_behind {g : Group} {w : RegW} (h : g.behind w = none) : ∀ p ∈ g.pend, ∀ x ∈ p.ws, w.meets x = false := by
  have hall : ∀ (l : List Pend) (b : Option Nat), l.foldl (behindStep w) b = none → b = none ∧ ∀ p ∈ l, p.ws.any w.meets = false := by
    intro l
    induction l with
    | nil => exact fun b hb => ⟨hb, fun _ hp => absurd hp List.not_mem_nil⟩
    | cons p l ih =>
      intro b hb
      obtain ⟨hstep, hl⟩ := ih _ hb
      unfold behindStep at hstep
      split_ifs at hstep with hp
      exact ⟨hstep, List.forall_mem_cons.mpr ⟨Bool.not_eq_true _ ▸ hp, hl⟩⟩
  intro p hp x hx
  have := List.any_eq_false.mp ((hall g.pend none h).2 p hp) x hx
  simpa using this

theorem Group.getS_apply {g : Group} {d : Nat} {x : Word} {w : RegW} (h : (RegW.s d x).meets w = false) : (g.apply w).getS d = g.getS d := by
  cases w with
  | v r l m y => rfl
  | p r l m y =>
    unfold Group.apply Group.setP
    dsimp only
    split_ifs <;> rfl
  | s r y =>
    have hd : ¬ d = r := by simpa [RegW.meets] using h
    rw [Group.apply, Group.getS_setS, if_neg (fun hr => hd hr.1)]

theorem Group.getS_applyAll {d : Nat} {x : Word} (ws : List RegW) (h : ∀ w ∈ ws, (RegW.s d x).meets w = false) (g : Group) : (g.applyAll ws).getS d = g.getS d := by
  unfold Group.applyAll
  induction ws generalizing g with
  | nil => rfl
  | cons w ws ih =>
    obtain ⟨hw, hws⟩ := List.forall_mem_cons.mp h
    rw [List.foldl_cons, ih hws, Group.getS_apply hw]

theorem getS_foldPend {d : Nat} {x : Word} (l : List Pend) (h : ∀ p ∈ l, ∀ w ∈ p.ws, (RegW.s d x).meets w = false) (g : Group) :
    (l.foldl (fun g p => g.applyAll p.ws) g).getS d = g.getS d := by
  induction l generalizing g with
  | nil => rfl
  | cons p l ih =>
    obtain ⟨hp, hl⟩ := List.forall_mem_cons.mp h
    rw [List.foldl_cons, ih hl, Group.getS_applyAll p.ws hp]

theorem Group.writeNow_of_free {g : Group} {w : RegW} (h : g.behind w = none) :
    (g.writeNow [w]).regs = (g.apply w).regs ∧ (g.writeNow [w]).pend = g.pend := by
  obtain ⟨v, p, s, ha⟩ := Group.apply_rest g w
  unfold Group.writeNow Group.writeFor
  rw [if_neg (List.cons_ne_nil _ _)]
  simp [h, pendOf, Group.applyAll, Group.regs, Group.clobber, ha]

theorem Group.writeNow_of_behind {g : Group} {w : RegW} {n : Nat} (h : g.behind w = some n) :
    (g.writeNow [w]).regs = g.regs ∧ (g.writeNow [w]).pend = g.pend ++ pendOf 0 0 0 0 true [(n, w)] := by
  unfold Group.writeNow Group.writeFor
  rw [if_neg (List.cons_ne_nil _ _)]
  simp [h, Group.applyAll, Group.regs, Group.clobber]

/-- An S register written at once holds the value when all results have landed: those on their way to it landed before (R321). -/
theorem getS_writeNow (g : Group) (d : Nat) (x : Word) (hd : d ≠ 0) : (g.writeNow [RegW.s d x]).landAll.getS d = x := by
  rw [Group.getS_regs (Group.landAll_regs _)]
  cases hb : g.behind (.s d x) with
  | none =>
    obtain ⟨hregs, hpend⟩ := Group.writeNow_of_free hb
    rw [hpend, Group.getS_regs (foldPend_regs _ hregs), getS_foldPend _ (no_meeting_of_behind hb), Group.apply, Group.getS_setS, if_pos ⟨rfl, hd⟩]
  | some n =>
    obtain ⟨-, hpend⟩ := Group.writeNow_of_behind hb
    rw [hpend, List.foldl_append, pendOf_regs]
    show (Group.setS _ d x).getS d = x
    rw [Group.getS_setS, if_pos ⟨rfl, hd⟩]

/-- What an entity-level word writes to the S register of its DST is there when all results have landed. -/
theorem getS_writeNow_sWrite (g : Group) (w : Opnd) (n : Nat) (d : BitVec 6) (hw : w = .s d) (hd : d ≠ 0) :
    (g.writeNow (sWrite w n)).landAll.getS d.toNat = BitVec.ofNat 64 n := by
  subst hw
  exact getS_writeNow g d.toNat _ (fun h => hd (BitVec.eq_of_toNat_eq h))

/-! ### The instruction in which an entity waits -/

/-- A change of the group that leaves the entity leaves the instruction in which it waits. -/
theorem waiting_modGroup {s : State} {m : Member} {f : Group → Group} {x : Ctx} {o : Op} {w : Body} (h : s.waiting m = some (x, o, w))
    (hf : ∀ g, s.group? m.crew m.grp = some g → (f g).ent? m.ent = g.ent? m.ent) : ∃ x', (s.modGroup m.crew m.grp f).waiting m = some (x', o, w) := by
  unfold State.waiting at h
  split at h
  · cases h
  next e he =>
    split at h
    next i hi =>
      split at h
      next o' w' c hw hctx =>
        obtain ⟨rfl, rfl, rfl⟩ : c = x ∧ o' = o ∧ w' = w := by simpa using h
        obtain ⟨hc, hg, -, -, -⟩ := State.ctxOf_some hctx
        have hg' : (s.modGroup m.crew m.grp f).group? m.crew m.grp = some (f c.g) := by rw [State.group?_modGroup, hg]; rfl
        have he' : (f c.g).ent? m.ent = some e := by rw [hf c.g hg, ← State.ent?_of_group hg, he]
        have hent : (s.modGroup m.crew m.grp f).ent? m = some e := (State.ent?_of_group hg').trans he'
        have hc' : (s.modGroup m.crew m.grp f).crew? m.crew = some (c.crew.modGroup m.grp f) := by rw [State.crew?_modGroup, hc]; rfl
        obtain ⟨x', hx'⟩ : ∃ x', (s.modGroup m.crew m.grp f).ctxOf m ((s.modGroup m.crew m.grp f).cycOf m) (instrHdr i).slot = some x' := by
          unfold State.ctxOf
          rw [hc', hg']
          exact ⟨_, congrArg (Option.map _) he'⟩
        refine ⟨x', ?_⟩
        unfold State.waiting
        simp only [hent, hi, hw, hx']
      · cases h
    · cases h

/-! ### Waits of one entity -/

/-- RACQ_GRANT (R22, R23). -/
theorem racqGrant_ends {core n : Nat} {m : Member} {s : State} {c : Crew} {g : Group} {e : Ent} (hfirst : s.racqFirst core = some (m, n)) (hc : s.crew? m.crew = some c)
    (hg : s.group? m.crew m.grp = some g) (he : g.ent? m.ent = some e) (hfree : (n - g.nblk) * (c.width / 8) ≤ s.freeGranules core) :
    Goes (.racqGrant core) s (fun t => WordOver t m e ∧ (t.group? m.crew m.grp).map (·.nblk) = some (max g.nblk n) ∧ SameBytes s t) := by
  obtain ⟨hover, hbytes, g', hg', hnblk, -⟩ := advance_modGroup (f := fun g => g.raiseBlocks n) hg he
  refine ⟨_, ?_, hover, by rw [hg', Option.map_some, hnblk]; rfl, hbytes⟩
  show execRacqGrant core s = _
  unfold execRacqGrant
  rw [hfirst]
  simp only [hc, hg]
  exact if_pos hfree

/-- A group that acquires stores changes in nothing else. -/
theorem State.take_eq (s : State) (uid gi seq : Nat) (l : List Seen) :
    ∃ acq : Group → List (Nat × Seen), s.take uid gi seq l = s.modGroup uid gi (fun g => { g with acq := acq g }) := ⟨_, rfl⟩

theorem State.acquire_eq {s : State} {uid gi seq : Nat} {keys : List Nat} {g : Group} (hg : s.group? uid gi = some g) :
    ∃ acq : Group → List (Nat × Seen), s.acquire uid gi seq keys = s.modGroup uid gi (fun g => { g with acq := acq g }) := by
  obtain ⟨c, hc, -⟩ := Option.bind_eq_some_iff.mp hg
  unfold State.acquire
  rw [hc]
  exact State.take_eq ..

/-- TBWAIT_END (R111, R254). -/
theorem tbwaitEnd_ends {m : Member} {s : State} {g : Group} {e : Ent} {off ph : Nat} {x : Ctx} {w : Body} (hg : s.group? m.crew m.grp = some g)
    (he : g.ent? m.ent = some e) (hwait : e.wait = some (.tbwait off ph)) (hw : s.waiting m = some (x, .tbwait, w))
    (hend : (s.tbar (scratchKey m.crew off)).phase ≠ ph ∨ (s.tbar (scratchKey m.crew off)).err = true) :
    let b := s.tbar (scratchKey m.crew off)
    Goes (.tbwaitEnd m) s (fun t => WordOver t m e ∧ SameBytes s t ∧ (∀ d, w.dst = .s d → d ≠ 0 → g.traps = [] → ∃ g', t.group? m.crew m.grp = some g' ∧
      g'.landAll.getS d.toNat = BitVec.ofNat 64 (b.phase + (if b.err then 16 else 0) + 32 * b.kind + 256))) := by
  intro b
  have hended : b.ended ph = true := by simpa [TBar.ended] using hend
  have hreport : b.report ph = b.phase + (if b.err then 16 else 0) + 32 * b.kind + 256 := by rw [TBar.report, hended, if_pos rfl]
  obtain ⟨acq, hacq⟩ := State.acquire_eq (seq := s.nextSeq) (keys := keysFrom (tbKey m.crew off) 16) hg
  let f : Group → Group := fun g => ({ g with acq := acq g } : Group).writeNow (sWrite w.dst (b.report ph))
  have hf : (f g).ent? m.ent = some e := (Group.writeNow_ent? _ _ _).trans he
  obtain ⟨hover, hbytes, g', hg', -, -, -, hregs⟩ := advance_modGroup hg hf
  refine ⟨(s.modGroup m.crew m.grp f).advance m, ?_, hover, hbytes, fun d hd h0 htr => ⟨g', hg', ?_⟩⟩
  · show execTbwaitEnd m s = _
    unfold execTbwaitEnd
    rw [State.ent?_of_group hg, he, Option.bind_some, hwait, hw]
    refine (if_pos hended).trans ?_
    rw [State.tbAcquire, hacq, State.endWait, State.modGroup_modGroup]; rfl
  · rw [Group.getS_regs (hregs ((Group.writeNow_traps _ _).trans htr)), getS_writeNow_sWrite _ w.dst _ d hd h0, hreport]

/-- WAITA_END (R120). -/
theorem waitaEnd_ends {m : Member} {s : State} {g : Group} {e : Ent} {a n : Nat} (hg : s.group? m.crew m.grp = some g) (he : g.ent? m.ent = some e)
    (hwait : e.wait = some (.waita a n)) (hn : (g.getA a).toNat ≤ n) : Goes (.waitaEnd m) s (fun t => WordOver t m e ∧ SameBytes s t) := by
  have hent := (State.ent?_of_group hg).trans he
  refine ⟨s.advance m, ?_, (advance_ent hent).trans (by rw [if_pos rfl]), sameBytes_of_still (advance_still ..)⟩
  show execWaitaEnd m s = _
  unfold execWaitaEnd
  rw [hent, Option.bind_some, hwait, hg]
  exact if_pos hn

theorem Group.setTicket_idle (g : Group) (k : Nat) : (g.setTicket k .idle).ticket k = .idle := by
  unfold Group.ticket Group.setTicket
  by_cases hk : k < g.k.length <;> simp [hk]

/-- TWAIT_END of a ticket that stands idle or done (R137, R270). -/
theorem twaitEnd_ends {m : Member} {s : State} {g : Group} {e : Ent} {k : Nat} (hg : s.group? m.crew m.grp = some g) (he : g.ent? m.ent = some e)
    (hwait : e.wait = some (.twait k)) (hk : g.ticket k = .idle ∨ ∃ ids, g.ticket k = .done ids) :
    Goes (.twaitEnd m) s (fun t => WordOver t m e ∧ SameBytes s t ∧ (t.group? m.crew m.grp).map (fun x => x.ticket k) = some .idle) := by
  have hclear : ∃ acq : Group → List (Nat × Seen), s.clearTicket m.crew m.grp k = s.modGroup m.crew m.grp (fun g => { g.setTicket k .idle with acq := acq g }) := by
    unfold State.clearTicket
    rw [hg, Option.map_some, Option.getD_some]
    rcases hk with hk | ⟨ids, hk⟩
    · rw [hk]; exact ⟨fun g => g.acq, rfl⟩
    · obtain ⟨acq, hacq⟩ := State.take_eq (s.modGroup m.crew m.grp (fun g => g.setTicket k .idle)) m.crew m.grp s.nextSeq (ids.map .store)
      rw [hk]
      exact ⟨fun g => acq (g.setTicket k .idle), hacq.trans (State.modGroup_modGroup ..)⟩
  obtain ⟨acq, hacq⟩ := hclear
  obtain ⟨hover, hbytes, g', hg', -, htick, -⟩ := advance_modGroup (f := fun g => { g.setTicket k .idle with acq := acq g }) hg he
  refine ⟨_, ?_, hover, hbytes, ?_⟩
  · show execTwaitEnd m s = _
    unfold execTwaitEnd
    rw [State.ent?_of_group hg, he, Option.bind_some, hwait, hg]
    dsimp only
    rw [hacq]
    rcases hk with hk | ⟨ids, hk⟩ <;> rw [hk]
  · rw [hg', Option.map_some, Group.ticket, htick]
    exact congrArg some (Group.setTicket_idle g k)

/-- MWAIT returns with a result where the latch is clear: what it writes has its register (R122, R123). -/
theorem mwaitReturn_ends {m : Member} {s : State} {g : Group} {e : Ent} {x : Ctx} {w : Body} (r : Nat) (hg : s.group? m.crew m.grp = some g)
    (he : g.ent? m.ent = some e) (hw : s.waiting m = some (x, .mwait, w)) (htr : g.traps = []) (hl : g.latch = none) :
    let t := s.mwaitReturn m r
    WordOver t m e ∧ SameBytes s t ∧ ∃ g', t.group? m.crew m.grp = some g' ∧ g'.latch = none ∧
      ∀ d, w.dst = .s d → d ≠ 0 → g'.landAll.getS d.toNat = BitVec.ofNat 64 r := by
  intro t
  have ht : t = (s.modGroup m.crew m.grp (fun g => g.writeNow (sWrite w.dst r))).advance m := by
    show State.mwaitReturn s m r = _
    unfold State.mwaitReturn
    rw [hw]
    rfl
  obtain ⟨hover, hbytes, g', hg', -, -, hlatch, hregs⟩ := advance_modGroup (f := fun g => g.writeNow (sWrite w.dst r)) hg ((Group.writeNow_ent? g (sWrite w.dst r) m.ent).trans he)
  rw [ht]
  refine ⟨hover, hbytes, g', hg', hlatch.trans ((Group.writeNow_latch ..).trans hl), fun d hd h0 => ?_⟩
  rw [Group.getS_regs (hregs ((Group.writeNow_traps _ _).trans htr)), getS_writeNow_sWrite _ w.dst _ d hd h0]

/-- A latch that wakes a group with one MWAIT pending ends that one. -/
theorem mwaitWake_one {m : Member} {s : State} {g : Group} {l : Latch} (hg : s.group? m.crew m.grp = some g) (hl : g.latch = some l) (hm : g.mwaiters = [m.ent]) :
    s.mwaitWake m = some ((s.modGroup m.crew m.grp (fun g => { g with latch := none })).mwaitReturn m (latchReason l)) := by
  unfold State.mwaitWake
  rw [hg]
  dsimp only
  rw [hl]
  dsimp only
  rw [hm, if_pos (by simp), State.mwaitWakes, hg, Option.map_some, Option.getD_some, hm]
  rfl

/-- What the end of an MWAIT gives: its word is over, the latch clear, and the result in its register. -/
def MwaitGives (m : Member) (s : State) (e : Ent) (w : Body) (i : Instr) (r : Nat) : Prop :=
  Goes i s (fun t => WordOver t m e ∧ SameBytes s t ∧ ∃ g', t.group? m.crew m.grp = some g' ∧ g'.latch = none ∧
    ∀ d, w.dst = .s d → d ≠ 0 → g'.landAll.getS d.toNat = BitVec.ofNat 64 r)

/-- A step that reports a set latch, with one MWAIT pending (R122). -/
theorem mwaitWake_ends {m : Member} {s : State} {g : Group} {e : Ent} {x : Ctx} {w : Body} {l : Latch} {i : Instr} {row : String}
    (hg : s.group? m.crew m.grp = some g) (he : g.ent? m.ent = some e) (hw : s.waiting m = some (x, .mwait, w)) (htr : g.traps = []) (hl : g.latch = some l)
    (hm : g.mwaiters = [m.ent]) (hi : exec i s = endEvent row (s.mwaitWake m)) : MwaitGives m s e w i (latchReason l) := by
  let s1 := s.modGroup m.crew m.grp (fun g => { g with latch := none })
  have hg' : s1.group? m.crew m.grp = some { g with latch := none } := by
    rw [State.group?_modGroup, hg]; rfl
  obtain ⟨x', hx'⟩ := waiting_modGroup (f := fun g => { g with latch := none }) hw (fun _ _ => rfl)
  rw [mwaitWake_one hg hl hm] at hi
  exact ⟨_, hi, mwaitReturn_ends (s := s1) (latchReason l) hg' he hx' htr rfl⟩

/-- MWAIT_TIMEOUT once its time has come: a set latch is reported first (R123). -/
theorem mwaitTimeout_eq {m : Member} {s : State} {g : Group} {e : Ent} {since lim : Nat} (hg : s.group? m.crew m.grp = some g) (he : g.ent? m.ent = some e)
    (hwait : e.wait = some (.mwait since lim)) (h0 : lim ≠ 0) (hdue : since + lim ≤ s.clock.toNat) :
    exec (.mwaitTimeout m) s = if g.latch.isSome then endEvent "MWAIT_TIMEOUT" (s.mwaitWake m) else .next (s.mwaitReturn m 3) := by
  show execMwaitTimeout m s = _
  unfold execMwaitTimeout
  rw [State.ent?_of_group hg, he, Option.bind_some, hwait, hg]
  exact if_pos ⟨h0, hdue⟩

/-! ### Crew barriers -/

/-- An entity whose word is over, whatever it noted of a meeting before. -/
theorem wordOver_congr {t : State} {m : Member} {e e' : Ent} (h : unmet e' = unmet e) (ho : WordOver t m e') : WordOver t m e := by
  have hpast : ∀ x : Ent, unmet { x with pos := x.pos + 1, wait := none } = { unmet x with pos := (unmet x).pos + 1, wait := none } := fun _ => rfl
  unfold WordOver at ho ⊢
  rw [ho, hpast, hpast, h]

/-- Members that advance leave every other entity at its word. -/
theorem foldl_advance_other (l : List Member) {n : Member} (hn : n ∉ l) {s : State} {e : Ent} (he : (s.ent? n).map unmet = some (unmet e)) :
    ((l.foldl State.advance s).ent? n).map unmet = some (unmet e) := by
  induction l generalizing s with
  | nil => exact he
  | cons m l ih =>
    obtain ⟨hm, hl⟩ := List.ne_and_not_mem_of_not_mem_cons hn
    obtain ⟨e', he', hu⟩ := Option.map_eq_some_iff.mp he
    refine ih hl ?_
    rw [advance_ent he', if_neg hm, hu]

/-- Each of several members that advance ends its word, once. -/
theorem foldl_advance_over (l : List Member) (hl : l.Nodup) {n : Member} (hn : n ∈ l) {s : State} {e : Ent} (he : (s.ent? n).map unmet = some (unmet e)) :
    WordOver (l.foldl State.advance s) n e := by
  induction l generalizing s with
  | nil => cases hn
  | cons m l ih =>
    obtain ⟨hm, hl'⟩ := List.nodup_cons.mp hl
    obtain ⟨e', he', hu⟩ := Option.map_eq_some_iff.mp he
    have hadv := advance_ent (m := m) he'
    by_cases h : n = m
    · rw [if_pos h] at hadv
      exact wordOver_congr hu (foldl_advance_other l (h ▸ hm) hadv)
    · rw [if_neg h, hu] at hadv
      exact ih hl' ((List.mem_cons.mp hn).resolve_left h) hadv

theorem foldl_advance_still (l : List Member) (s : State) : (l.foldl State.advance s).still = s.still :=
  foldl_keeps State.still State.advance advance_still l s

/-- The entities of a group, its handler's included. -/
def Group.allEnts (g : Group) : List Ent := g.ents ++ (g.handler.map (·.ent)).toList

/-- A group whose entities are told apart by their indices. -/
def Group.Indexed (g : Group) : Prop := (g.ents.map (·.idx)).Nodup ∧ (∀ e ∈ g.ents, e.idx < 4) ∧ ∀ h, g.handler = some h → h.ent.idx = handlerIdx

theorem Group.Indexed.nodup {g : Group} (h : g.Indexed) : (g.allEnts.map (·.idx)).Nodup := by
  obtain ⟨hnd, hlt, hh⟩ := h
  unfold Group.allEnts
  rw [List.map_append]
  cases hg : g.handler with
  | none => simpa using hnd
  | some x =>
    refine List.Nodup.append hnd (List.nodup_singleton _) fun i hi hi' => ?_
    obtain ⟨e, he, rfl⟩ := List.mem_map.mp hi
    have h4 : e.idx = handlerIdx := (List.mem_singleton.mp hi').trans (hh x hg)
    have := hlt e he
    rw [h4] at this
    exact absurd this (by decide)

theorem Group.Indexed.ent? {g : Group} (h : g.Indexed) {i : Nat} {e : Ent} (he : g.ent? i = some e) : e ∈ g.allEnts ∧ e.idx = i := by
  obtain ⟨-, -, hh⟩ := h
  unfold Group.ent? at he
  split_ifs at he with hi
  · obtain ⟨x, hx, rfl⟩ := Option.map_eq_some_iff.mp he
    exact ⟨by simp [Group.allEnts, hx], (hh x hx).trans hi.symm⟩
  · exact ⟨List.mem_append_left _ (List.mem_of_find?_eq_some he), by simpa using List.find?_some he⟩

/-- The members of a crew that wait at a crew barrier. -/
def Crew.barMembers (c : Crew) (uid n : Nat) : List Member :=
  (c.groups.mapIdx (fun gi g => (gi, g))).flatMap (fun x => (x.2.barWaiters n).map (fun e => ⟨uid, x.1, e.idx⟩))

theorem Crew.mem_barMembers (c : Crew) (uid n : Nat) (m : Member) :
    m ∈ c.barMembers uid n ↔ m.crew = uid ∧ ∃ g, c.groups[m.grp]? = some g ∧ ∃ e ∈ g.allEnts, e.wait = some (.bar n) ∧ e.idx = m.ent := by
  unfold Crew.barMembers Group.barWaiters
  simp only [List.mem_flatMap, List.mem_mapIdx, List.mem_map, List.mem_filter, beq_iff_eq]
  constructor
  · rintro ⟨_, ⟨gi, hgi, rfl⟩, e, ⟨he, hw⟩, rfl⟩
    exact ⟨rfl, c.groups[gi], List.getElem?_eq_getElem hgi, e, he, hw, rfl⟩
  · rintro ⟨rfl, g, hg, e, he, hw, hi⟩
    obtain ⟨hlt, rfl⟩ := List.getElem?_eq_some_iff.mp hg
    exact ⟨_, ⟨m.grp, hlt, rfl⟩, e, ⟨he, hw⟩, by rw [hi]⟩

theorem Crew.barMembers_nodup {c : Crew} (hc : ∀ g ∈ c.groups, g.Indexed) (uid n : Nat) : (c.barMembers uid n).Nodup := by
  unfold Crew.barMembers
  refine List.nodup_flatMap.mpr ⟨fun x hx => ?_, List.pairwise_iff_getElem.mpr fun i j hi hj hij => ?_⟩
  · obtain ⟨gi, hgi, rfl⟩ := List.mem_mapIdx.mp hx
    refine List.Nodup.of_map Member.ent ?_
    rw [List.map_map]
    exact ((hc _ (List.getElem_mem hgi)).nodup).sublist (List.filter_sublist.map _)
  · rw [List.getElem_mapIdx, List.getElem_mapIdx]
    intro m hm hm'
    obtain ⟨e, -, rfl⟩ := List.mem_map.mp hm
    obtain ⟨e', -, h⟩ := List.mem_map.mp hm'
    exact hij.ne' (congrArg Member.grp h)

/-- The acquires of a completing crew barrier leave every group but for what it has acquired. -/
theorem leaves_takes (uid : Nat) (seen : List Seen) (l : List Nat) (s : State) : Leaves s (l.foldl (fun s gi => s.take uid gi s.nextSeq seen) s) := by
  induction l generalizing s with
  | nil => exact Leaves.refl s
  | cons gi l ih =>
    have htake : Leaves s (s.take uid gi s.nextSeq seen) := leaves_modGroup fun g _ => Kept.of_eq rfl
    exact htake.trans (ih _)

/-- A crew barrier that completes (R114): every member that waits at it goes on, and every other entity stays. -/
theorem barComplete_ends {crew n : Nat} {s : State} {c : Crew} (hc : s.crew? crew = some c) (hr : s.barReady crew n = true) (hwf : ∀ g ∈ c.groups, g.Indexed) :
    Goes (.barComplete crew n) s (fun t => SameBytes s t ∧ ∀ m e, m.crew = crew → s.ent? m = some e →
      (e.wait = some (.bar n) → WordOver t m e) ∧ (e.wait ≠ some (.bar n) → (t.ent? m).map unmet = some (unmet e))) := by
  let seen := (c.groups.mapIdx (fun gi g => g.snapshot crew gi s.nextSeq)).flatten.eraseDups
  let s1 := (List.range c.groups.length).foldl (fun s gi => s.take crew gi s.nextSeq seen) s
  have hleaves : Leaves s s1 := leaves_takes crew seen _ s
  have hdone : s.barDone crew n = (c.barMembers crew n).foldl State.advance s1 := by
    unfold State.barDone Crew.barMembers
    rw [hc, List.foldl_flatMap]
    simp only [List.foldl_map]
    rfl
  refine ⟨s.barDone crew n, if_pos hr, ?_, fun m e hm he => ?_⟩
  · exact sameBytes_of_still (hdone ▸ (foldl_advance_still ..).trans hleaves.still)
  · obtain ⟨g, hg, hge⟩ := State.group_of_ent? he
    have hcg : c.groups[m.grp]? = some g := by simpa [State.group?, hm, hc] using hg
    have hgwf := hwf g (List.mem_of_getElem? hcg)
    obtain ⟨hmem, hidx⟩ := hgwf.ent? hge
    have hiff : m ∈ c.barMembers crew n ↔ e.wait = some (.bar n) := by
      rw [Crew.mem_barMembers]
      constructor
      · rintro ⟨-, g', hg', x, hx, hw, hi⟩
        obtain rfl := Option.some.inj (hcg.symm.trans hg')
        obtain rfl : x = e := List.inj_on_of_nodup_map hgwf.nodup hx hmem (hi.trans hidx.symm)
        exact hw
      · exact fun hw => ⟨hm, g, hcg, e, hmem, hw, hidx⟩
    rw [hdone]
    exact ⟨fun hw => foldl_advance_over _ (Crew.barMembers_nodup hwf crew n) (hiff.mpr hw) (hleaves.ent he),
      fun hw => foldl_advance_other _ (hiff.not.mpr hw) (hleaves.ent he)⟩

/-- Settles O45: each wait's end by its step. -/
theorem waitEndSteps : Obligations.WaitEndSteps := by
  unfold Obligations.WaitEndSteps
  refine ⟨fun core n m s c g e hfirst hc hg he hfree => racqGrant_ends hfirst hc hg he hfree, fun crew n s c hc hr hwf => barComplete_ends hc hr hwf, ?_⟩
  intro m s g e hg he
  refine ⟨fun off ph x w hwait hw => tbwaitEnd_ends hg he hwait hw, fun a n hwait hn => waitaEnd_ends hg he hwait hn,
    fun k hwait => ⟨twaitEnd_ends hg he hwait, fun cause info hk => ?_⟩, fun since lim x w hwait hw htr => ⟨fun l hl hm => ⟨?_, fun h0 hdue => ?_⟩, fun hl h0 hdue => ?_⟩⟩
  · show execTwaitEnd m s = _
    unfold execTwaitEnd
    rw [State.ent?_of_group hg, he, Option.bind_some, hwait, hg]
    dsimp only
    rw [hk]
    rfl
  · exact mwaitWake_ends hg he hw htr hl hm rfl
  · refine mwaitWake_ends hg he hw htr hl hm (row := "MWAIT_TIMEOUT") ?_
    rw [mwaitTimeout_eq hg he hwait h0 hdue, hl]
    rfl
  · refine ⟨s.mwaitReturn m 3, ?_, mwaitReturn_ends 3 hg he hw htr hl⟩
    rw [mwaitTimeout_eq hg he hwait h0 hdue, hl]
    rfl

end Sys2Proof.Machine
end

section
/-!
PROOFS. ISSUE_CHOICE, RESULT_LAND and CODE_SEGMENT_DELIVER (R10, R13, R14, R53, R161, R318).
-/

namespace Sys2Proof.Machine

open Sys2Proof.Claims

/-! ### The lead (R14) -/

theorem firstBy_concat (lt : Cand → Cand → Bool) (l : List Cand) (x : Cand) :
    firstBy lt (l ++ [x]) = match firstBy lt l with
      | none => some x
      | some y => if lt x y then some x else some y := List.foldl_concat ..

/-- The first of a list by an order is of the list, and under a transitive and irreflexive order none precedes it. -/
theorem firstBy_spec {lt : Cand → Cand → Bool} {l : List Cand} {y : Cand} (h : firstBy lt l = some y) :
    y ∈ l ∧ ((∀ a b c, lt a b = true → lt b c = true → lt a c = true) → (∀ a, lt a a = false) → ∀ x ∈ l, lt x y = false) := by
  induction l using List.reverseRecOn generalizing y with
  | nil => cases h
  | append_singleton l x ih =>
    rw [firstBy_concat] at h
    cases hl : firstBy lt l with
    | none =>
      rw [hl] at h
      obtain rfl := Option.some.inj h
      have hnil : l = [] := by
        cases l using List.reverseRecOn with
        | nil => rfl
        | append_singleton l z =>
          rw [firstBy_concat] at hl
          split at hl
          · cases hl
          · split_ifs at hl
      subst hnil
      refine ⟨by simp, fun _ hirr z hz => ?_⟩
      obtain rfl : z = x := by simpa using hz
      exact hirr z
    | some z =>
      rw [hl] at h
      obtain ⟨hz, hmin⟩ := ih hl
      dsimp only at h
      split_ifs at h with hx
      · obtain rfl := Option.some.inj h
        refine ⟨by simp, fun htr hirr w hw => ?_⟩
        rcases List.mem_append.mp hw with hw | hw
        · by_contra hwx
          have := htr w x z (by simpa using hwx) hx
          rw [hmin htr hirr w hw] at this
          cases this
        · obtain rfl := List.mem_singleton.mp hw
          exact hirr w
      · obtain rfl := Option.some.inj h
        refine ⟨List.mem_append_left _ hz, fun htr hirr w hw => ?_⟩
        rcases List.mem_append.mp hw with hw | hw
        · exact hmin htr hirr w hw
        · obtain rfl := List.mem_singleton.mp hw
          simpa using hx

theorem Cand.before_iff (a b : Cand) : a.before b = true ↔ a.issued < b.issued ∨ (a.issued = b.issued ∧ (a.order < b.order ∨ (a.order = b.order ∧
    (a.m.grp < b.m.grp ∨ (a.m.grp = b.m.grp ∧ a.m.ent < b.m.ent))))) := by
  simp [Cand.before]

theorem Cand.before_irrefl (a : Cand) : a.before a = false := by
  rw [← Bool.not_eq_true, Cand.before_iff]
  omega

theorem Cand.before_trans {a b c : Cand} (hab : a.before b = true) (hbc : b.before c = true) : a.before c = true := by
  rw [Cand.before_iff] at *
  omega

theorem Cand.leads_irrefl (a : Cand) : a.leads a = false := by
  simp [Cand.leads, Cand.before_irrefl]

theorem Cand.leads_iff (a b : Cand) : a.leads b = true ↔ b.prio < a.prio ∨ (a.prio = b.prio ∧ ((a.yh = false ∧ b.yh = true) ∨ (a.yh = b.yh ∧ a.before b = true))) := by
  simp [Cand.leads]

theorem Cand.leads_trans (a b c : Cand) (hab : a.leads b = true) (hbc : b.leads c = true) : a.leads c = true := by
  rw [Cand.leads_iff] at *
  rcases hab with hab | ⟨hp, hab⟩
  · left; omega
  · rcases hbc with hbc | ⟨hp', hbc⟩
    · left; omega
    · refine .inr ⟨hp.trans hp', ?_⟩
      rcases hab with ⟨ha, hb⟩ | ⟨hy, hab⟩
      · rcases hbc with ⟨hb', -⟩ | ⟨hy', -⟩
        · rw [hb] at hb'; cases hb'
        · exact .inl ⟨ha, hy' ▸ hb⟩
      · rcases hbc with ⟨hb', hc⟩ | ⟨hy', hbc⟩
        · exact .inl ⟨hy.trans hb', hc⟩
        · exact .inr ⟨hy.trans hy', Cand.before_trans hab hbc⟩

/-- The lead is a candidate, and where none has waited too long, none precedes it in R14's order. -/
theorem leadOf_spec {l : List Cand} {lead : Cand} (h : leadOf l = some lead) :
    lead ∈ l ∧ ((∀ x ∈ l, x.turn < 223) → ∀ x ∈ l, x.leads lead = false) := by
  unfold leadOf at h
  split at h
  next hlate =>
    obtain ⟨hmem, hmin⟩ := firstBy_spec h
    exact ⟨hmem, fun _ => hmin Cand.leads_trans Cand.leads_irrefl⟩
  next late hlate =>
    have hmem := List.mem_filter.mp (firstBy_spec h).1
    exact ⟨hmem.1, fun hturn => absurd (hturn _ hmem.1) (by simpa using hmem.2)⟩

/-! ### The pack (R13) -/

/-- What a pack of a lead holds. -/
structure PackOk (lead : Cand) (all pack : List Cand) : Prop where
  same  : ∀ x ∈ pack, x ∈ all ∧ x.img = lead.img ∧ x.st = lead.st ∧ x.pos = lead.pos ∧ x.code = lead.code
  width : lead.width ≤ 64 → (pack.map (·.width)).sum ≤ 64
  nodup : (pack.map (fun x => (x.m.crew, x.m.grp))).Nodup

theorem mem_insertBy {α : Type} {le : α → α → Bool} {x y : α} {l : List α} (h : y ∈ insertBy le x l) : y = x ∨ y ∈ l := by
  induction l with
  | nil => simpa [insertBy] using h
  | cons z l ih =>
    unfold insertBy at h
    split_ifs at h
    · rcases List.mem_cons.mp h with rfl | h
      · simp
      · exact (ih h).imp_right (List.mem_cons_of_mem _)
    · exact List.mem_cons.mp h

theorem mem_sortBy {α : Type} {le : α → α → Bool} {y : α} {l : List α} (h : y ∈ sortBy le l) : y ∈ l := by
  induction l using List.reverseRecOn with
  | nil => exact h
  | append_singleton l x ih =>
    rw [sortBy, List.foldl_concat] at h
    rcases mem_insertBy h with rfl | h
    · simp
    · exact List.mem_append_left _ (ih h)

theorem foldl_width (l : List Cand) : l.foldl (fun n y => n + y.width) 0 = (l.map (·.width)).sum := by
  rw [List.sum_eq_foldl, List.foldl_map]

theorem Cand.fits_iff (x lead : Cand) (pack : List Cand) : x.fits lead pack = true ↔ x.img = lead.img ∧ x.st = lead.st ∧ x.pos = lead.pos ∧ x.code = lead.code ∧
    (pack.map (·.width)).sum + x.width ≤ 64 ∧ (x.m.crew, x.m.grp) ∉ pack.map (fun x => (x.m.crew, x.m.grp)) := by
  simp only [Cand.fits, foldl_width, Bool.and_eq_true, beq_iff_eq, decide_eq_true_eq, List.all_eq_true, Bool.not_eq_true', Bool.and_eq_false_imp, beq_eq_false_iff_ne,
    List.mem_map, Prod.mk.injEq, not_exists, not_and, and_assoc]

/-- A pack takes what fits, and stays a pack (R13). -/
theorem PackOk.grow {lead : Cand} {all : List Cand} (l : List Cand) (hl : ∀ x ∈ l, x ∈ all) {pack : List Cand} (h : PackOk lead all pack) :
    PackOk lead all (l.foldl (fun p x => if x.fits lead p then p ++ [x] else p) pack) := by
  induction l generalizing pack with
  | nil => exact h
  | cons x l ih =>
    obtain ⟨hx, hl'⟩ := List.forall_mem_cons.mp hl
    rw [List.foldl_cons]
    refine ih hl' ?_
    split_ifs with hf
    · obtain ⟨himg, hst, hpos, hcode, hw, hnew⟩ := (Cand.fits_iff x lead pack).mp hf
      refine ⟨fun y hy => ?_, fun _ => by simpa using hw, ?_⟩
      · rcases List.mem_append.mp hy with hy | hy
        · exact h.same y hy
        · obtain rfl := List.mem_singleton.mp hy
          exact ⟨hx, himg, hst, hpos, hcode⟩
      · rw [List.map_append]
        refine List.Nodup.append h.nodup (List.nodup_singleton _) fun z hz hz' => hnew ?_
        obtain rfl := List.mem_singleton.mp hz'
        exact hz
    · exact h

theorem packOf_ok {lead : Cand} {all : List Cand} (hlead : lead ∈ all) : PackOk lead all (packOf lead all) :=
  PackOk.grow _ (fun _ hx => (List.mem_filter.mp (mem_sortBy hx)).1)
    ⟨fun x hx => by obtain rfl := List.mem_singleton.mp hx; exact ⟨hlead, rfl, rfl, rfl, rfl⟩, fun h => by simpa using h, List.nodup_singleton _⟩

/-! ### ISSUE_CHOICE -/

theorem State.core_of_get {s : State} {i : Nat} {k : Core} (h : s.cores[i]? = some k) : s.core i = k := by rw [State.core, h]; rfl

/-- A pipe that is free on a core that stands chooses (R12, R14, R53). -/
theorem issueChoice_eq {core pipe : Nat} {s : State} {k : Core} (hp : pipe < 2) (hcore : core < 160) (hk : s.cores[core]? = some k)
    (hfree : k.pipes[pipe]?.getD 0 ≤ s.cyc core) :
    exec (.issueChoice core pipe) s = match s.abandoning core (s.cyc core) with
      | m :: rest => .next ((m :: rest).foldl (fun s m => s.abandon m) s)
      | [] => match leadOf (s.cands core pipe (s.cyc core)) with
        | none => .refused (.notEnabled "ISSUE_CHOICE")
        | some lead => .next { (s.countTurn core pipe (s.cyc core) (packOf lead (s.cands core pipe (s.cyc core)))).modCore core
            (fun k => { k with pipes := k.pipes.set pipe (s.cyc core + 1) }) with issue := (packOf lead (s.cands core pipe (s.cyc core))).map (·.m) } := by
  show execIssueChoice core pipe s = _
  unfold execIssueChoice
  dsimp only
  exact if_neg (by rw [State.core_of_get hk]; omega)

/-! ### Waits that PREEMPT ends -/

theorem State.tryPreempt_still (s : State) (uid i : Nat) : (s.tryPreempt uid i).still = s.still := by
  unfold State.tryPreempt
  split
  · rfl
  · split_ifs
    · exact State.takeTrap_still ..
    · rfl

theorem State.abandon_still (s : State) (m : Member) : (s.abandon m).still = s.still :=
  (State.tryPreempt_still ..).trans (leaves_deliver ..).still

/-! ### Code -/

/-- A group but for its latch. -/
def Group.asleep (g : Group) : Group := { g with latch := none }

/-- A crew but for the latches of its groups. -/
def Crew.asleep (c : Crew) : Crew := { c with groups := c.groups.map Group.asleep }

/-- The crews but for the latches that a store sets, and the cores: what translations and the reports of errors leave alone. -/
def State.seats (s : State) : List Crew × List Core := (s.crews.map Crew.asleep, s.cores)

theorem Group.wake_asleep (g : Group) (place : Nat → Option Nat) (keys : List Nat) : (g.wake place keys).asleep = g.asleep := by
  have hfold : ∀ {α : Type} (f : Group → α → Group) (_ : ∀ g x, (f g x).asleep = g.asleep) (l : List α) (g : Group), (l.foldl f g).asleep = g.asleep := by
    intro α f hf l
    induction l with
    | nil => exact fun _ => rfl
    | cons x l ih => exact fun g => (ih _).trans (hf g x)
  unfold Group.wake
  refine hfold _ (fun g mo => hfold _ (fun g k => ?_) _ g) _ g
  dsimp only
  split_ifs <;> rfl

@[simp] theorem State.wake_seats (s : State) (keys : List Nat) : (s.wake keys).seats = s.seats := by
  unfold State.wake
  split_ifs
  · rfl
  · unfold State.seats
    rw [List.map_map]
    refine congrArg (fun x => (x, s.cores)) (List.map_congr_left fun c _ => ?_)
    unfold Crew.asleep Function.comp
    simp only [List.map_map]
    congr 1
    exact List.map_congr_left fun g _ => Group.wake_asleep g _ keys

@[simp] theorem State.storeAll_seats (s : State) (k : Nat) (bytes : List Byte) : (s.storeAll k bytes).seats = s.seats := by
  have happend : ∀ w po level cells rels, (s.append w po level cells rels).seats = s.seats := fun w po level cells rels => by
    unfold State.append State.settleMem
    split_ifs
    · rfl
    · dsimp only
      split_ifs <;> rfl
  exact (State.wake_seats _ _).trans (happend _ _ _ _ _)

@[simp] theorem State.orLeaf_seats (s : State) (k : Nat) (a d : Bool) : (s.orLeaf k a d).seats = s.seats := by
  unfold State.orLeaf
  dsimp only
  generalize s.latestKey k ||| (if a then 0x10 else 0) ||| (if d then 0x20 else 0) = new
  split_ifs
  · rfl
  · exact State.storeAll_seats ..

@[simp] theorem State.flushAll_seats (s : State) (l : List TlbE) : (s.flushAll l).seats = s.seats := by
  refine foldl_keeps State.seats _ (fun s e => ?_) l s
  unfold State.flushEntry
  split_ifs
  · rfl
  · rfl
  · exact State.orLeaf_seats ..

/-! ### Reports of errors -/

/-- Either branch of a choice leaves the seats. -/
theorem seats_ite {p : Prop} [Decidable p] {a b : State} {x : List Crew × List Core} (ha : a.seats = x) (hb : b.seats = x) : (if p then a else b).seats = x := by
  split_ifs
  · exact ha
  · exact hb

@[simp] theorem State.addEntry_seats (s : State) (e : ErrAt) : (s.addEntry e).seats = s.seats := seats_ite rfl rfl

@[simp] theorem State.logError_seats (s : State) (e : ErrAt) : (s.logError e).seats = s.seats := by
  have hcount : (if e.unc then s else s.countCorrected).seats = s.seats := seats_ite rfl rfl
  have hstack : ∀ (p : Prop) [Decidable p] (t : State) (k : Nat) (f : Stack → Stack), (if p then t.modStack k f else t).seats = t.seats :=
    fun _ _ _ _ _ => seats_ite rfl rfl
  exact seats_ite ((hstack ..).trans hcount) ((State.addEntry_seats ..).trans ((hstack ..).trans hcount))

@[simp] theorem State.noteMarks_seats (s : State) (uid gi acc : Nat) (keys : List Nat) : (s.noteMarks uid gi acc keys).seats = s.seats := by
  refine foldl_keeps State.seats _ (fun s k => ?_) _ s
  unfold State.noteMark State.logLine
  split
  next e _ => exact State.logError_seats s e
  · rfl

/-! ### Translations -/

@[simp] theorem State.useEntry_seats (s : State) (q : XReq) (va : Nat) (e : TlbE) : (s.useEntry q va e).1.seats = s.seats := by
  unfold State.useEntry
  split_ifs
  · rfl
  · rfl
  · dsimp only
    split
    · split_ifs
      · exact (State.flushAll_seats ..).trans (by unfold State.markLost; split_ifs <;> rfl)
      · rfl
    · rfl

@[simp] theorem State.fill1_seats (s : State) (e : TlbE) : (s.fill1 e).seats = s.seats := State.flushAll_seats ..

theorem seats_of_flushed (s : State) (l l' : List TlbE) : ({ s.flushAll l with tlb2 := l' } : State).seats = s.seats := State.flushAll_seats s l

@[simp] theorem State.fill2_seats (s : State) (e : TlbE) : (s.fill2 e).seats = s.seats := by
  unfold State.fill2
  exact seats_of_flushed s _ _

@[simp] theorem State.noteSpan_seats (s : State) (e : TlbE) : (s.noteSpan e).seats = s.seats := by
  unfold State.noteSpan
  split_ifs <;> rfl

@[simp] theorem State.walkFill_seats (s : State) (q : XReq) (va : Nat) (useCache contigFirst : Bool) : (s.walkFill q va useCache contigFirst).1.seats = s.seats := by
  unfold State.walkFill
  dsimp only
  split
  · exact State.noteMarks_seats ..
  · rfl
  next e path _ =>
    have hfills : ∀ (t : State) (die : Nat) (e' : TlbE), (((t.noteSpan e).fillWalks die path).fill2 e').seats = t.seats := fun t die e' =>
      (State.fill2_seats ..).trans (State.noteSpan_seats t e)
    split_ifs
    · exact State.noteMarks_seats ..
    · exact State.noteMarks_seats ..
    all_goals simp [hfills]

@[simp] theorem State.writeThrough_seats (s : State) (q : XReq) (va : Nat) (e : TlbE) (contigFirst : Bool) : (s.writeThrough q va e contigFirst).1.seats = s.seats := by
  unfold State.writeThrough
  split_ifs
  · rfl
  · exact (State.useEntry_seats ..).trans (State.orLeaf_seats ..)
  · exact State.walkFill_seats ..
  · exact State.useEntry_seats ..

@[simp] theorem State.translate_seats (s : State) (q : XReq) (va : Nat) (useCache contigFirst : Bool) : (s.translate q va useCache contigFirst).1.seats = s.seats := by
  unfold State.translate
  split_ifs
  · rfl
  all_goals
    split
    · exact State.writeThrough_seats ..
    · split
      · simp
      · exact State.walkFill_seats ..

@[simp] theorem State.engineLine_seats (s : State) (q : XReq) (va : Nat) (bad : List Nat) (held : State → PLoc → Nat → Bool) :
    (s.engineLine q va bad held).1.seats = s.seats := by
  unfold State.engineLine
  split_ifs
  · rfl
  · dsimp only
    split
    · rfl
    · exact State.translate_seats ..
    · exact State.translate_seats ..
    · split_ifs <;> exact State.translate_seats ..

/-- Fetching a segment's pages leaves the crews, but for latches, and the cores (R84, R354). -/
theorem State.fetchPages_seats (s : State) (c : Crew) (gi va pages : Nat) : (s.fetchPages c gi va pages).1.seats = s.seats := by
  have hfold : ∀ (f : State × Except (Nat × LineRes) (List Byte) → Nat → State × Except (Nat × LineRes) (List Byte)) (_ : ∀ r i, (f r i).1.seats = r.1.seats)
      (l : List Nat) (r : State × Except (Nat × LineRes) (List Byte)), (l.foldl f r).1.seats = r.1.seats := by
    intro f hf l
    induction l with
    | nil => exact fun _ => rfl
    | cons i l ih => exact fun r => (ih _).trans (hf r i)
  refine hfold _ (fun r i => ?_) _ _
  dsimp only
  split
  · rfl
  · split
    next l pa _ =>
      generalize keysFrom (plocKey l pa) 4096 = keys
      exact (State.noteMarks_seats ..).trans (State.engineLine_seats ..)
    · exact State.engineLine_seats ..

/-! ### Segments -/

/-- A segment that is put into a code window stands last in it (R10). -/
theorem putSeg_eq {s s1 : State} {core : Nat} {g : Seg} (h : s.putSeg core g = some s1) :
    ∃ l last, s1 = s.modCore core (fun k => { k with segs := l ++ [{ g with last := last }] }) := by
  obtain ⟨l, -, rfl⟩ := Option.map_eq_some_iff.mp h
  exact ⟨l, _, rfl⟩

theorem State.core_modCore_self {s : State} {i : Nat} (f : Core → Core) (hi : i < s.cores.length) : (s.modCore i f).core i = f (s.core i) := by
  simp [State.core, State.modCore, hi]

theorem State.core_modCore_ne (s : State) {i j : Nat} (f : Core → Core) (h : i ≠ j) : (s.modCore i f).core j = s.core j := by
  simp [State.core, State.modCore, List.getElem?_modify_ne _ _ h]

/-- A segment that is not stale is found after it has been put into a window. -/
theorem seg?_putSeg {s s1 : State} {core : Nat} {g : Seg} (h : s.putSeg core g = some s1) (hcore : core < s.cores.length) (hstale : g.stale = false) :
    ((s1.core core).seg? g.img g.st).isSome = true := by
  obtain ⟨l, last, rfl⟩ := putSeg_eq h
  rw [State.core_modCore_self _ hcore, Core.seg?, List.find?_isSome]
  exact ⟨{ g with last := last }, by simp, by simp [hstale]⟩

/-- Segments put into the windows of other cores leave the crews and a core. -/
theorem foldl_putSeg (core : Nat) (g : Seg) (l : List Nat) (hl : ∀ k ∈ l, k ≠ core) (s : State) :
    (l.foldl (fun s k => (s.putSeg k g).getD s) s).crews = s.crews ∧ (l.foldl (fun s k => (s.putSeg k g).getD s) s).core core = s.core core := by
  induction l generalizing s with
  | nil => exact ⟨rfl, rfl⟩
  | cons k l ih =>
    obtain ⟨hk, hl'⟩ := List.forall_mem_cons.mp hl
    obtain ⟨hcrews, hcore⟩ := ih hl' ((s.putSeg k g).getD s)
    rw [List.foldl_cons, hcrews, hcore]
    cases hp : s.putSeg k g with
    | none => exact ⟨rfl, rfl⟩
    | some s1 =>
      obtain ⟨seg, last, rfl⟩ := putSeg_eq hp
      exact ⟨rfl, State.core_modCore_ne s _ hk⟩

/-! ### Crews and entities that seats hold -/

theorem crew?_of_seats {s t : State} (h : t.crews.map Crew.asleep = s.crews.map Crew.asleep) {u : Nat} {c : Crew} (hc : s.crew? u = some c) :
    ∃ c', t.crew? u = some c' ∧ c'.asleep = c.asleep := by
  have hfind : ∀ l : List Crew, (l.find? (fun c => c.uid == u)).map Crew.asleep = (l.map Crew.asleep).find? (fun c => c.uid == u) := fun l => by rw [List.find?_map]; rfl
  refine Option.map_eq_some_iff.mp ?_
  rw [State.crew?, hfind, h, ← hfind]
  exact congrArg (Option.map Crew.asleep) hc

theorem group_of_asleep {c c' : Crew} (h : c'.asleep = c.asleep) {i : Nat} {g : Group} (hg : c.groups[i]? = some g) :
    ∃ g', c'.groups[i]? = some g' ∧ g'.asleep = g.asleep := by
  have hgroups : c'.groups.map Group.asleep = c.groups.map Group.asleep := congrArg Crew.groups h
  refine Option.map_eq_some_iff.mp ?_
  rw [← List.getElem?_map, hgroups, List.getElem?_map, hg]
  rfl

/-- A change of every entity of a group that keeps their indices. -/
theorem ent?_mapEnts (g : Group) (f : Ent → Ent) (hf : ∀ e, (f e).idx = e.idx) (i : Nat) :
    ({ g with ents := g.ents.map f, handler := g.handler.map (fun h => { h with ent := f h.ent }) } : Group).ent? i = (g.ent? i).map f := by
  unfold Group.ent?
  split_ifs
  · rw [Option.map_map, Option.map_map]; rfl
  · show (g.ents.map f).find? _ = _
    rw [List.find?_map]
    congr 1
    simp [hf]

theorem crew?_mapCrews (s : State) (f : Crew → Crew) (hf : ∀ c, (f c).uid = c.uid) (u : Nat) : ({ s with crews := s.crews.map f } : State).crew? u = (s.crew? u).map f := by
  show (s.crews.map f).find? _ = _
  rw [List.find?_map]
  unfold State.crew?
  congr 1
  simp [hf]

/-- An entity that waits for its state's code, on a core that holds the segment, receives it (R10). -/
theorem deliverCode_ent? {s : State} {m : Member} {c : Crew} {g : Group} {e : Ent} (code : List Code) (hc : s.crew? m.crew = some c) (hg : c.groups[m.grp]? = some g)
    (he : g.ent? m.ent = some e) (hwait : e.wait = some .fetch) (hph : c.phase = .resident) (hseg : ((s.core c.core).seg? c.img e.st).isSome = true) :
    (s.deliverCode (clusterOf c.core) c.img e.st code).ent? m = some { e with code := code, wait := none } := by
  unfold State.deliverCode State.ent? State.group?
  rw [crew?_mapCrews s _ (fun c => by split_ifs <;> rfl), hc, Option.map_some, Option.bind_some, if_pos ⟨rfl, rfl, hph, hseg⟩]
  show ((c.groups.map _)[m.grp]?).bind _ = _
  rw [List.getElem?_map, hg, Option.map_some, Option.bind_some, ent?_mapEnts g _ (fun e => by split_ifs <;> rfl), he, Option.map_some, if_pos ⟨rfl, hwait⟩]

/-- The other cores of a cluster that have a group in a state (R10). -/
def State.othersIn (s : State) (core img st : Nat) : List Nat :=
  ((List.range 8).map (fun i => 8 * clusterOf core + i)).filter (fun k => k != core && s.occupied k img st)

/-- CODE_SEGMENT_DELIVER with the segment's bytes at hand and room in the window: the other cores take what they have room for, and the entities their code (R10). -/
theorem codeSegmentDeliver_eq {m : Member} {s s1 : State} {c : Crew} {g : Group} {e : Ent} {bytes : List Byte} (hc : s.crew? m.crew = some c)
    (hg : s.group? m.crew m.grp = some g) (he : g.ent? m.ent = some e) (hwait : e.wait = some .fetch) (hph : c.phase = .resident) (hrun : c.stopped = false)
    (hfree : g.free? e = true) :
    let im := (s.image? c.img).getD default
    let d := im.states[e.st]?.getD default
    let r := s.fetchPages c m.grp ((im.base + im.codeOff + d.seg) % 2 ^ 64) (ceilDiv (12 * d.nword) 4096)
    let seg : Seg := ⟨c.img, e.st, codeOf bytes d.nword, s.nextSeq, false⟩
    r.2 = .ok bytes → r.1.putSeg c.core seg = some s1 →
    exec (.codeSegmentDeliver m) s = .next (((s1.othersIn c.core c.img e.st).foldl (fun s k => (s.putSeg k seg).getD s)
      ({ s1 with nextSeq := s1.nextSeq + 1 } : State)).deliverCode (clusterOf c.core) c.img e.st seg.code) := by
  dsimp only
  intro hr hput
  show execCodeSegmentDeliver m s = _
  unfold execCodeSegmentDeliver
  rw [hc, State.ent?_of_group hg, he]
  dsimp only
  rw [if_neg (by simp [hwait, hph, hrun, hg, hfree]), hr]
  dsimp only
  rw [hput]
  rfl

/-- A step that leaves the crews but for latches, after which the segment stands in a crew's core, gives the crew's waiting entity its code. -/
theorem ent?_of_delivery {m : Member} {s t : State} {c : Crew} {g : Group} {e : Ent} (code : List Code) (hc : s.crew? m.crew = some c)
    (hg : s.group? m.crew m.grp = some g) (he : g.ent? m.ent = some e) (hwait : e.wait = some .fetch) (hph : c.phase = .resident)
    (hcrews : t.crews.map Crew.asleep = s.crews.map Crew.asleep) (hseg : ((t.core c.core).seg? c.img e.st).isSome = true) :
    (t.deliverCode (clusterOf c.core) c.img e.st code).ent? m = some { e with code := code, wait := none } := by
  have hcg : c.groups[m.grp]? = some g := by rw [State.group?, hc] at hg; exact hg
  obtain ⟨c', hc', hasleep⟩ := crew?_of_seats hcrews hc
  obtain ⟨g', hg', hgasleep⟩ := group_of_asleep hasleep hcg
  have he' : g'.ent? m.ent = some e := (congrArg (fun x : Group => x.ent? m.ent) hgasleep).trans he
  have hcore : c'.core = c.core := (congrArg Crew.core hasleep :)
  have himg : c'.img = c.img := (congrArg Crew.img hasleep :)
  have hph' : c'.phase = c.phase := (congrArg Crew.phase hasleep :)
  rw [← hcore, ← himg] at hseg ⊢
  exact deliverCode_ent? code hc' hg' he' hwait (hph'.trans hph) hseg

/-- CODE_SEGMENT_DELIVER gives the entity its code (R10). -/
theorem codeSegmentDeliver_gives {m : Member} {s s1 : State} {c : Crew} {g : Group} {e : Ent} {bytes : List Byte} (hc : s.crew? m.crew = some c)
    (hg : s.group? m.crew m.grp = some g) (he : g.ent? m.ent = some e) (hwait : e.wait = some .fetch) (hph : c.phase = .resident) (hrun : c.stopped = false)
    (hfree : g.free? e = true) :
    let im := (s.image? c.img).getD default
    let d := im.states[e.st]?.getD default
    let r := s.fetchPages c m.grp ((im.base + im.codeOff + d.seg) % 2 ^ 64) (ceilDiv (12 * d.nword) 4096)
    r.2 = .ok bytes → c.core < s.cores.length → r.1.putSeg c.core ⟨c.img, e.st, codeOf bytes d.nword, s.nextSeq, false⟩ = some s1 →
    ∃ t : State, exec (.codeSegmentDeliver m) s = .next t ∧ t.ent? m = some { e with code := codeOf bytes d.nword, wait := none } := by
  intro im d r hr hcore hput
  have hseats : r.1.seats = s.seats := State.fetchPages_seats ..
  have hcrews : r.1.crews.map Crew.asleep = s.crews.map Crew.asleep := congrArg Prod.fst hseats
  have hcores : r.1.cores = s.cores := congrArg Prod.snd hseats
  have hseg := seg?_putSeg hput (hcores ▸ hcore) rfl
  have hs1 : s1.crews = r.1.crews := by
    obtain ⟨_, _, rfl⟩ := putSeg_eq hput
    rfl
  obtain ⟨hcrews2, hcore2⟩ := foldl_putSeg c.core ⟨c.img, e.st, codeOf bytes d.nword, s.nextSeq, false⟩ (s1.othersIn c.core c.img e.st)
    (fun k hk => (bne_iff_ne.mp (Bool.and_eq_true_iff.mp (List.mem_filter.mp hk).2).1)) { s1 with nextSeq := s1.nextSeq + 1 }
  refine ⟨_, codeSegmentDeliver_eq hc hg he hwait hph hrun hfree hr hput, ent?_of_delivery _ hc hg he hwait hph ?_ ?_⟩
  · rw [hcrews2]
    exact (congrArg (List.map Crew.asleep) hs1).trans hcrews
  · rw [hcore2]
    exact hseg

/-! ### RESULT_LAND -/

/-- RESULT_LAND lands what is due and nothing else (R318). -/
theorem resultLand_lands {g : GRef} {s : State} {c : Crew} {gr : Group} (hc : s.crew? g.crew = some c) (hg : s.group? g.crew g.grp = some gr)
    (hdue : ∃ p ∈ gr.pend, p.due ≤ s.cyc c.core) :
    ∃ (t : State) (g' : Group), exec (.resultLand g) s = .next t ∧ OnlyGroup s t g.crew g.grp ∧ t.group? g.crew g.grp = some g' ∧
      g'.pend = gr.pend.filter (fun p => decide (s.cyc c.core < p.due)) ∧
      g' = gr.land (s.cyc c.core) ∧ ({ g' with v := gr.v, p := gr.p, s := gr.s, pend := gr.pend } : Group) = gr := by
  obtain ⟨v, p, x, hland⟩ := gr.land_rest (s.cyc c.core)
  refine ⟨s.modGroup g.crew g.grp (fun x => x.land (s.cyc c.core)), gr.land (s.cyc c.core), ?_, onlyGroup_modGroup .., ?_, ?_, rfl, by rw [hland]⟩
  · show execResultLand g s = _
    unfold execResultLand
    rw [hc, hg]
    exact if_pos (by simpa using hdue)
  · rw [State.group?_modGroup, hg]
    rfl
  · show gr.pend.filter _ = _
    exact List.filter_congr fun p _ => by rw [← decide_not]; simp only [not_le]

/-- Settles O42: the lead and the pack of a choice, the waits that PREEMPT ends, the results that are due, and the segment that is delivered. -/
theorem issueAndLandingSteps : Obligations.IssueAndLandingSteps := by
  unfold Obligations.IssueAndLandingSteps
  refine ⟨fun core pipe s k lead => ?_, fun core pipe s k hp hcore hk hfree hab => ?_, fun g s c gr hc hg hdue => resultLand_lands hc hg hdue,
    fun m s s1 c g e bytes hc hg he hwait hph hrun hfree => codeSegmentDeliver_gives hc hg he hwait hph hrun hfree⟩
  · intro all pack hp hcore hk hfree hab hlead
    obtain ⟨hmem, hfirst⟩ := leadOf_spec hlead
    have hpack : PackOk lead all pack := packOf_ok hmem
    refine ⟨{ (s.countTurn core pipe (s.cyc core) pack).modCore core (fun k => { k with pipes := k.pipes.set pipe (s.cyc core + 1) }) with issue := pack.map (·.m) },
      (issueChoice_eq hp hcore hk hfree).trans ?_, rfl, ?_, fun j hj => List.getElem?_modify_ne _ _ (Ne.symm hj),
      rfl, hmem, hfirst, hpack.same, hpack.width, hpack.nodup⟩
    · rw [hab]
      dsimp only
      rw [show leadOf (s.cands core pipe (s.cyc core)) = some lead from hlead]
    · exact (List.getElem?_modify_eq _ _ _).trans (congrArg (Option.map _) hk)
  · obtain ⟨m, rest, hcons⟩ := List.exists_cons_of_ne_nil hab
    have hstill := foldl_keeps State.still State.abandon State.abandon_still (m :: rest) s
    refine ⟨_, (issueChoice_eq hp hcore hk hfree).trans (by rw [hcons]), congrArg (fun x => x.1) hstill, congrArg (fun x => x.2.1) hstill⟩

end Sys2Proof.Machine
end

section
/-!
PROOFS. Words that write a next block (R28, R31, R180, R182, R185), and the words that change nothing but their entity (R42, R185, R243).
-/

namespace Sys2Proof.Machine

open Sys2Proof.Claims

/-! ### Active lanes -/

theorem toSigned_eq_toInt (w x : Nat) : toSigned w x = (BitVec.ofNat w x).toInt := by
  rw [← toSigned_toNat, BitVec.toNat_ofNat]
  unfold toSigned
  rw [Nat.mod_mod]

/-- No active lane has called exactly where R182 finds none. -/
theorem calledLane_eq_false {i : Instr} {c : Ctx} (h : MayBranch i c) : c.calledLane (startAct i c) = false :=
  List.any_eq_false.mpr fun l hl => by rw [h l ((mem_lanesOf _ l).mp hl)]; exact Bool.false_ne_true

theorem calledLane_eq_true {i : Instr} {c : Ctx} (h : ¬ MayBranch i c) : c.calledLane (startAct i c) = true := by
  by_contra hno
  refine h fun l hl => ?_
  exact Bool.eq_false_of_not_eq_true fun hcalled => hno (List.any_eq_true.mpr ⟨l, (mem_lanesOf _ l).mpr hl, hcalled⟩)

section

variable {i : Instr} {hd : Hdr} {field : Nat} {k : State → Ctx → List Nat → Out} {s t : State} {c : Ctx} {x : Out} (hx : x = branchWord i hd field k s) (hs : Starts i s t c)
  (hact : c.active hd 0 = startAct i c)

include hx hs hact

/-- A word that writes next blocks, once it starts, goes on where no active lane has called (R182). -/
theorem branch_of_may (hm : MayBranch i c) : x = k t c (lanesOf (startAct i c)) := by
  rw [hx, branchWord, begin_of_starts hs]
  dsimp only
  rw [hact, calledLane_eq_false hm]
  rfl

/-- A word that would write next blocks of lanes that have called traps (R182). -/
theorem branch_of_called (hm : ¬ MayBranch i c) : x = .next (t.raise c.m 0x10 (misuseInfo c field)) := by
  rw [hx, branchWord, begin_of_starts hs]
  dsimp only
  rw [hact, calledLane_eq_true hm]
  rfl

end

/-! ### Next blocks -/

/-- Changes of the active lanes, one after another, are one change of the group. -/
theorem foldl_active (i : Instr) (c : Ctx) (f : Nat → Lane → Lane) (g : Group) :
    (lanesOf (startAct i c)).foldl (fun g l => g.modLane l (f l)) g = onActive i c f g := by
  rw [foldl_modLane f _ (lanesOf_nodup _)]
  simp only [mem_lanesOf]
  rfl

/-- A word that ends with next blocks for its active lanes. -/
theorem groupRuns_of_setNexts {i : Instr} {h : Hdr} {s t : State} {c : Ctx} {g : Group} {b : Nat → Nat} (hg : t.group? c.m.crew c.m.grp = some g)
    (hx : exec i s = .next (t.setNexts c h ((lanesOf (startAct i c)).map (fun l => (l, b l))))) :
    GroupRuns i h s t c (onActive i c (fun l x => x.setNext (b l))) := by
  refine groupRuns_of_issued hg (hx.trans ?_)
  unfold State.setNexts
  simp only [List.foldl_map, foldl_active i c (fun l x => x.setNext (b l))]

/-! ### Fall-throughs (R28) -/

/-- A fold that reads a value for each element of a list, in a state that the reads change: the elements stand in the results in their order. -/
theorem foldl_reads_fst {α β σ : Type} (f : σ → α → σ × β) (l : List α) (r : σ × List (α × β)) :
    (l.foldl (fun r x => ((f r.1 x).1, r.2 ++ [(x, (f r.1 x).2)])) r).2.map (·.1) = r.2.map (·.1) ++ l := by
  induction l generalizing r with
  | nil => simp
  | cons x l ih => rw [List.foldl_cons, ih]; simp

theorem falls_lanes (s : State) (c : Ctx) (ls : List Nat) : (s.falls c ls).2.map (·.1) = ls :=
  foldl_reads_fst (fun (s : State) l => ((s.desc c.crew (c.g.lane l).occ.toNat).1, descFall (s.desc c.crew (c.g.lane l).occ.toNat).2)) ls (s, [])

/-- A list of pairs with distinct first parts, by what is found for each of them. -/
theorem eq_map_find {β : Type} (d : β) (l : List (Nat × β)) (h : (l.map (·.1)).Nodup) : l = (l.map (·.1)).map (fun a => (a, ((l.find? (fun e => e.1 == a)).map (·.2)).getD d)) := by
  rw [List.map_map]
  refine (List.map_id l).symm.trans (List.map_congr_left fun e he => ?_)
  have hfound : l.find? (fun x => x.1 == e.1) = some e := by
    cases hf : l.find? (fun x => x.1 == e.1) with
    | none => exact absurd (List.find?_eq_none.mp hf e he) (by simp)
    | some x =>
      rw [List.inj_on_of_nodup_map h (List.mem_of_find?_eq_some hf) he (by simpa using List.find?_some hf)]
  simp [hfound]

/-- The fall-throughs of the active lanes, lane by lane. -/
theorem falls_eq (i : Instr) (t : State) (c : Ctx) : (falls i t c).2 = (lanesOf (startAct i c)).map (fun l => (l, fallOf i t c l)) := by
  have hfst : (falls i t c).2.map (·.1) = lanesOf (startAct i c) := falls_lanes ..
  have h := eq_map_find 0 (falls i t c).2 (hfst ▸ lanesOf_nodup _)
  rw [hfst] at h
  exact h

/-- Reading a descriptor leaves the crews, but for latches, and the cores (R315). -/
@[simp] theorem State.desc_seats (s : State) (c : Crew) (b : Nat) : (s.desc c b).1.seats = s.seats := by
  have hread : ∀ im, (s.readDesc c im b).1.seats = s.seats := fun im => by
    unfold State.readDesc
    dsimp only
    split
    next s1 l pa h =>
      have hs1 : s1.seats = s.seats := by
        rw [← State.translate_seats s ⟨c.core, c.uid, c.part, false, false, 0⟩ (im.base + im.blockOff + 8 * b) true false, h]
      exact (State.noteMarks_seats ..).trans hs1
    · rfl
  unfold State.desc
  split
  · rfl
  · split
    · rfl
    · exact hread _

@[simp] theorem State.falls_seats (s : State) (c : Ctx) (ls : List Nat) : (s.falls c ls).1.seats = s.seats := by
  have hfold : ∀ (l : List Nat) (r : State × List (Nat × Nat)), (l.foldl (fun r l =>
      let d := r.1.desc c.crew (c.g.lane l).occ.toNat
      (d.1, r.2 ++ [(l, descFall d.2)])) r).1.seats = r.1.seats := by
    intro l
    induction l with
    | nil => exact fun _ => rfl
    | cons x l ih => exact fun r => (ih _).trans (State.desc_seats ..)
  exact hfold ls (s, [])

/-- A group in a state that has the same seats, but for its latch. -/
theorem group?_of_seats {s t : State} (h : t.seats = s.seats) {u j : Nat} {g : Group} (hg : s.group? u j = some g) :
    ∃ g', t.group? u j = some g' ∧ g'.asleep = g.asleep := by
  obtain ⟨c, hc, hcg⟩ := Option.bind_eq_some_iff.mp hg
  obtain ⟨c', hc', hasleep⟩ := crew?_of_seats (congrArg Prod.fst h) hc
  obtain ⟨g', hg', hga⟩ := group_of_asleep hasleep hcg
  exact ⟨g', by rw [State.group?, hc']; exact hg', hga⟩

/-! ### The words -/

/-- BRX once no active lane has called: the targets are written where each is good, and else the word traps (R180). -/
theorem brx_eq {w : Body} {s t : State} {c : Ctx} (h : Starts (.brx w) s t c) (hm : MayBranch (.brx w) c) :
    exec (.brx w) s = if (lanesOf (startAct (.brx w) c)).all (fun l => c.val w.a 0 l % 65536 == exitBlk || (t.img c).inUnit c.st (c.val w.a 0 l % 65536))
      then .next (t.setNexts c w.hdr ((lanesOf (startAct (.brx w) c)).map (fun l => (l, c.val w.a 0 l % 65536)))) else t.misuse c 63 := by
  refine (branch_of_may (execBrx.eq_def w s) h rfl hm).trans ?_
  dsimp only
  rw [List.all_map]
  rfl

theorem brx_good_iff {w : Body} {t : State} {c : Ctx} {l : Nat} :
    (c.val w.a 0 l % 65536 == exitBlk || (t.img c).inUnit c.st (c.val w.a 0 l % 65536)) = true ↔
      (c.val w.a 0 l % 2 ^ 16 = 0xFFFF ∨ (t.img c).inUnit c.st (c.val w.a 0 l % 2 ^ 16) = true) := by
  rw [Bool.or_eq_true, beq_iff_eq]; rfl

/-- Does BRC with a code of its SUB take its target for a value of SRCB (R180)? -/
def brcTaken (sub : Nat) (v : Int) : Bool :=
  match sub with
  | 0 => decide (v = 0)
  | 1 => decide (v ≠ 0)
  | 2 => decide (v < 0)
  | _ => decide (0 ≤ v)

/-- BRC once no active lane has called (R180). -/
theorem brc_eq {w : Body} {s t : State} {c : Ctx} (h : Starts (.brc w) s t c) (hm : MayBranch (.brc w) c) :
    exec (.brc w) s = .next ((falls (.brc w) t c).1.setNexts c w.hdr ((lanesOf (startAct (.brc w) c)).map (fun l =>
      (l, if brcTaken w.sub (BitVec.ofNat (intWidth w.ty) (c.val w.b 0 l)).toInt then w.imm.toNat % 65536 else fallOf (.brc w) t c l)))) := by
  refine (branch_of_may (execBrc.eq_def w s) h rfl hm).trans ?_
  dsimp only
  rw [show t.falls c (lanesOf (startAct (.brc w) c)) = falls (.brc w) t c from rfl, falls_eq, List.map_map]
  simp only [toSigned_eq_toInt, Function.comp_def]
  rfl

/-- Settles O17: each word by what it does once no active lane has called, and by the misuse that R182 makes of it where one has. -/
theorem branchResults : Obligations.BranchResults := by
  unfold Obligations.BranchResults
  intro w s t c
  refine ⟨fun h hm => ?_, fun h hm => ?_, fun h hm hgood => ?_, fun h hm hbad => ?_, fun h hm => ?_, fun h hm => ?_, fun h hm => ?_, fun h hm => ?_, fun h hm => ?_⟩
  · obtain ⟨g, hg⟩ := starts_group h
    exact groupRuns_of_setNexts hg ((branch_of_may (execBr.eq_def w s) h rfl hm).trans rfl)
  · obtain ⟨g, hg⟩ := starts_group h
    obtain ⟨g', hg', -⟩ := group?_of_seats (State.falls_seats t c (lanesOf (startAct (.brc w) c))) hg
    exact groupRuns_of_setNexts hg' (brc_eq h hm)
  · obtain ⟨g, hg⟩ := starts_group h
    refine groupRuns_of_setNexts hg ((brx_eq h hm).trans (if_pos (List.all_eq_true.mpr fun l hl => ?_)))
    exact brx_good_iff.mpr (hgood l ((mem_lanesOf _ l).mp hl))
  · obtain ⟨l, hl, hbad⟩ := hbad
    refine (brx_eq h hm).trans (if_neg fun hall => hbad ?_)
    exact brx_good_iff.mp (List.all_eq_true.mp hall l ((mem_lanesOf _ l).mpr hl))
  · obtain ⟨g, hg⟩ := starts_group h
    exact groupRuns_of_setNexts hg ((branch_of_may (execExit.eq_def w s) h rfl hm).trans rfl)
  · exact branch_of_called (execBr.eq_def w s) h rfl hm
  · exact branch_of_called (execCall.eq_def w s) h rfl hm
  · exact branch_of_called (execRet.eq_def w s) h rfl hm
  · exact branch_of_called (execExit.eq_def w s) h rfl hm

/-! ### NOP, PREF and YIELD -/

/-- YIELD with an active lane: a split is marked for rotation, and what is no split ranks as if YH were set (R42, R185). -/
theorem yield_eq {w : Body} {s t : State} {c : Ctx} (h : Starts (.yield w) s t c) (hact : startAct (.yield w) c ≠ 0) :
    exec (.yield w) s = if c.g.isSplit && c.m.ent != handlerIdx then .next ((t.issued c w.hdr).modEnt c.m (fun e => { e with mark := true }))
      else .next ((t.issued c w.hdr).modEnt c.m (fun e => { e with yh := true })) := by
  show execYield w s = _
  rw [execYield, begin_of_starts h]
  exact if_neg hact

/-- Settles O19: NOP and PREF issue and no more, YIELD changes its entity. -/
theorem nopYieldResults : Obligations.NopYieldResults := by
  unfold Obligations.NopYieldResults
  intro w s t c
  refine ⟨fun h => ?_, fun h => ?_, fun h hact hsplit hent => ?_, fun h hact hno => ?_⟩
  · obtain ⟨g, hg⟩ := starts_group h
    exact groupRuns_id hg ((execNop.eq_def w s).trans (begin_of_starts h _))
  · obtain ⟨g, hg⟩ := starts_group h
    exact groupRuns_id hg ((execPref.eq_def w s).trans (begin_of_starts h _))
  · exact (yield_eq h hact).trans (if_pos (by rw [hsplit, Bool.true_and, bne_iff_ne]; exact hent))
  · refine (yield_eq h hact).trans (if_neg ?_)
    rw [Bool.and_eq_true, bne_iff_ne]
    rintro ⟨hsplit, hent⟩
    rcases hno with hno | hno
    · rw [hno] at hsplit; exact Bool.false_ne_true hsplit
    · exact hent hno

end Sys2Proof.Machine
end

section
/-!
PROOFS. Calls and returns (R45, R50, R181 to R184): the entries that spill, and the lanes that push and pop.
-/

namespace Sys2Proof.Machine

open Sys2Proof.Claims

/-! ### Bytes that a store adds -/

/-- What an agent reads at a key after the stores of a list, which started from a byte. -/
def seenByte (r : Agent) (k : Nat) (l : List Drained) (b : Byte) : Byte := l.foldl (fun acc d => if d.visible r then (cellAt d.cells k).getD acc else acc) b

/-- A store that every agent sees reads the same once it is part of memory (R68). -/
theorem seenByte_foldDrained (keep : Drained → List Drained → Bool) (r : Agent) (k : Nat) (l : List Drained) (m : Memory) :
    seenByte r k (foldDrained keep m l).2 ((foldDrained keep m l).1.get k) = seenByte r k l (m.get k) := by
  induction l generalizing m with
  | nil => rfl
  | cons d l ih =>
    unfold foldDrained
    split_ifs with h
    · have hvis : d.visible r = true := by rw [Drained.visible, h.1]; rfl
      rw [ih, Memory.get_setAll, seenByte, seenByte, List.foldl_cons, if_pos hvis]; rfl
    · rfl

@[simp] theorem State.readKey_settleMem (s : State) (r : Agent) (k : Nat) : s.settleMem.readKey r k = s.readKey r k := by
  unfold State.settleMem
  split_ifs
  · rfl
  · exact seenByte_foldDrained ..

/-- What an agent reads after a store: the store's bytes where it sees the store (R68). -/
theorem State.readKey_append (s : State) (w : Agent) (po level : Nat) (cells : List (Nat × Byte)) (rels : List (Nat × List Seen)) (r : Agent) (k : Nat) :
    (s.append w po level cells rels).readKey r k =
      if (⟨s.nextSeq, w, po, level, cells, rels⟩ : Drained).visible r then (cellAt cells k).getD (s.readKey r k) else s.readKey r k := by
  unfold State.append
  split_ifs with hc hv hv
  · rw [hc]; rfl
  · rfl
  · rw [State.readKey_settleMem, State.readKey, List.foldl_append, List.foldl_cons, if_pos hv]; rfl
  · rw [State.readKey_settleMem, State.readKey, List.foldl_append, List.foldl_cons, if_neg hv]; rfl

/-- A store changes the coherence order and memory alone. -/
theorem State.append_rest (s : State) (w : Agent) (po level : Nat) (cells : List (Nat × Byte)) (rels : List (Nat × List Seen)) :
    ∃ mem drained n, s.append w po level cells rels = { s with mem := mem, drained := drained, nextSeq := n } := by
  unfold State.append
  split_ifs
  · exact ⟨s.mem, s.drained, s.nextSeq, rfl⟩
  · unfold State.settleMem
    dsimp only
    split_ifs
    · exact ⟨s.mem, _, _, rfl⟩
    · exact ⟨_, _, _, rfl⟩

/-! ### Entries that spill (R45, R183) -/

/-- The cells of four bytes from a key on. -/
theorem cellAt_bytes4 (k x j : Nat) : cellAt ((List.range (bytesOf 4 x).length).map (fun i => k + 8 * i) |>.zip (bytesOf 4 x)) j =
    if j = k then some (BitVec.ofNat 8 x) else if j = k + 8 then some (BitVec.ofNat 8 (x / 256)) else if j = k + 16 then some (BitVec.ofNat 8 (x / 256 / 256))
      else if j = k + 24 then some (BitVec.ofNat 8 (x / 256 / 256 / 256)) else none := by
  show cellAt [(k, BitVec.ofNat 8 x), (k + 8, BitVec.ofNat 8 (x / 256)), (k + 16, BitVec.ofNat 8 (x / 256 / 256)), (k + 24, BitVec.ofNat 8 (x / 256 / 256 / 256))] j = _
  have hstep : ∀ (a : Nat) (b : Byte) (l : List (Nat × Byte)), cellAt ((a, b) :: l) j = if j = a then some b else cellAt l j := fun a b l => by
    unfold cellAt
    rw [List.find?_cons]
    by_cases h : j = a
    · simp [h]
    · have ha : (a == j) = false := beq_eq_false_iff_ne.mpr (Ne.symm h)
      rw [if_neg h, ha]
  rw [hstep, hstep, hstep, hstep]
  rfl

/-- Does a lane hold sixteen entries? -/
def Lane.full (x : Lane) : Bool := decide (16 ≤ x.stack.length)

/-- The oldest of the sixteen entries of a lane's return stack spills to the lane's next place in scratch; a lane with fewer entries stores nothing (R45). -/
def State.spill (s : State) (c : Ctx) (lane : Nat) (x : Lane) : State :=
  if x.full then s.put (c.crew.agent c.m.grp) s.nextSeq 1 (.mem (spillKey c.crew c.m.grp lane x.spilled)) (bytesOf 4 (x.stack.getLastD 0).toNat) [] else s

/-- A store that only its crew sees wakes no latch. -/
theorem State.put_crew (s : State) (w : Agent) (po k : Nat) (bytes : List Byte) (rels : List (Nat × List Seen)) :
    s.put w po 1 (.mem k) bytes rels = s.append w po 1 ((List.range bytes.length).map (fun i => k + 8 * i) |>.zip bytes) rels := by
  unfold State.put
  exact if_neg (by norm_num)

theorem State.spill_rest (s : State) (c : Ctx) (lane : Nat) (x : Lane) : ∃ mem drained n, s.spill c lane x = { s with mem := mem, drained := drained, nextSeq := n } := by
  unfold State.spill
  split_ifs
  · rw [State.put_crew]
    exact State.append_rest ..
  · exact ⟨s.mem, s.drained, s.nextSeq, rfl⟩

/-- A spill leaves every byte but the four of its entry. -/
theorem State.readKey_spill_other {s : State} {c : Ctx} {lane : Nat} {x : Lane} {r : Agent} {k : Nat}
    (h : x.full = true → ∀ b, b < 4 → k ≠ spillByte c lane x.spilled b) : (s.spill c lane x).readKey r k = s.readKey r k := by
  unfold State.spill
  split_ifs with hfull
  · have hnone : ∀ b, b < 4 → k ≠ spillKey c.crew c.m.grp lane x.spilled + 8 * b := h hfull
    have h0 : k ≠ spillKey c.crew c.m.grp lane x.spilled := hnone 0 (by norm_num)
    have h1 := hnone 1 (by norm_num)
    have h2 := hnone 2 (by norm_num)
    have h3 := hnone 3 (by norm_num)
    rw [State.put_crew, State.readKey_append, cellAt_bytes4, if_neg h0, if_neg h1, if_neg h2, if_neg h3, Option.getD_none, ite_self]
  · rfl

/-- What the group that spills reads at the bytes of the entry. -/
theorem State.readKey_spill_own {s : State} {c : Ctx} {lane : Nat} {x : Lane} {b : Nat} (hfull : x.full = true) (hb : b < 4) :
    (s.spill c lane x).readKey (c.crew.agent c.m.grp) (spillByte c lane x.spilled b) = (bytesOf 4 (x.stack.getLastD 0).toNat)[b]?.getD 0 := by
  have hvis : ∀ cells, (⟨s.nextSeq, c.crew.agent c.m.grp, s.nextSeq, 1, cells, []⟩ : Drained).visible (c.crew.agent c.m.grp) = true := fun cells => by
    simp [Drained.visible, sameInst, Crew.agent, Agent.crew?]
  unfold State.spill spillByte
  rw [if_pos hfull, State.put_crew, State.readKey_append, if_pos (hvis _), cellAt_bytes4]
  interval_cases b <;> simp [bytesOf]

/-- Four bytes that hold a return block give it back. -/
theorem readNum_of_bytes {u : State} {r : Agent} {k : Nat} {x : BitVec 16} (h : ∀ b, b < 4 → u.readKey r (k + 8 * b) = (bytesOf 4 x.toNat)[b]?.getD 0) :
    u.readNum r (.mem k) 4 = x.toNat := by
  have hx := x.isLt
  have hbytes : (List.range 4).map (fun i => u.readPlace r ((Place.mem k).add i)) = bytesOf 4 x.toNat := by
    refine List.ext_getElem (by simp [bytesOf]) fun i hi hi' => ?_
    have h4 : i < 4 := by simpa using hi
    rw [List.getElem_map, List.getElem_range]
    refine (h i h4).trans ?_
    rw [List.getElem?_eq_getElem hi']; rfl
  rw [State.readNum, hbytes]
  simp only [bytesOf, ofBytes, BitVec.toNat_ofNat]
  omega

/-- A change of a group that changes nothing. -/
theorem State.modGroup_id (s : State) (uid i : Nat) : s.modGroup uid i (fun g => g) = s := by
  have hcrew : ∀ c : Crew, c.modGroup i (fun g => g) = c := fun c => by
    have hgroups : c.groups.modify i (fun g => g) = c.groups := List.modify_id i c.groups
    rw [Crew.modGroup, hgroups]
  unfold State.modGroup State.modCrew
  simp only [hcrew, ite_self, List.map_id']

/-! ### Pushing (R45, R181, R183) -/

/-- A lane that has pushed a return block, one whose sixteen entries were full or not. -/
def Lane.push (full : Bool) (blk : Nat) (x : Lane) : Lane :=
  { x with stack := BitVec.ofNat 16 blk :: x.stack.take 15, spilled := if full then x.spilled + 1 else x.spilled }

/-- A push is a spill and a change of the lane. -/
theorem pushRet_eq {s : State} {c : Ctx} {lane blk : Nat} {g : Group} (hg : s.group? c.m.crew c.m.grp = some g) :
    s.pushRet c lane blk = (s.spill c lane (g.lane lane)).modGroup c.m.crew c.m.grp (fun x => x.modLane lane (Lane.push (g.lane lane).full blk)) := by
  unfold State.pushRet
  rw [hg]
  rfl

/-- The lanes of a group after one of them has changed. -/
theorem Group.lane_modLane_ne (g : Group) {l l' : Nat} (f : Lane → Lane) (h : l' ≠ l) : (g.modLane l f).lane l' = g.lane l' := by
  unfold Group.modLane Group.lane
  rw [List.getElem?_modify_ne _ _ (Ne.symm h)]

/-- Pushes of several lanes, one after another, of which each sees the lane that the group had: the lanes change, and of memory only the bytes that the full lanes spill. -/
theorem pushes_spec (c : Ctx) (x : Nat → Lane) (l : List (Nat × Nat)) (hnd : (l.map (·.1)).Nodup) (s : State) (g : Group) (hg : s.group? c.m.crew c.m.grp = some g)
    (hx : ∀ e ∈ l, g.lane e.1 = x e.1) :
    ∃ mem drained n, let u := l.foldl (fun s e => s.pushRet c e.1 e.2) s
      u = ({ s with mem := mem, drained := drained, nextSeq := n } : State).modGroup c.m.crew c.m.grp
        (fun g => l.foldl (fun g e => g.modLane e.1 (Lane.push (x e.1).full e.2)) g) ∧
      (∀ r k, (∀ e ∈ l, (x e.1).full = true → ∀ b, b < 4 → k ≠ spillByte c e.1 (x e.1).spilled b) → u.readKey r k = s.readKey r k) ∧
      ∀ e ∈ l, (x e.1).full = true →
        (∀ e' ∈ l, (x e'.1).full = true → e'.1 ≠ e.1 → ∀ b b', b < 4 → b' < 4 → spillByte c e'.1 (x e'.1).spilled b' ≠ spillByte c e.1 (x e.1).spilled b) →
        ∀ b, b < 4 → u.readKey (c.crew.agent c.m.grp) (spillByte c e.1 (x e.1).spilled b) = (bytesOf 4 ((x e.1).stack.getLastD 0).toNat)[b]?.getD 0 := by
  induction l generalizing s g with
  | nil =>
    refine ⟨s.mem, s.drained, s.nextSeq, ?_, fun _ _ _ => rfl, fun _ h => absurd h List.not_mem_nil⟩
    exact (State.modGroup_id s c.m.crew c.m.grp).symm
  | cons e l ih =>
    obtain ⟨he, hnd'⟩ := List.nodup_cons.mp hnd
    have hne : ∀ e' ∈ l, e'.1 ≠ e.1 := fun e' he' h => he (List.mem_map.mpr ⟨e', he', h⟩)
    have hxe : g.lane e.1 = x e.1 := hx e List.mem_cons_self
    obtain ⟨mem1, drained1, n1, hspill⟩ := State.spill_rest s c e.1 (x e.1)
    have hpush : s.pushRet c e.1 e.2 = (s.spill c e.1 (x e.1)).modGroup c.m.crew c.m.grp (fun y => y.modLane e.1 (Lane.push (x e.1).full e.2)) := by rw [pushRet_eq hg, hxe]
    have hg1 : (s.pushRet c e.1 e.2).group? c.m.crew c.m.grp = some (g.modLane e.1 (Lane.push (x e.1).full e.2)) := by
      rw [hpush, State.group?_modGroup, hspill]
      exact (congrArg (Option.map _) hg).trans rfl
    obtain ⟨mem, drained, n, heq, hother, hown⟩ := ih hnd' (s.pushRet c e.1 e.2) _ hg1 (fun e' he' => (Group.lane_modLane_ne g _ (hne e' he')).trans (hx e' (List.mem_cons_of_mem _ he')))
    refine ⟨mem, drained, n, heq.trans ?_, fun r k hk => ?_, fun e' he' hfull hdis b hb => ?_⟩
    · rw [hpush, hspill]
      exact State.modGroup_modGroup ({ s with mem := mem, drained := drained, nextSeq := n } : State) c.m.crew c.m.grp _ _
    · refine (hother r k fun e' he' => hk e' (List.mem_cons_of_mem _ he')).trans ?_
      rw [hpush, State.readKey_modGroup]
      exact State.readKey_spill_other (hk e List.mem_cons_self)
    · rcases List.mem_cons.mp he' with rfl | he'
      · refine (hother _ _ fun e' he' hfull' b' hb' => (hdis e' (List.mem_cons_of_mem _ he') hfull' (hne e' he') b b' hb hb').symm).trans ?_
        rw [hpush, State.readKey_modGroup]
        exact State.readKey_spill_own hfull hb
      · exact hown e' he' hfull (fun e'' he'' => hdis e'' (List.mem_cons_of_mem _ he'')) b hb

/-! ### CALL and CALLX -/

theorem Lane.full_iff (x : Lane) : x.full = true ↔ 16 ≤ x.stack.length := decide_eq_true_iff

/-- The lanes that have pushed and taken their targets are those of a call (R181). -/
theorem pushed_eq_callLane {i : Instr} {c : Ctx} {g : Group} (hlanes : g.lanes = c.g.lanes) (fall target : Nat → Nat) :
    onActive i c (fun l x => { x.setNext (target l) with called := true }) (onActive i c (fun l x => x.push (c.g.lane l).full (fall l)) g) =
      onActive i c (fun l x => callLane (fall l) (target l) x) g := by
  unfold onActive
  congr 1
  refine List.ext_getElem? fun l => ?_
  simp only [List.getElem?_mapIdx]
  cases hl : g.lanes[l]? with
  | none => rfl
  | some x =>
    have hlane : c.g.lane l = x := by rw [Group.lane, ← hlanes, hl]; rfl
    by_cases ha : active i c l = true
    · simp only [Option.map_some, ha, if_true, hlane, Lane.push, Lane.setNext, callLane, Lane.full, decide_eq_true_eq]
    · simp only [Option.map_some, ha, Bool.false_eq_true, if_false]

/-- A call of which no lane's stack is full runs to its end. -/
theorem callRuns_of_room {i : Instr} {w : Body} {s t : State} {c : Ctx} {target : Nat → Nat} (hs : Starts i s t c)
    (hx : exec i s = callLanes w t c ((lanesOf (startAct i c)).map (fun l => (l, target l))))
    (hroom : ∀ l, active i c l = true → (c.g.lane l).stack.length + (c.g.lane l).spilled < 16 + c.crew.depth) : CallRuns i w.hdr s t c target := by
  obtain ⟨g0, hg0⟩ := starts_group hs
  obtain ⟨⟨_, _, _, hview⟩, -⟩ := starts_view hs hg0
  obtain ⟨g, hg, hasleep⟩ := group?_of_seats (State.falls_seats t c (lanesOf (startAct i c))) hg0
  have hlanes : g.lanes = c.g.lanes := by rw [hview]; exact (congrArg Group.lanes hasleep :)
  have hnone : ((lanesOf (startAct i c)).map (fun l => (l, target l))).find? (fun e => decide (16 + c.crew.depth ≤ (c.g.lane e.1).depth)) = none := by
    refine List.find?_eq_none.mpr fun e he => ?_
    obtain ⟨l, hl, rfl⟩ := List.mem_map.mp he
    have := hroom l ((mem_lanesOf _ l).mp hl)
    rw [decide_eq_true_eq, Nat.not_le]
    exact this
  have hfst : (falls i t c).2.map (·.1) = lanesOf (startAct i c) := falls_lanes ..
  have hmem : ∀ l, (l, fallOf i t c l) ∈ (falls i t c).2 ↔ active i c l = true := fun l => by
    rw [falls_eq, List.mem_map]
    exact ⟨fun ⟨l', hl', h⟩ => by cases h; exact (mem_lanesOf _ l).mp hl', fun h => ⟨l, (mem_lanesOf _ l).mpr h, rfl⟩⟩
  have hact : ∀ e ∈ (falls i t c).2, active i c e.1 = true := fun e he => (mem_lanesOf _ _).mp (hfst ▸ List.mem_map_of_mem (f := fun e => e.1) he)
  obtain ⟨mem, drained, n, heq, hother, hown⟩ := pushes_spec c c.g.lane (falls i t c).2 (hfst ▸ lanesOf_nodup _) (falls i t c).1 g hg
    (fun e _ => by rw [Group.lane, hlanes]; rfl)
  let F := fun g : Group => onActive i c (fun l x => { x.setNext (target l) with called := true }) (onActive i c (fun l x => x.push (c.g.lane l).full (fallOf i t c l)) g)
  let u := ({ (falls i t c).1 with mem := mem, drained := drained, nextSeq := n + 1 } : State).modGroup c.m.crew c.m.grp (fun g => (F g).issue c w.hdr)
  have hF : F g = onActive i c (fun l x => callLane (fallOf i t c l) (target l) x) g := pushed_eq_callLane hlanes _ _
  have hexec : exec i s = .next (u.deliver c.m.crew c.m.grp) := by
    have hlist : ((lanesOf (startAct i c)).map (fun l => (l, target l))).map (·.1) = lanesOf (startAct i c) := by rw [List.map_map]; exact List.map_id _
    rw [hx, callLanes, hnone]
    dsimp only
    rw [hlist, show t.falls c (lanesOf (startAct i c)) = falls i t c from rfl, heq, State.modGroup_modGroup, State.issued_eq]
    refine congrArg (fun x : State => Host.Outcome.next (x.deliver c.m.crew c.m.grp)) ?_
    refine (State.modGroup_modGroup ({ (falls i t c).1 with mem := mem, drained := drained, nextSeq := n + 1 } : State) c.m.crew c.m.grp _ (fun g => g.issue c w.hdr)).trans ?_
    simp only [falls_eq, List.foldl_map, foldl_active i c (fun l => Lane.push (c.g.lane l).full (fallOf i t c l)),
      foldl_active i c (fun l x => { x.setNext (target l) with called := true })]
    rfl
  have hread : ∀ r k, u.readKey r k = ((falls i t c).2.foldl (fun s e => s.pushRet c e.1 e.2) (falls i t c).1).readKey r k := fun r k => by rw [heq]; rfl
  refine ⟨u, g, (F g).issue c w.hdr, hexec, hg, ?_, onlyGroup_modGroup .., ?_, ?_, fun r k hk => ?_, fun l hl hdis => ?_⟩
  · rw [State.group?_modGroup]
    exact (congrArg (Option.map _) hg).trans rfl
  · rw [← hF]
    exact issued_of_issue ..
  · rw [← hF]
    unfold Group.issue Group.modEnt
    split_ifs <;> rfl
  · rw [hread]
    exact hother r k fun e he hfull b hb => hk e.1 b ⟨hact e he, (Lane.full_iff _).mp hfull⟩ hb
  · refine readNum_of_bytes fun b hb => ?_
    rw [hread]
    exact hown _ ((hmem l).mpr hl.1) ((Lane.full_iff _).mpr hl.2) (fun e he hfull hne b b' hb hb' => hdis e.1 ⟨hact e he, (Lane.full_iff _).mp hfull⟩ hne b b' hb hb') b hb

/-- The first of the active lanes that a test finds is the lowest. -/
theorem find_active {i : Instr} {c : Ctx} {p : Nat → Bool} (h : ∃ l, active i c l = true ∧ p l = true) :
    ∃ l, active i c l = true ∧ p l = true ∧ (∀ l', l' < l → active i c l' = true → p l' = false) ∧ (lanesOf (startAct i c)).find? p = some l := by
  obtain ⟨l0, hl0, hp0⟩ := h
  cases hf : (lanesOf (startAct i c)).find? p with
  | none => exact absurd hp0 (List.find?_eq_none.mp hf l0 ((mem_lanesOf _ l0).mpr hl0))
  | some l =>
    obtain ⟨hp, as, bs, hsplit, has⟩ := List.find?_eq_some_iff_append.mp hf
    have hsorted : (as ++ l :: bs).Pairwise (· < ·) := hsplit ▸ (List.pairwise_lt_range.filter _)
    have hlater : ∀ b ∈ bs, l < b := (List.pairwise_cons.mp (List.pairwise_append.mp hsorted).2.1).1
    refine ⟨l, (mem_lanesOf _ l).mp (List.mem_of_find?_eq_some hf), hp, fun l' hlt hl' => ?_, rfl⟩
    have hmem : l' ∈ as ++ l :: bs := hsplit ▸ (mem_lanesOf _ l').mpr hl'
    rcases List.mem_append.mp hmem with h | h
    · simpa using has l' h
    · rcases List.mem_cons.mp h with rfl | h
      · exact absurd hlt (Nat.lt_irrefl _)
      · exact absurd hlt (Nat.not_lt.mpr (hlater l' h).le)

/-! ### RET -/

/-- What RET pops of a lane, what it takes back and what it leaves, in the words of the statement (R183). -/
theorem popRet_eq (t : State) (c : Ctx) (l : Nat) : (t.popRet c l).1 = (retPops t c l).1 ∧ (t.popRet c l).2.1 = (retPops t c l).2 ∧
    ({ (t.popRet c l).2.2.setNext (t.popRet c l).1 with called := true } : Lane) = retLane t c l (c.g.lane l) := by
  unfold State.popRet retLane retPops
  cases hs : (c.g.lane l).stack with
  | nil => simp only [hs, Lane.setNext]; exact ⟨rfl, rfl, rfl⟩
  | cons b rest =>
    by_cases h0 : (c.g.lane l).spilled = 0
    · simp [hs, h0, Lane.setNext]
    · simp [hs, h0, Lane.setNext]; exact ⟨rfl, rfl⟩

/-- An entry taken back from scratch that names no block and not EXIT is a misuse of RET (log 28). -/
def badEntry (im : Image) (e : Option Nat) : Bool :=
  match e with
  | some b => b != exitBlk && !im.hasBlk b
  | none => false

theorem badEntry_eq_false {im : Image} {e : Option Nat} (h : ∀ b, e = some b → b = 0xFFFF ∨ im.hasBlk b = true) : badEntry im e = false := by
  cases e with
  | none => rfl
  | some b =>
    rcases h b rfl with rfl | hb
    · rfl
    · simp [badEntry, hb]

/-- RET once no active lane has called: the traps of an empty stack, the misuse of an entry that names no block, and else the lanes that have popped (R181, R183, R184). -/
theorem ret_eq {w : Body} {s t : State} {c : Ctx} (h : Starts (.ret w) s t c) (hm : MayBranch (.ret w) c) :
    exec (.ret w) s = match (lanesOf (startAct (.ret w) c)).find? (stackEmpty c) with
      | some l => t.trapWord c causeCallstack (callstackInfo c.st c.pos l true)
      | none =>
        if (lanesOf (startAct (.ret w) c)).any (fun l => badEntry (t.img c) (retPops t c l).2) then t.misuse c 0
        else .next ((t.modGroup c.m.crew c.m.grp (fun g =>
          (lanesOf (startAct (.ret w) c)).foldl (fun g l => g.modLane l (fun _ => retLane t c l (c.g.lane l))) g)).issued c w.hdr) := by
  refine (branch_of_may (execRet.eq_def w s) h rfl hm).trans ?_
  dsimp only
  rw [show (fun l => decide ((c.g.lane l).depth ≤ c.floorOf (c.g.lane l))) = stackEmpty c from rfl]
  cases (lanesOf (startAct (.ret w) c)).find? (stackEmpty c) with
  | some l => rfl
  | none =>
    dsimp only
    simp only [List.any_map, List.foldl_map, Function.comp_def, (popRet_eq t c _).2.1, (popRet_eq t c _).2.2]
    rfl

/-- A change of the active lanes counts for the lanes that the group has. -/
theorem onActive_congr {i : Instr} {c : Ctx} {f f' : Nat → Lane → Lane} {g : Group} (h : ∀ l x, g.lanes[l]? = some x → f l x = f' l x) :
    onActive i c f g = onActive i c f' g := by
  unfold onActive
  congr 1
  refine List.ext_getElem? fun l => ?_
  rw [List.getElem?_mapIdx, List.getElem?_mapIdx]
  cases hl : g.lanes[l]? with
  | none => rfl
  | some x => rw [Option.map_some, Option.map_some, h l x hl]

/-- What a word makes of its group counts for the group that it finds alone. -/
theorem groupRuns_congr {i : Instr} {h : Hdr} {s t : State} {c : Ctx} {f f' : Group → Group} (hr : GroupRuns i h s t c f)
    (hf : ∀ g, t.group? c.m.crew c.m.grp = some g → f g = f' g) : GroupRuns i h s t c f' := by
  obtain ⟨u, g, g', hx, honly, hg, hg', hiss, hrest⟩ := hr
  rw [hf g hg] at hiss hrest
  exact ⟨u, g, g', hx, honly, hg, hg', hiss, hrest⟩

/-- Settles O18: calls by their room, RET by what its lanes find. -/
theorem callAndReturnResults : Obligations.CallAndReturnResults := by
  unfold Obligations.CallAndReturnResults
  intro w s t c
  refine ⟨fun h hm hroom => ?_, fun h hm hgood => ?_, fun h hm hfull => ?_, fun h hm hgood => ?_, fun h hm hempty => ?_⟩
  · exact callRuns_of_room h (branch_of_may (execCall.eq_def w s) h rfl hm) hroom
  · refine callRuns_of_room h ((branch_of_may (execCallx.eq_def w s) h rfl hm).trans (if_pos ?_)) fun l hl => (hgood l hl).1
    refine List.all_eq_true.mpr fun e he => ?_
    obtain ⟨l, hl, rfl⟩ := List.mem_map.mp he
    exact (hgood l ((mem_lanesOf _ l).mp hl)).2
  · obtain ⟨l0, hl0, hd0⟩ := hfull
    obtain ⟨l, hl, hd, hfirst, hfind⟩ := find_active (p := fun l => decide (16 + c.crew.depth ≤ (c.g.lane l).depth)) ⟨l0, hl0, decide_eq_true hd0⟩
    refine ⟨l, hl, of_decide_eq_true hd, fun l' hlt hl' => Nat.not_le.mp (of_decide_eq_false (hfirst l' hlt hl')), ?_⟩
    refine (branch_of_may (execCall.eq_def w s) h rfl hm).trans ?_
    rw [callLanes, List.find?_map, Function.comp_def, hfind]
    rfl
  · obtain ⟨g, hg⟩ := starts_group h
    obtain ⟨⟨_, _, _, hview⟩, -⟩ := starts_view h hg
    have hnone : (lanesOf (startAct (.ret w) c)).find? (stackEmpty c) = none :=
      List.find?_eq_none.mpr fun l hl => by rw [(hgood l ((mem_lanesOf _ l).mp hl)).1]; exact Bool.false_ne_true
    have hvalid : ¬ (lanesOf (startAct (.ret w) c)).any (fun l => badEntry (t.img c) (retPops t c l).2) = true := by
      rw [Bool.not_eq_true, List.any_eq_false]
      intro l hl
      rw [badEntry_eq_false (hgood l ((mem_lanesOf _ l).mp hl)).2]
      exact Bool.false_ne_true
    have hx : exec (.ret w) s = .next ((t.modGroup c.m.crew c.m.grp (onActive (.ret w) c (fun l _ => retLane t c l (c.g.lane l)))).issued c w.hdr) := by
      refine (ret_eq h hm).trans ?_
      rw [hnone]
      refine (if_neg hvalid).trans ?_
      simp only [foldl_active (.ret w) c (fun l _ => retLane t c l (c.g.lane l))]
    refine groupRuns_congr (groupRuns_of_issued hg hx) fun g' hg' => onActive_congr fun l x hl => ?_
    obtain rfl : g' = g := Option.some.inj (hg'.symm.trans hg)
    rw [Group.lane, hview, hl]
    rfl
  · obtain ⟨l, hl, he, hfirst, hfind⟩ := find_active (p := stackEmpty c) hempty
    refine ⟨l, hl, he, hfirst, (ret_eq h hm).trans ?_⟩
    rw [hfind]
    rfl

end Sys2Proof.Machine
end

section
/-!
PROOFS. Traps that are delivered at once (R48 to R50, R53, R322), and those of a handler's lanes, which are fatal (R50, R347).
-/

namespace Sys2Proof.Machine

open Sys2Proof.Claims

/-! ### Entering a state (R31) -/

/-- A group of which an entity enters a state: its lanes latch their blocks, and it stands at the state's first word. -/
def Group.enterAt (g : Group) (i st : Nat) (code : List Code) (w : Option Wait) (seq : Nat) : Group :=
  (g.modLanes (((g.ent? i).map (·.lanes)).getD 0) (fun _ l => { l with occ := l.blk, marked := false, called := false })).modEnt i
    (fun e => { e with st := st, code := code, pos := 0, entries := e.entries + 1, wait := w, join := if e.met then seq else 0, met := false, since := seq })

/-- Entering a state changes one group, the cores' code windows and the counter of sequence numbers. -/
theorem enter_eq {s : State} {m : Member} {c : Crew} (st : Nat) (hc : s.crew? m.crew = some c) :
    ∃ cores code w, s.enter m st =
      ({ s with cores := cores, nextSeq := s.nextSeq + 1 } : State).modGroup m.crew m.grp (fun g => g.enterAt m.ent st code w s.nextSeq) := by
  unfold State.enter
  rw [hc]
  exact ⟨_, _, _, rfl⟩

/-! ### Entering a handler (R49) -/

/-- A group that takes a trap: the entering lanes are the handler's entity, their results have landed, and they stand in the entry block with their own place held. -/
def Group.inHandler (g : Group) (t : Trap) (entry home cyc : Nat) (pre : Bool) : Group :=
  let lanes := g.entering t
  let at0 := max cyc (lastDue (if t.cause = causeBinding then g.pend.filter (fun p => (p.lanes &&& lanes) != 0) else g.pend))
  let e : Ent := { newEnt handlerIdx lanes at0 with met := g.handlerMet t, st := home }
  let h : Handler := ⟨t.cause, if t.cause = causeBinding ∧ g.isSplit then t.ent else none, e, false, pre⟩
  let g1 := (if t.cause = causeBinding then (g.unmeet t).landOf lanes else g.landAll).modLanes lanes (fun _ l => l.enterHandler entry)
  { (g1.holdFences t.cause) with handler := some h, cause := t.cause, info := t.info }

/-- Taking a trap of which the image declares the handler changes one group, the code windows and the counter of sequence numbers. -/
theorem takeTrap_eq {s : State} {uid i entry home : Nat} {t : Trap} {c : Crew} (hc : s.crew? uid = some c)
    (hentry : s.handlerEntry c (handlerKind t.cause) = some (entry, home)) :
    ∃ cyc pre cores code w, s.takeTrap uid i t = ({ s with cores := cores, nextSeq := s.nextSeq + 1 } : State).modGroup uid i
      (fun g => (g.inHandler t entry home cyc pre).enterAt handlerIdx home code w s.nextSeq) := by
  let pre := t.cause == causeBinding && s.preempting uid i
  let f := fun g : Group => g.inHandler t entry home (s.cyc c.core) pre
  have hc' : (s.modGroup uid i f).crew? uid = some (c.modGroup i f) := by rw [State.crew?_modGroup, hc]; rfl
  obtain ⟨cores, code, w, henter⟩ := enter_eq (m := ⟨uid, i, handlerIdx⟩) home hc'
  refine ⟨s.cyc c.core, pre, cores, code, w, ?_⟩
  have htake : s.takeTrap uid i t = (s.modGroup uid i f).enter ⟨uid, i, handlerIdx⟩ home := by
    unfold State.takeTrap
    rw [hc]
    dsimp only
    rw [hentry]
    rfl
  rw [htake, henter]
  exact State.modGroup_modGroup ({ s with cores := cores, nextSeq := s.nextSeq + 1 } : State) uid i f _

theorem Group.landAll_rest (g : Group) : ∃ v p s, g.landAll = { g with v := v, p := p, s := s, pend := [] } := by
  obtain ⟨v, p, s, h⟩ := foldRegs_rest (fun g (p : Pend) => g.applyAll p.ws) (fun g p => Group.applyAll_rest p.ws g) g.pend g
  exact ⟨v, p, s, by rw [Group.landAll, h]⟩

/-- A group that takes a trap other than BINDING has entered its handler with all live lanes (R48, R49). -/
theorem enteredHandler_inHandler {g : Group} {t : Trap} (hcause : t.cause ≠ causeBinding) (entry home cyc : Nat) (pre : Bool) (code : List Code) (w : Option Wait) (seq : Nat) :
    EnteredHandler g ((g.inHandler t entry home cyc pre).enterAt handlerIdx home code w seq) t g.liveMask entry home := by
  obtain ⟨v, p, s, hland⟩ := g.landAll_rest
  have hentering : g.entering t = g.liveMask := if_neg hcause
  have hlanes : ((g.inHandler t entry home cyc pre).enterAt handlerIdx home code w seq).lanes =
      g.lanes.mapIdx (fun l x => if g.liveMask.getLsbD l then enteredLane entry x else x) := by
    have hfirst : (g.inHandler t entry home cyc pre).lanes = g.lanes.mapIdx (fun l x => if g.liveMask.getLsbD l then x.enterHandler entry else x) := by
      unfold Group.inHandler Group.holdFences
      simp only [hentering, if_neg hcause, hland, Group.modLanes]
      split_ifs <;> rfl
    have hmine : (((g.inHandler t entry home cyc pre).ent? handlerIdx).map (·.lanes)).getD 0 = g.liveMask := hentering
    unfold Group.enterAt Group.modLanes
    rw [hmine]
    show List.mapIdx _ (g.inHandler t entry home cyc pre).lanes = _
    rw [hfirst, List.mapIdx_mapIdx]
    refine congrArg (fun f => List.mapIdx f g.lanes) (funext fun l => funext fun x => ?_)
    dsimp only [Function.comp]
    split_ifs <;> rfl
  refine ⟨rfl, rfl, ?_, ⟨_, rfl, rfl, rfl, hentering, rfl, rfl, rfl⟩, hlanes, ?_, ?_, ?_, ?_, ?_⟩
  all_goals
    unfold Group.enterAt Group.inHandler Group.holdFences Group.modEnt Group.modLanes
    simp only [if_neg hcause, hland, if_true]
    split_ifs <;> rfl

/-! ### Delivery at once (R48) -/

/-- The first held trap is taken where no handler runs and every split stands at a word boundary. -/
theorem deliver_first {s : State} {uid i : Nat} {g : Group} {t : Trap} (hg : s.group? uid i = some g) (hnone : g.handler = none) (ht : firstTrap g.traps = some t)
    (hb : g.atBoundary t = true) : s.deliver uid i = (s.modGroup uid i (fun g => { g with traps := g.traps.erase t })).takeTrap uid i t := by
  rw [State.deliver, hg]
  dsimp only
  rw [hnone, ht]
  exact if_pos hb

/-- A trap that nothing delays is taken at once, and no trap is then held. -/
theorem raise_at_once {s : State} {m : Member} {g : Group} {cause : BitVec 8} {info : Word} (hg : s.group? m.crew m.grp = some g) (hm : m.ent ≠ handlerIdx)
    (hat : DeliversAtOnce g m.ent) :
    let t : Trap := ⟨some m.ent, cause, info⟩
    s.raise m cause info = (s.modGroup m.crew m.grp (fun g => { g with traps := (g.traps ++ [t]).erase t })).takeTrap m.crew m.grp t := by
  intro t
  obtain ⟨hnone, htraps, hents⟩ := hat
  have hg' : (s.modGroup m.crew m.grp (fun g => { g with traps := g.traps ++ [t] })).group? m.crew m.grp = some { g with traps := [t] } := by
    rw [State.group?_modGroup, hg, Option.map_some, htraps]; rfl
  have hbound : ({ g with traps := [t] } : Group).atBoundary t = true := by
    refine Bool.or_eq_true_iff.mpr (Or.inr (List.all_eq_true.mpr fun e he => ?_))
    rcases hents e he with h | h
    · simp [t, h]
    · rw [h, Bool.not_false, Bool.or_true]
  rw [State.raise, if_neg hm, deliver_first hg' hnone rfl hbound, State.modGroup_modGroup]

/-- Settles O20: a trap that enters its handler, and one of a handler's lanes. -/
theorem trapDelivery : Obligations.TrapDelivery := by
  unfold Obligations.TrapDelivery
  intro s m cr cause info hc
  refine ⟨fun g entry home hg hm hat hcause hentry => ?_, fun hm => ?_⟩
  · let t : Trap := ⟨some m.ent, cause, info⟩
    let f := fun g : Group => { g with traps := (g.traps ++ [t]).erase t }
    have hc' : (s.modGroup m.crew m.grp f).crew? m.crew = some (cr.modGroup m.grp f) := by rw [State.crew?_modGroup, hc]; rfl
    have hf : f g = g := by
      show { g with traps := (g.traps ++ [t]).erase t } = g
      rw [hat.2.1, List.nil_append, List.erase_cons_head, ← hat.2.1]
    obtain ⟨cyc, pre, cores, code, w, htake⟩ := takeTrap_eq (i := m.grp) (t := t) hc' hentry
    have hraise : s.raise m cause info = ({ s with cores := cores, nextSeq := s.nextSeq + 1 } : State).modGroup m.crew m.grp
        (fun g => ((f g).inHandler t entry home cyc pre).enterAt handlerIdx home code w s.nextSeq) := by
      rw [raise_at_once hg hm hat, htake]
      exact State.modGroup_modGroup ({ s with cores := cores, nextSeq := s.nextSeq + 1 } : State) m.crew m.grp f _
    rw [hraise]
    refine ⟨(g.inHandler t entry home cyc pre).enterAt handlerIdx home code w s.nextSeq, ?_, enteredHandler_inHandler hcause .., fun v hv => ?_, fun j hj => ?_, fun _ _ => rfl, rfl⟩
    · rw [State.group?_modGroup]
      refine (congrArg (Option.map _) hg).trans ?_
      rw [Option.map_some, hf]
    · exact State.crew?_modGroup_ne _ _ _ _ _ hv
    · rw [State.group?_modGroup_at, if_neg (fun h => hj h.2)]
      rfl
  · obtain ⟨hcrew, hkills, hothers, hrest⟩ := fatal_spec s m.crew 1 cr hc
    rw [raise_handler s m cause info hm]
    exact ⟨hcrew, hkills, hothers, sameBytes_of_still (State.fatal_still ..)⟩

end Sys2Proof.Machine
end

section
/-!
PROOFS. PMDONE (R54, R188, R346, R347): the blocks of a group in its preempt handler, and what the cores keep of its registers.
-/

namespace Sys2Proof.Machine

open Sys2Proof.Claims

/-! ### Cores that change -/

/-- What a change of one core leaves of every core. -/
theorem core_modCore_keeps {α : Type} (p : Core → α) (s : State) (j : Nat) (f : Core → Core) (hf : ∀ k, p (f k) = p k) (i : Nat) :
    p ((s.modCore j f).core i) = p (s.core i) := by
  unfold State.core State.modCore
  rw [List.getElem?_modify]
  cases s.cores[i]? with
  | none => rfl
  | some k => by_cases h : j = i <;> simp [h, hf]

theorem cores_modCore_keeps {α : Type} (p : Core → α) (s : State) (j : Nat) (f : Core → Core) (hf : ∀ k, p (f k) = p k) :
    (s.modCore j f).cores.map p = s.cores.map p := by
  refine List.ext_getElem? fun i => ?_
  rw [List.getElem?_map, List.getElem?_map, State.modCore, List.getElem?_modify]
  cases s.cores[i]? with
  | none => rfl
  | some k => by_cases h : j = i <;> simp [h, hf]

/-- The queues of the Beryl units after a group has released its blocks at and above a count (R23). -/
theorem beryl_cutReads (s : State) (j uid gi n i : Nat) : ((s.modCore j (cutReads uid gi n)).core i).beryl =
    (s.core i).beryl.map (fun b => if i = j ∧ b.crew = uid ∧ b.grp = gi then { b with op := b.op.cut n } else b) := by
  unfold State.core State.modCore
  rw [List.getElem?_modify]
  cases s.cores[i]? with
  | none => rfl
  | some k =>
    by_cases h : i = j
    · simp [h, cutReads]
    · simp [h, Ne.symm h]

/-- A change of a group and a release of its blocks are one change of the group beside that of its core. -/
theorem dropBlocks_modGroup (s : State) (c : Crew) (gi n : Nat) (keep : Bool) (f : Group → Group) :
    (s.modGroup c.uid gi f).dropBlocks c gi n keep = (s.modCore c.core (cutReads c.uid gi n)).modGroup c.uid gi (fun g => (f g).dropBlocks n keep) := by
  unfold State.dropBlocks
  rw [State.modGroup_modGroup]
  rfl

/-- A core but for the register values that accepted matrix operations keep. -/
def Core.unkept (k : Core) : Core := { k with matrix := k.matrix.map (fun x => { x with kept := [] }) }

/-- Keeping registers for accepted matrix operations changes nothing else (R134, R142). -/
theorem keepRegs_eq (s : State) (uid gi : Nat) : ∃ cores, s.keepRegs uid gi = { s with cores := cores } ∧
    cores.map Core.unkept = s.cores.map Core.unkept := by
  unfold State.keepRegs
  split
  next c g _ _ =>
    refine ⟨_, rfl, cores_modCore_keeps Core.unkept s c.core _ fun k => ?_⟩
    unfold Core.unkept
    dsimp only
    rw [List.map_map]
    congr 1
    refine List.map_congr_left fun x _ => ?_
    dsimp only [Function.comp]
    split_ifs <;> rfl
  · exact ⟨s.cores, rfl, rfl⟩

/-- What cores that are the same but for kept registers have in common, core by core. -/
theorem core_of_unkept {s : State} {cores : List Core} (h : cores.map Core.unkept = s.cores.map Core.unkept) (i : Nat) :
    (({ s with cores := cores } : State).core i).unkept = (s.core i).unkept := by
  have hi : (cores[i]?).map Core.unkept = (s.cores[i]?).map Core.unkept := by rw [← List.getElem?_map, h, List.getElem?_map]
  unfold State.core
  dsimp only
  cases hc : cores[i]? with
  | none =>
    rw [hc] at hi
    cases hs : s.cores[i]? with
    | none => rfl
    | some k => rw [hs] at hi; cases hi
  | some k =>
    rw [hc] at hi
    cases hs : s.cores[i]? with
    | none => rw [hs] at hi; cases hi
    | some k' => rw [hs] at hi; exact Option.some.inj hi

/-! ### PMDONE -/

/-- A group of which PMDONE has been noted, with every result landed. -/
def Group.markPmdone (g : Group) : Group := { g.landAll with preDone := true, handler := g.landAll.handler.map (fun h => { h with pmdone := true }) }

section

variable {w : Body} {s t : State} {c : Ctx} (h : Starts (.pmdone w) s t c) (hact : startAct (.pmdone w) c ≠ 0)

include h hact

/-- PMDONE without a handler is a misuse. -/
theorem pmdone_of_none (hn : c.g.handler = none) : exec (.pmdone w) s = t.misuse c 0 := by
  show execPmdone w s = _
  rw [execPmdone, begin_of_starts h]
  refine (if_neg hact).trans ?_
  rw [hn]

/-- PMDONE of a group that runs a handler: a misuse but for the first of a preempt handler's lanes, which is fatal once the grace budget has run out. -/
theorem pmdone_of_handler {x : Handler} (hx : c.g.handler = some x) : exec (.pmdone w) s =
    if c.m.ent ≠ handlerIdx ∨ x.cause ≠ causePreempt ∨ x.pmdone then t.misuse c 0
    else if t.graceOver c.crew then .next (t.fatal c.m.crew 2)
    else .next ((((t.keepRegs c.m.crew c.m.grp).modGroup c.m.crew c.m.grp Group.markPmdone).dropBlocks c.crew c.m.grp 0 true).issued c w.hdr) := by
  show execPmdone w s = _
  rw [execPmdone, begin_of_starts h]
  refine (if_neg hact).trans ?_
  rw [hx]
  rfl

end

/-- The group after PMDONE in the words of the statement. -/
theorem pmdoneGroup_eq (g : Group) : g.markPmdone.dropBlocks 0 true = pmdoneGroup g := by
  obtain ⟨v, p, s, hland⟩ := g.landAll_rest
  have hv : ∀ m : SMap Word, smFilter (fun k => decide (k / 64 < 16 * 0)) m = [] := fun m => List.filter_eq_nil_iff.mpr fun e _ => by simp
  unfold Group.dropBlocks Group.markPmdone pmdoneGroup
  rw [hland]
  dsimp only
  rw [hv, Nat.min_zero]
  rfl

theorem pmdoneGroup_rest (g : Group) : (pmdoneGroup g).ents = g.ents ∧ (pmdoneGroup g).issued = g.issued := by
  obtain ⟨v, p, s, hland⟩ := g.landAll_rest
  unfold pmdoneGroup
  rw [hland]
  exact ⟨rfl, rfl⟩

/-- The end of a word changes the entities, the handler's entity and the moment of issue of its group. -/
theorem Group.issue_rest (g : Group) (c : Ctx) (h : Hdr) : ({ g.issue c h with ents := g.ents, handler := g.handler, issued := g.issued } : Group) = g := by
  unfold Group.issue Group.modEnt
  split_ifs <;> rfl

/-- Settles O23: PMDONE by its guards, and what its release leaves of the cores. -/
theorem pmdoneResults : Obligations.PmdoneResults := by
  unfold Obligations.PmdoneResults
  intro w s t c h hact
  dsimp only
  have hmay : ∀ x, c.g.handler = some x → ((c.m.ent = handlerIdx ∧ ∃ h, c.g.handler = some h ∧ h.cause = 0x01 ∧ h.pmdone = false) ↔
      ¬ (c.m.ent ≠ handlerIdx ∨ x.cause ≠ causePreempt ∨ x.pmdone = true)) := fun x hx => by
    rw [hx]
    simp [causePreempt]
  refine ⟨fun hm hgrace => ?_, fun hm hgrace => ?_, fun hm => ?_⟩
  · obtain ⟨x, hx, -⟩ := hm.2
    obtain ⟨g, hg⟩ := starts_group h
    obtain ⟨-, huid⟩ := starts_view h hg
    obtain ⟨cores, hkeep, hsame⟩ := keepRegs_eq t c.m.crew c.m.grp
    let t1 : State := { t with cores := cores }
    let t2 : State := t1.modCore c.crew.core (cutReads c.m.crew c.m.grp 0)
    have hexec : exec (.pmdone w) s = .next ((t2.modGroup c.m.crew c.m.grp (fun g => (pmdoneGroup g).issue c w.hdr)).deliver c.m.crew c.m.grp) := by
      have hdrop := dropBlocks_modGroup t1 c.crew c.m.grp 0 true Group.markPmdone
      rw [huid] at hdrop
      rw [pmdone_of_handler h hact hx, if_neg ((hmay x hx).mp hm), hgrace, if_neg Bool.false_ne_true, hkeep, hdrop, State.issued_eq, State.modGroup_modGroup]
      simp only [pmdoneGroup_eq]
      rfl
    have hcore : ∀ i, (t1.core i).unkept = (t.core i).unkept := core_of_unkept hsame
    refine ⟨_, g, (pmdoneGroup g).issue c w.hdr, hexec, onlyGroup_modGroup .., hg, ?_, issued_of_issue .., ?_, ?_, fun i => ⟨?_, ?_⟩⟩
    · rw [State.group?_modGroup]
      exact (congrArg (Option.map _) hg).trans rfl
    · obtain ⟨hents, hissued⟩ := pmdoneGroup_rest g
      rw [← hents, ← hissued]
      exact Group.issue_rest ..
    · refine (cores_modCore_keeps _ t1 c.crew.core (cutReads c.m.crew c.m.grp 0) fun _ => rfl).trans ?_
      have := congrArg (List.map (fun k : Core => ({ k with beryl := [], matrix := [] } : Core))) hsame
      rw [List.map_map, List.map_map] at this
      exact this
    · refine (core_modCore_keeps (fun k => k.matrix.map (fun x => ({ x with kept := [] } : MatOp))) t1 c.crew.core (cutReads c.m.crew c.m.grp 0) (fun _ => rfl) i).trans ?_
      exact congrArg Core.matrix (hcore i)
    · refine (beryl_cutReads t1 c.crew.core c.m.crew c.m.grp 0 i).trans ?_
      rw [huid]
      exact congrArg _ (congrArg Core.beryl (hcore i) :)
  · obtain ⟨x, hx, -⟩ := hm.2
    rw [pmdone_of_handler h hact hx, if_neg ((hmay x hx).mp hm), if_pos hgrace]
  · cases hx : c.g.handler with
    | none => exact pmdone_of_none h hact hx
    | some x => exact (pmdone_of_handler h hact hx).trans (if_pos (Decidable.not_not.mp ((hmay x hx).not.mp hm)))

end Sys2Proof.Machine
end

section
/-!
PROOFS. TRET (R50, R51, R53, R54, R187): the group that leaves its handler, the traps that are delivered then, and the group that retires.
-/

namespace Sys2Proof.Machine

open Sys2Proof.Claims

/-! ### Retirement stands -/

/-- Which groups have retired. -/
def State.retiredAt (s : State) : Nat → Nat → Option Bool := fun u j => (s.group? u j).map (·.retired)

theorem retiredAt_modGroup (s : State) (uid i : Nat) (f : Group → Group) (hf : ∀ g, (f g).retired = g.retired) : (s.modGroup uid i f).retiredAt = s.retiredAt := by
  funext u j
  unfold State.retiredAt
  rw [State.group?_modGroup_at]
  split_ifs
  · rw [Option.map_map]
    exact congrArg (fun x => Option.map x _) (funext hf)
  · rfl

theorem Group.modEnt_retired (g : Group) (i : Nat) (f : Ent → Ent) : (g.modEnt i f).retired = g.retired := by
  unfold Group.modEnt
  split_ifs <;> rfl

@[simp] theorem State.fatal_retiredAt (s : State) (uid : Nat) (cause : BitVec 8) : (s.fatal uid cause).retiredAt = s.retiredAt := by
  funext u j
  unfold State.retiredAt
  rw [State.fatal_group?]

@[simp] theorem State.enter_retiredAt (s : State) (m : Member) (st : Nat) : (s.enter m st).retiredAt = s.retiredAt := by
  funext u j
  obtain ⟨f, fl, h⟩ := State.enter_group? s m st u j
  unfold State.retiredAt
  rw [h]
  split_ifs
  · rw [Option.map_map]
    exact congrArg (fun x => Option.map x _) (funext fun g => Group.modEnt_retired _ _ _)
  · rfl

theorem Group.landAll_retired (g : Group) : g.landAll.retired = g.retired := by
  obtain ⟨v, p, s, h⟩ := g.landAll_rest
  rw [h]

theorem Group.landOf_rest (g : Group) (m : Word) :
    ∃ v p s, g.landOf m = { g with v := v, p := p, s := s, pend := g.pend.filter (fun p => (p.lanes &&& m) == 0) } := by
  obtain ⟨v, p, s, h⟩ := foldRegs_rest (fun g (p : Pend) => g.applyAll p.ws) (fun g p => Group.applyAll_rest p.ws g) (g.pend.filter (fun p => (p.lanes &&& m) != 0)) g
  exact ⟨v, p, s, by rw [Group.landOf, h]⟩

theorem Group.unmeet_retired (g : Group) (t : Trap) : (g.unmeet t).retired = g.retired := by
  unfold Group.unmeet
  split
  · split_ifs
    · exact Group.modEnt_retired ..
    · rfl
  · rfl

theorem Group.inHandler_retired (g : Group) (t : Trap) (entry home cyc : Nat) (pre : Bool) : (g.inHandler t entry home cyc pre).retired = g.retired := by
  have hland : (if t.cause = causeBinding then (g.unmeet t).landOf (g.entering t) else g.landAll).retired = g.retired := by
    split_ifs
    · obtain ⟨v, p, s, h⟩ := (g.unmeet t).landOf_rest (g.entering t)
      rw [h]
      exact Group.unmeet_retired ..
    · exact g.landAll_retired
  have hhold : ∀ x : Group, (x.holdFences t.cause).retired = x.retired := fun x => by
    unfold Group.holdFences
    split_ifs <;> rfl
  exact (hhold _).trans hland

@[simp] theorem State.takeTrap_retiredAt (s : State) (uid i : Nat) (t : Trap) : (s.takeTrap uid i t).retiredAt = s.retiredAt := by
  unfold State.takeTrap
  split
  · rfl
  · split
    · exact State.fatal_retiredAt ..
    next entry home _ => exact (State.enter_retiredAt ..).trans (retiredAt_modGroup _ _ _ _ fun g => Group.inHandler_retired g t entry home _ _)

@[simp] theorem State.deliver_retiredAt (s : State) (uid i : Nat) : (s.deliver uid i).retiredAt = s.retiredAt := by
  unfold State.deliver
  split
  · rfl
  · split
    · split_ifs
      · exact (State.takeTrap_retiredAt ..).trans (retiredAt_modGroup _ _ _ _ fun _ => rfl)
      · rfl
    · rfl

@[simp] theorem State.tryPreempt_retiredAt (s : State) (uid i : Nat) : (s.tryPreempt uid i).retiredAt = s.retiredAt := by
  unfold State.tryPreempt
  split
  · rfl
  · split_ifs
    · exact (State.takeTrap_retiredAt ..).trans (retiredAt_modGroup _ _ _ _ fun _ => rfl)
    · rfl

@[simp] theorem State.withdraw_group? (s : State) (m : Member) (u j : Nat) : (s.withdraw m).group? u j = s.group? u j := by
  have hcrew := State.crew?_modCrew s m.crew u (fun c => { c with rdv := c.rdv.filter (fun a => !(a.grp == m.grp && a.ent == m.ent)) }) (fun _ => rfl)
  unfold State.group? State.withdraw
  rw [hcrew]
  cases s.crew? u with
  | none => rfl
  | some c => by_cases h : c.uid = m.crew <;> simp [h]

@[simp] theorem State.withdraw_retiredAt (s : State) (m : Member) : (s.withdraw m).retiredAt = s.retiredAt := by
  funext u j
  unfold State.retiredAt
  rw [State.withdraw_group?]

@[simp] theorem State.abandonGroup_retiredAt (s : State) (uid i : Nat) : (s.abandonGroup uid i).retiredAt = s.retiredAt := by
  unfold State.abandonGroup
  dsimp only
  split_ifs
  · rfl
  · rw [State.tryPreempt_retiredAt, State.deliver_retiredAt, retiredAt_modGroup _ _ _ _ (by intro g; rfl)]
    exact foldl_keeps State.retiredAt _ (fun s e => State.withdraw_retiredAt s _) _ s

/-- A group of which the retirement is known. -/
theorem retired_of_retiredAt {s : State} {u j : Nat} {b : Bool} (h : s.retiredAt u j = some b) : ((s.group? u j).getD default).retired = b := by
  unfold State.retiredAt at h
  obtain ⟨g, hg, rfl⟩ := Option.map_eq_some_iff.mp h
  rw [hg]; rfl

theorem keepRegs_group? (s : State) (uid gi u j : Nat) : (s.keepRegs uid gi).group? u j = s.group? u j := by
  obtain ⟨cores, h, -⟩ := keepRegs_eq s uid gi
  rw [h]; rfl

@[simp] theorem State.lateRetire_group? (s : State) (uid u j : Nat) : (s.lateRetire uid).group? u j = s.group? u j := by
  unfold State.lateRetire
  split
  · split_ifs
    · exact State.fatal_group? ..
    · rfl
  · rfl

/-- A group that retires has retired, and is as `Group.retire` makes it but for its accumulators (R32). -/
theorem retireNow_group? {s : State} {uid gi : Nat} {g : Group} (hg : s.group? uid gi = some g) :
    ∃ q, (s.retireNow uid gi).group? uid gi = some { g.retire with q := q } := by
  have hret : ((s.keepRegs uid gi).modGroup uid gi Group.retire).group? uid gi = some g.retire := by
    rw [State.group?_modGroup, keepRegs_group?, hg]; rfl
  unfold State.retireNow State.dropAccs
  rw [State.lateRetire_group?]
  split_ifs
  · exact ⟨g.q, hret⟩
  · rw [State.group?_modGroup, hret]
    exact ⟨noAccs, rfl⟩

/-! ### The group that leaves its handler -/

/-- The lanes of a handler's entity. -/
def Group.handlerLanes (g : Group) : Word := ((g.ent? handlerIdx).map (·.lanes)).getD 0

/-- A group that leaves its handler by TRET: the results land, the lanes and the splits take back what they had, and lanes that have exited leave every set (R51). -/
def Group.leaveHandler (g : Group) (seq : Nat) : Group :=
  (((((if g.cause = causeBinding then g.landOf g.handlerLanes else g.landAll).modLanes g.handlerLanes (fun _ l => l.tret)).endHandler seq).prune).whole)

/-- TRET: the group leaves its handler, then it retires or takes the traps that were held (R50, R51). -/
theorem tret_eq (s : State) (m : Member) : s.tret m =
    let s1 := ({ s with nextSeq := s.nextSeq + 1 } : State).modGroup m.crew m.grp (fun g => g.leaveHandler s.nextSeq)
    if ((s1.group? m.crew m.grp).getD default).liveMask = 0 then s1.retireNow m.crew m.grp else (s1.deliver m.crew m.grp).abandonGroup m.crew m.grp := rfl

theorem Group.whole_rest (g : Group) : ∃ ents, g.whole = { g with ents := ents } ∧ (∀ e ∈ ents, ∃ e0 ∈ g.ents, e0.idx = e.idx ∧ e.stopped = e0.stopped) ∧
    ents.map (·.lanes) = g.ents.map (·.lanes) := by
  unfold Group.whole
  split_ifs
  · exact ⟨g.ents, rfl, fun e he => ⟨e, he, rfl, rfl⟩, rfl⟩
  · refine ⟨_, rfl, fun e he => ?_, by rw [List.map_map]; rfl⟩
    obtain ⟨e0, he0, rfl⟩ := List.mem_map.mp he
    exact ⟨e0, he0, rfl, rfl⟩

theorem Group.prune_ents (g : Group) {e : Ent} (he : e ∈ g.prune.ents) : ∃ e0 ∈ g.ents, e0.idx = e.idx ∧ e.stopped = e0.stopped := by
  obtain ⟨e0, he0, rfl⟩ := List.mem_map.mp (List.mem_filter.mp he).1
  exact ⟨e0, he0, rfl, rfl⟩

theorem Group.endHandler_ents (g : Group) (seq : Nat) {e : Ent} (he : e ∈ (g.endHandler seq).ents) :
    ∃ e0 ∈ g.ents, e0.idx = e.idx ∧ e.stopped = (e0.stopped && (g.handler.map (·.cause)) != some causePreempt) := by
  unfold Group.endHandler at he
  dsimp only at he
  cases hh : g.handler with
  | none =>
    rw [hh] at he
    exact ⟨e, he, rfl, by simp⟩
  | some h =>
    rw [hh] at he
    by_cases hc : h.cause = causePreempt
    · have hmine : (h.cause == causePreempt) = true := by simp [hc]
      rw [Option.map_some, Option.getD_some, hmine, if_pos rfl] at he
      obtain ⟨e0, he0, rfl⟩ := List.mem_map.mp he
      exact ⟨e0, he0, rfl, by simp [hc]⟩
    · have hmine : (h.cause == causePreempt) = false := by simp [hc]
      rw [Option.map_some, Option.getD_some, hmine, if_neg Bool.false_ne_true] at he
      exact ⟨e, he, rfl, by simp [hc]⟩

theorem Group.endHandler_lanes (g : Group) (seq : Nat) {e : Ent} (he : e ∈ g.ents) : ∃ e' ∈ (g.endHandler seq).ents, e'.lanes = e.lanes := by
  unfold Group.endHandler
  dsimp only
  split_ifs
  · exact ⟨_, List.mem_map_of_mem he, rfl⟩
  · exact ⟨e, he, rfl⟩

/-- What the return does to a lane, in the words of the statement. -/
theorem Lane.tret_eq (x : Lane) : x.tret = if x.valid = false ∨ (x.marked = true ∧ x.blk = 0xFFFF) then
      { x with valid := false, blk := 0xFFFF, marked := false, called := false, stack := [], spilled := 0 }
    else { x with blk := x.tbr.setWidth 16, occ := x.hOcc, marked := x.hMarked, called := x.hCalled, stack := x.hStack, spilled := x.hSpilled } := by
  have hblk : x.blk.toNat = exitBlk ↔ x.blk = 0xFFFF := ⟨fun h => BitVec.eq_of_toNat_eq h, fun h => by rw [h]; rfl⟩
  unfold Lane.tret
  refine if_congr ?_ rfl rfl
  rw [Bool.not_eq_true', hblk]

/-- The results that land when handler lanes leave change registers alone (R47, R322). -/
theorem landed_rest (g : Group) (lanes : Word) : ∃ v p s pend, landed g lanes = { g with v := v, p := p, s := s, pend := pend } := by
  unfold landed
  split_ifs
  · obtain ⟨v, p, s, h⟩ := g.landOf_rest lanes
    exact ⟨_, _, _, _, h⟩
  · obtain ⟨v, p, s, h⟩ := g.landAll_rest
    exact ⟨_, _, _, _, h⟩

/-- A group that has left its handler, but for its sets of lanes (R51, R187). -/
theorem leaveHandler_rest (g : Group) (seq : Nat) : ∃ ents deferred parked, g.leaveHandler seq =
    { (landed g g.handlerLanes) with
      lanes := g.lanes.mapIdx (fun l x => if g.handlerLanes.getLsbD l then x.tret else x)
      handler := none, cause := 0, preDone := false
      preTaken := g.preTaken && !((g.handler.map (fun h => h.cause == causePreempt)).getD false && !(g.handler.map (·.pmdone)).getD false)
      fences := g.fences ++ g.heldFences.map (fun f => { f with seq := seq }), heldFences := []
      ents := ents, deferred := deferred, parked := parked } ∧
    ∀ e ∈ ents, ∃ e0 ∈ g.ents, e0.idx = e.idx ∧ e.stopped = (e0.stopped && (g.handler.map (·.cause)) != some causePreempt) := by
  set r := landed g g.handlerLanes with hr
  obtain ⟨v, p, s, pend, hr'⟩ : ∃ v p s pend, r = { g with v := v, p := p, s := s, pend := pend } := landed_rest g g.handlerLanes
  set x := ((r.modLanes g.handlerLanes (fun _ l => l.tret)).endHandler seq).prune with hx
  obtain ⟨ents, hwhole, hents, -⟩ := x.whole_rest
  refine ⟨ents, x.deferred, x.parked, hwhole.trans ?_, fun e he => ?_⟩
  · rw [hx]
    unfold Group.prune Group.endHandler Group.modLanes
    rw [hr']
  · obtain ⟨e1, he1, hi1, hs1⟩ := hents e he
    obtain ⟨e2, he2, hi2, hs2⟩ := Group.prune_ents _ he1
    obtain ⟨e3, he3, hi3, hs3⟩ := Group.endHandler_ents _ seq he2
    rw [hr'] at he3 hs3
    exact ⟨e3, he3, hi3.trans (hi2.trans hi1), hs1.trans (hs2.trans hs3)⟩

theorem leaveHandler_retired (g : Group) (seq : Nat) : (g.leaveHandler seq).retired = g.retired := by
  obtain ⟨_, _, _, h, -⟩ := leaveHandler_rest g seq
  obtain ⟨v, p, s, pend, hland⟩ := landed_rest g g.handlerLanes
  rw [h, hland]

theorem getLsbD_foldl_lanes (l : List Ent) (m : Word) (i : Nat) :
    (l.foldl (fun m e => m ||| e.lanes) m).getLsbD i = (m.getLsbD i || l.any (fun e => e.lanes.getLsbD i)) := by
  induction l generalizing m with
  | nil => simp
  | cons e l ih => rw [List.foldl_cons, ih, BitVec.getLsbD_or, List.any_cons, Bool.or_assoc]

/-- A lane of an entity is a live lane of its group. -/
theorem Group.liveMask_of_ent {g : Group} {e : Ent} {i : Nat} (he : e ∈ g.ents) (hi : e.lanes.getLsbD i = true) : g.liveMask.getLsbD i = true := by
  have hany : g.ents.any (fun e => e.lanes.getLsbD i) = true := List.any_eq_true.mpr ⟨e, he, hi⟩
  unfold Group.liveMask
  rw [BitVec.getLsbD_or, BitVec.getLsbD_or, getLsbD_foldl_lanes, hany, Bool.or_true, Bool.true_or, Bool.true_or]

/-- A valid lane of an entity stays a live lane of the group when dead lanes leave their sets. -/
theorem Group.liveMask_prune {g : Group} {e : Ent} {i : Nat} (he : e ∈ g.ents) (hi : e.lanes.getLsbD i = true) (hlt : i < g.lanes.length) (hv : (g.lane i).valid = true) :
    g.prune.liveMask.getLsbD i = true := by
  have h64 : i < 64 := BitVec.lt_of_getLsbD hi
  have hlive : (maskOf ((List.range g.lanes.length).filter (fun l => (g.lane l).valid))).getLsbD i = true := by
    rw [getLsbD_maskOf, decide_eq_true_eq]
    exact ⟨h64, List.mem_filter.mpr ⟨List.mem_range.mpr hlt, hv⟩⟩
  have hbit : (e.lanes &&& maskOf ((List.range g.lanes.length).filter (fun l => (g.lane l).valid))).getLsbD i = true := by rw [BitVec.getLsbD_and, hi, hlive]; rfl
  refine Group.liveMask_of_ent (List.mem_filter.mpr ⟨List.mem_map_of_mem he, ?_⟩) hbit
  refine bne_iff_ne.mpr fun h0 => ?_
  dsimp only at h0
  rw [h0] at hbit
  simp at hbit

theorem Group.whole_liveMask (g : Group) : g.whole.liveMask = g.liveMask := by
  have hfold : ∀ (l : List Ent) (m : Word), l.foldl (fun m e => m ||| e.lanes) m = (l.map (·.lanes)).foldl (fun m x => m ||| x) m := fun l m => by rw [List.foldl_map]
  obtain ⟨ents, h, -, hlanes⟩ := g.whole_rest
  rw [h]
  unfold Group.liveMask
  rw [hfold, hfold, hlanes]
  rfl

/-- A lane of the handler that has not exited and stands in a split is live after TRET. -/
theorem leaveHandler_live {g : Group} {seq i : Nat} {e : Ent} (hl : g.handlerLanes.getLsbD i = true) (hlt : i < g.lanes.length)
    (hstay : ¬ ((g.lane i).valid = false ∨ ((g.lane i).marked = true ∧ (g.lane i).blk = 0xFFFF))) (he : e ∈ g.ents) (hi : e.lanes.getLsbD i = true) :
    (g.leaveHandler seq).liveMask ≠ 0 := by
  obtain ⟨v, p, s, pend, hland⟩ := landed_rest g g.handlerLanes
  set y := ((landed g g.handlerLanes).modLanes g.handlerLanes (fun _ l => l.tret)).endHandler seq with hy
  have hlanes : y.lanes = g.lanes.mapIdx (fun l x => if g.handlerLanes.getLsbD l then x.tret else x) := by
    rw [hy, hland]
    rfl
  have hlane : y.lane i = (g.lane i).tret := by
    unfold Group.lane
    rw [hlanes, List.getElem?_mapIdx, List.getElem?_eq_getElem hlt, Option.map_some, Option.getD_some, if_pos hl]
    rfl
  have hv : (y.lane i).valid = true := by
    rw [hlane, Lane.tret_eq, if_neg hstay]
    exact Bool.eq_true_of_not_eq_false fun hv => hstay (Or.inl hv)
  obtain ⟨e', he', heq⟩ := Group.endHandler_lanes ((landed g g.handlerLanes).modLanes g.handlerLanes (fun _ l => l.tret)) seq (e := e) (by rw [hland]; exact he)
  have hlive : y.prune.whole.liveMask.getLsbD i = true := by
    rw [Group.whole_liveMask]
    exact Group.liveMask_prune he' (heq ▸ hi) (by rw [hlanes, List.length_mapIdx]; exact hlt) hv
  intro h0
  have h0' : y.prune.whole.liveMask = 0 := h0
  rw [h0'] at hlive
  simp at hlive

/-! ### TRET -/

/-- The entity of a word that starts stands in the group that the word finds. -/
theorem starts_ent {i : Instr} {s t : State} {c : Ctx} {g : Group} (h : Starts i s t c) (hg : t.group? c.m.crew c.m.grp = some g) :
    g.ent? c.m.ent = some c.ent ∧ ∃ gs, t.crew? c.m.crew = some { c.crew with groups := gs } := by
  obtain ⟨⟨cu, c0, hcur, hctx, rfl, rfl, -⟩, -, -, -⟩ := h
  obtain ⟨hc, hg0, hm, -, he⟩ := State.ctxOf_some hctx
  have hcrew : (State.startOf s cu c0).crew? c0.m.crew = some (c0.crew.modGroup c0.m.grp (fun g => g.land cu.cyc)) := by
    have hmod : (({ s with cur := none } : State).modGroup c0.m.crew c0.m.grp (fun g => g.land cu.cyc)).crew? c0.m.crew =
        some (c0.crew.modGroup c0.m.grp (fun g => g.land cu.cyc)) := by
      rw [State.crew?_modGroup, hm]
      exact (congrArg (Option.map _) hc).trans rfl
    unfold State.startOf
    dsimp only
    split_ifs <;> exact hmod
  simp only [State.view_m, State.view_crew, State.view_ent] at hg ⊢
  refine ⟨?_, _, hcrew⟩
  have hcg : c0.crew.groups[c0.m.grp]? = some c0.g := by rw [State.group?, hc] at hg0; rw [hm]; exact hg0
  rw [State.group?, hcrew] at hg
  have hland : (c0.crew.groups.modify c0.m.grp (fun g => g.land cu.cyc))[c0.m.grp]? = some (c0.g.land cu.cyc) := by rw [List.getElem?_modify_eq, hcg]; rfl
  obtain rfl : c0.g.land cu.cyc = g := Option.some.inj (hland.symm.trans hg)
  obtain ⟨v, p, x, hrest⟩ := c0.g.land_rest cu.cyc
  rw [hrest, hm]
  exact he

section

variable {w : Body} {s t : State} {c : Ctx} {g : Group} (h : Starts (.tret w) s t c) (hact : startAct (.tret w) c ≠ 0) (hg : t.group? c.m.crew c.m.grp = some g)

include h hact

theorem tret_outside (hm : c.m.ent ≠ handlerIdx) : exec (.tret w) s = t.misuse c 0 := by
  show execTret w s = _
  rw [execTret, begin_of_starts h]
  exact (if_neg hact).trans (if_pos hm)

theorem tret_inside (hm : c.m.ent = handlerIdx) :
    exec (.tret w) s = .next (if ((t.tret c.m).group? c.m.crew c.m.grp |>.getD default).retired then (t.tret c.m).settleRdv c.m.crew else t.tret c.m) := by
  show execTret w s = _
  rw [execTret, begin_of_starts h]
  exact (if_neg hact).trans (if_neg (not_not.mpr hm))

include hg

/-- TRET of a group that keeps no live lane: the group retires, and the rendezvous notices it. -/
theorem tret_retires (hm : c.m.ent = handlerIdx) (hlive : (g.leaveHandler t.nextSeq).liveMask = 0) :
    let u := ({ t with nextSeq := t.nextSeq + 1 } : State).modGroup c.m.crew c.m.grp (fun g => g.leaveHandler t.nextSeq)
    exec (.tret w) s = .next ((u.retireNow c.m.crew c.m.grp).settleRdv c.m.crew) := by
  intro u
  have hu : u.group? c.m.crew c.m.grp = some (g.leaveHandler t.nextSeq) := by
    rw [State.group?_modGroup]
    exact (congrArg (Option.map _) hg).trans rfl
  have htret : t.tret c.m = u.retireNow c.m.crew c.m.grp := by
    rw [tret_eq]
    refine if_pos ?_
    rw [hu]
    exact hlive
  obtain ⟨q, hq⟩ := retireNow_group? hu
  rw [tret_inside h hact hm, htret, hq]
  rfl

/-- TRET of a group that keeps a live lane: held traps are delivered, and a PREEMPT that is raised abandons what waits. -/
theorem tret_returns (hm : c.m.ent = handlerIdx) (hlive : (g.leaveHandler t.nextSeq).liveMask ≠ 0) (hret : g.retired = false) :
    let u := ({ t with nextSeq := t.nextSeq + 1 } : State).modGroup c.m.crew c.m.grp (fun g => g.leaveHandler t.nextSeq)
    exec (.tret w) s = .next ((u.deliver c.m.crew c.m.grp).abandonGroup c.m.crew c.m.grp) := by
  intro u
  have hu : u.group? c.m.crew c.m.grp = some (g.leaveHandler t.nextSeq) := by
    rw [State.group?_modGroup]
    exact (congrArg (Option.map _) hg).trans rfl
  have htret : t.tret c.m = (u.deliver c.m.crew c.m.grp).abandonGroup c.m.crew c.m.grp := by
    rw [tret_eq]
    refine if_neg ?_
    rw [hu]
    exact hlive
  have hkeeps : ((u.deliver c.m.crew c.m.grp).abandonGroup c.m.crew c.m.grp).retiredAt c.m.crew c.m.grp = some false := by
    rw [State.abandonGroup_retiredAt, State.deliver_retiredAt, State.retiredAt, hu, Option.map_some, leaveHandler_retired, hret]
  rw [tret_inside h hact hm, htret, retired_of_retiredAt hkeeps]
  rfl

end

/-- A pre-emption stays taken unless its handler returns before PMDONE (R51). -/
theorem stillTaken_iff (o : Option Handler) (b : Bool) :
    (b && !((o.map (fun h => h.cause == causePreempt)).getD false && !(o.map (·.pmdone)).getD false)) = true ↔
      b = true ∧ ¬ ∃ h, o = some h ∧ h.cause = causePreempt ∧ h.pmdone = false := by
  cases o with
  | none => simp
  | some h =>
    rw [Bool.and_eq_true]
    refine and_congr_right fun _ => ?_
    cases hp : h.pmdone <;> simp [hp]

/-- Settles O22: TRET outside a handler, the group that it leaves, and its completion. -/
theorem trapReturnResults : Obligations.TrapReturnResults := by
  unfold Obligations.TrapReturnResults
  intro w s t c h hact
  obtain ⟨g, hg⟩ := starts_group h
  obtain ⟨⟨_, _, _, hview⟩, huid⟩ := starts_view h hg
  obtain ⟨hent, gs, hcrew⟩ := starts_ent h hg
  let u := ({ t with nextSeq := t.nextSeq + 1 } : State).modGroup c.m.crew c.m.grp (fun g => g.leaveHandler t.nextSeq)
  have hu : u.group? c.m.crew c.m.grp = some (g.leaveHandler t.nextSeq) := by
    rw [State.group?_modGroup]
    exact (congrArg (Option.map _) hg).trans rfl
  have hlanes : c.m.ent = handlerIdx → g.handlerLanes = c.ent.lanes := fun hm => by
    rw [Group.handlerLanes, ← hm, hent]
    rfl
  have honly : OnlyGroup { t with nextSeq := u.nextSeq } u c.m.crew c.m.grp := onlyGroup_modGroup ..
  obtain ⟨ents, deferred, parked, hleave, hents⟩ := leaveHandler_rest g t.nextSeq
  obtain ⟨v, p, x, pend, hland⟩ := landed_rest g g.handlerLanes
  refine ⟨tret_outside h hact, fun hm => ⟨u, g, g.leaveHandler t.nextSeq, honly, hg, hu, ?_⟩, fun hm htraps hret hpre ⟨l, hl, hlt, hstay, e, he, hi⟩ => ?_⟩
  · refine ⟨tret_retires h hact hg hm, tret_returns h hact hg hm, ?_⟩
    rw [← hlanes hm, hleave, hland]
    refine ⟨rfl, rfl, rfl, rfl, rfl, rfl, rfl, rfl, rfl, rfl, rfl, rfl, rfl, rfl, rfl, rfl, hents, ?_, rfl, rfl, ?_⟩
    · exact stillTaken_iff g.handler g.preTaken
    · simp only [Lane.tret_eq]
  · have hlive : (g.leaveHandler t.nextSeq).liveMask ≠ 0 := by
      rw [hview] at hlt hstay he
      exact leaveHandler_live ((hlanes hm).symm ▸ hl) hlt hstay he hi
    have hretired : g.retired = false := by rw [hview] at hret; exact hret
    have hquiet : u.deliver c.m.crew c.m.grp = u := deliver_of_no_traps fun x hx => by
      obtain rfl := Option.some.inj (hu.symm.trans hx)
      rw [hleave, hland]
      rw [hview] at htraps
      exact htraps
    have hcalm : u.abandonGroup c.m.crew c.m.grp = u := by
      have hcrew' : u.crew? c.m.crew = some ({ c.crew with groups := gs.modify c.m.grp (fun g => g.leaveHandler t.nextSeq) } : Crew) := by
        refine (State.crew?_modGroup ..).trans ((congrArg (Option.map _) hcrew).trans rfl)
      have hno : u.preempting c.m.crew c.m.grp = false := by
        rw [State.preempting, hcrew', hu]
        dsimp only
        rw [hpre]
        rfl
      rw [State.abandonGroup, hno]
      rfl
    refine ⟨u, g, g.leaveHandler t.nextSeq, ?_, honly, hg, hu, ?_⟩
    · rw [tret_returns h hact hg hm hlive hretired, hquiet, hcalm]
    · have hlane : ∀ l, c.ent.lanes.getLsbD l = true → l < g.lanes.length → ((g.leaveHandler t.nextSeq).lane l) = (g.lane l).tret := fun l hl hlt => by
        rw [hleave, Group.lane, List.getElem?_mapIdx, List.getElem?_eq_getElem hlt, Option.map_some, Option.getD_some, hlanes hm, if_pos hl, Group.lane,
          List.getElem?_eq_getElem hlt]
        rfl
      refine ⟨by rw [hleave], by rw [hleave], (leaveHandler_retired ..).trans hretired, fun l hl hlt hstay => ?_, ?_⟩
      · rw [hlane l hl hlt, Lane.tret_eq, if_neg hstay]
        exact ⟨rfl, rfl, rfl, rfl, rfl⟩
      · rw [← hlanes hm, hleave, hland]
        exact ⟨rfl, rfl, rfl, rfl, rfl, rfl, fun _ _ => rfl⟩

end Sys2Proof.Machine
end


section
/-!
PROOFS. MWAIT ends every other MWAIT of its group once only where no two entities have one index (R122).
-/

namespace Sys2Proof.Machine

open Sys2Proof.Claims

/-! ### A handler that carries the index of a split

The group is split in two, its wake latch is set, and split 1 waits in the first of two MWAIT words. Its handler waits in MWAIT too, and its entity has index 1. The latch
thus ends the MWAIT of entity 1 twice, and split 1 leaves its second word as well, which has not begun. -/

/-- MWAIT into an S register, with a timeout in S1. -/
def waitInto (r : BitVec 6) : Body := ⟨⟨7, false, 0, 0, false, false⟩, 0, .s r, .s 1, .v 0, .r ⟨.v 0, 0, 0, 0, 0, false, false, 0⟩⟩

/-- The code word of that MWAIT. -/
def waitCode (r : BitVec 6) : BitVec 96 := (encode (.mwait (waitInto r))).getD 0

/-- The handler's entity and split 1, as they wait. -/
def waitingTwin (e : Ent) : Ent := { e with idx := 1, lanes := 0xFFFFFFFF00000000, wait := some (.mwait 0 5), code := [waitCode 6, waitCode 6] }

/-- The group in which split 1 and the handler share their index. -/
def twinGroup (g : Group) : Group :=
  { g with
    monitors := [⟨0, 0, 0, none⟩]
    latch := some ⟨some 0, none, false⟩
    ents := g.ents.map (fun e => { e with lanes := 0xFFFFFFFF }) ++ g.ents.map waitingTwin
    handler := g.ents.head?.map (fun e => ⟨0x18, none, waitingTwin e, false, false⟩) }

/-- Split 0 of that group issues its MWAIT. -/
def twinState : State :=
  { (State.reset.withFetchWord 96 (waitCode 5).toNat).modGroup 0 0 twinGroup with issue := [], cur := some ⟨⟨0, 0, 0⟩, 0, 0, 0⟩ }

/-- What the issuing split is. -/
def twinIssuer : Ctx := (twinState.ctxOf ⟨0, 0, 0⟩ 0 7).getD default

/-- What its word sees. -/
def twinView : Ctx := twinState.view twinIssuer (.mwait (waitInto 5))

/-- Split 1, as its word sees it. -/
def twinSplit : Ent := (twinView.g.ents[1]?).getD default

/-- Where an entity stands after a step. -/
def posAfter (i : Instr) (s : State) (m : Member) : Option Nat :=
  match exec i s with
  | .next u => (u.ent? m).map (·.pos)
  | _ => none

theorem posAfter_next {i : Instr} {s u : State} {m : Member} (h : exec i s = .next u) : posAfter i s m = (u.ent? m).map (·.pos) := by rw [posAfter, h]

theorem twin_issuer : twinState.ctxOf ⟨0, 0, 0⟩ 0 7 = some twinIssuer :=
  have hs : (twinState.ctxOf ⟨0, 0, 0⟩ 0 7).isSome = true := by decide +kernel
  have ⟨_, hc⟩ := Option.isSome_iff_exists.mp hs
  hc.trans (congrArg some (congrArg (Option.getD · default) hc).symm)

/-- The crew is unchecked, and nothing keeps the word from its start. -/
theorem twin_free : twinView.crew.check = false ∧ twinView.preMisuse (.mwait (waitInto 5)) (startAct (.mwait (waitInto 5)) twinView) = none ∧
    unheld twinView.g (instrUses (.mwait (waitInto 5))).vregs = none ∧ ({ twinState with cur := none } : State).heldBy twinView (.mwait (waitInto 5)) = false := by decide +kernel

theorem twin_starts : Starts (.mwait (waitInto 5)) twinState (State.startOf twinState ⟨⟨0, 0, 0⟩, 0, 0, 0⟩ twinIssuer) twinView :=
  have ⟨hcheck, hlegal, hblocks, hfree⟩ := twin_free
  ⟨⟨_, _, rfl, twin_issuer, rfl, rfl, .inl hcheck⟩, hlegal, .inr hblocks, hfree⟩

/-- The word has active lanes, a line is armed and the latch is set. -/
theorem twin_latched : startAct (.mwait (waitInto 5)) twinView ≠ 0 ∧ twinView.g.monitors ≠ [] ∧ twinView.g.latch = some ⟨some 0, none, false⟩ ∧
    (twinView.g.ents.map (·.idx)).Nodup ∧ (∀ e ∈ twinView.g.ents, e.idx ≠ handlerIdx) := by decide +kernel

/-- Split 1 waits in the first of its two MWAIT words. -/
theorem twin_split : twinSplit ∈ twinView.g.ents ∧ twinSplit.idx ≠ twinView.m.ent ∧ twinSplit.wait = some (.mwait 0 5) ∧ twinSplit.pos = 0 ∧
    (twinSplit.code[twinSplit.pos]?).map decode = some (.ok (.mwait (waitInto 6))) ∧ (⟨twinView.m.crew, twinView.m.grp, twinSplit.idx⟩ : Member) = ⟨0, 0, 1⟩ := by decide +kernel

/-- After the word it stands past both. -/
theorem twin_posAfter : posAfter (.mwait (waitInto 5)) twinState ⟨0, 0, 1⟩ = some 2 := by decide +kernel

/-- Refutes O34: the latch is to end each pending MWAIT once, but in `twinState` the handler has the index of split 1, so that split 1 leaves its next MWAIT too. The clause
asks for distinct indices among the splits only. -/
theorem not_waitWordResults : ¬ Obligations.WaitWordResults := by
  unfold Obligations.WaitWordResults
  intro h
  obtain ⟨hact, harmed, hlatch, hnodup, hsplits⟩ := twin_latched
  obtain ⟨hmem, hother, hwait, hpos, hword, hat⟩ := twin_split
  obtain ⟨-, -, hends, -⟩ := (h (waitInto 5) _ _ _).1 twin_starts hact
  obtain ⟨u, hu, hall⟩ := hends _ harmed hlatch hnodup hsplits
  obtain ⟨e', he', -, hpos'⟩ := hall _ hmem hother (by simp only [hwait]) ⟨_, hword⟩
  have htwo : some e'.pos = some 2 := by
    calc some e'.pos = (u.ent? ⟨0, 0, 1⟩).map (·.pos) := by rw [← hat, he']; rfl
      _ = posAfter (.mwait (waitInto 5)) twinState ⟨0, 0, 1⟩ := (posAfter_next hu).symm
      _ = some 2 := twin_posAfter
  rw [hpos', hpos] at htwo
  exact absurd htwo (by decide)

end Sys2Proof.Machine
end


section
/-!
PROOFS. What a block descriptor reads as, and that it kills no domain, whatever the groups hold beside their memory words (R84, R315, R354 to R356).
-/

namespace Sys2Proof.Machine

open Sys2Proof.Claims

/-! ### Machines that differ in what a translation does not read

A translation reads of the crews their places and widths (R355) and, for what has drained and what was sent back, the memory words of their groups (R73, R86). -/

/-- A group with its memory words alone. -/
def Group.words (g : Group) : Group := { (default : Group) with mws := g.mws }

/-- A crew with the memory words of its groups alone. -/
def Crew.words (c : Crew) : Crew := { c with groups := c.groups.map Group.words }

/-- Two machines that are the same but for records, kills that are due, which are those given in the second, and what the groups hold beside their memory words. -/
structure Twin (ks : List KillReq) (s t : State) : Prop where
  rest : t = { s with crews := t.crews, faq := t.faq, kills := ks }
  words : t.crews.map Crew.words = s.crews.map Crew.words

variable {ks : List KillReq} {s t : State}

theorem words_of_asleep {l l' : List Crew} (h : l.map Crew.asleep = l'.map Crew.asleep) : l.map Crew.words = l'.map Crew.words := by
  have hcrew : ∀ c : Crew, c.words = c.asleep.words := fun c => by
    show Crew.words c = { c with groups := (c.groups.map Group.asleep).map Group.words }
    rw [List.map_map]
    rfl
  have hfactor : ∀ l : List Crew, l.map Crew.words = (l.map Crew.asleep).map Crew.words := fun l => by
    rw [List.map_map]
    exact List.map_congr_left fun c _ => hcrew c
  rw [hfactor, h, ← hfactor]

theorem words_of_seats (h : t.seats = s.seats) : t.crews.map Crew.words = s.crews.map Crew.words := words_of_asleep (congrArg Prod.fst h)

theorem Twin.refl (s : State) : Twin s.kills s s := ⟨rfl, rfl⟩

/-- Each of two machines that a translation cannot tell apart is changed by what leaves the seats alone, and what it does to the rest is the same. -/
theorem Twin.step (h : Twin ks s t) {s' t' : State} (hs : s'.seats = s.seats) (ht : t'.seats = t.seats)
    (hrest : t' = { s' with crews := t'.crews, faq := t'.faq, kills := ks }) : Twin ks s' t' :=
  ⟨hrest, (words_of_seats ht).trans (h.words.trans (words_of_seats hs).symm)⟩

/-- A step on the other fields. -/
theorem Twin.map (h : Twin ks s t) (f : State → State) (hseats : ∀ s, (f s).seats = s.seats)
    (hf : f { s with crews := t.crews, faq := t.faq, kills := ks } =
      { f s with crews := (f { s with crews := t.crews, faq := t.faq, kills := ks }).crews, faq := (f { s with crews := t.crews, faq := t.faq, kills := ks }).faq, kills := ks }) :
    Twin ks (f s) (f t) :=
  h.step (hseats s) (hseats t) (by rw [h.rest]; exact hf)

/-- A value that is read of the other fields. -/
theorem Twin.read {α : Type} (h : Twin ks s t) (f : State → α) (hf : f { s with crews := t.crews, faq := t.faq, kills := ks } = f s) : f t = f s := by
  rw [h.rest]; exact hf

theorem Twin.foldl {α : Type} (f : State → α → State) (hf : ∀ s t a, Twin ks s t → Twin ks (f s a) (f t a)) (l : List α) {s t : State} (h : Twin ks s t) :
    Twin ks (l.foldl f s) (l.foldl f t) := by
  induction l generalizing s t with
  | nil => exact h
  | cons a l ih => exact ih (hf s t a h)

theorem Twin.ite {p : Prop} [Decidable p] {s' t' : State} (h : Twin ks s t) (h' : Twin ks s' t') : Twin ks (if p then s else s') (if p then t else t') := by
  split_ifs
  · exact h
  · exact h'

/-! ### Memory -/

theorem group?_words (l : List Crew) (u j : Nat) : (((l.find? (fun c => c.uid == u)).bind (fun c => c.groups[j]?)).map (·.mws)) =
    ((((l.map Crew.words).find? (fun c => c.uid == u)).bind (fun c => c.groups[j]?)).map (·.mws)) := by
  rw [List.find?_map]
  show _ = (((l.find? (fun c => c.uid == u)).map Crew.words).bind _).map _
  cases l.find? (fun c => c.uid == u) with
  | none => rfl
  | some c =>
    show (c.groups[j]?).map _ = ((c.groups.map Group.words)[j]?).map _
    rw [List.getElem?_map, Option.map_map]
    rfl

theorem Twin.toDrain (h : Twin ks s t) : t.toDrain = s.toDrain := by
  funext x
  cases x with
  | store id => rfl
  | group u j po =>
    have hm : ∀ s : State, s.toDrain (.group u j po) = (((((s.crews.find? (fun c => c.uid == u)).bind (fun c => c.groups[j]?)).map (·.mws)).map
        (fun l => l.any (fun m => decide (m.seq < po) && m.storesLeft))).getD false) := fun s => by rw [Option.map_map]; rfl
    rw [hm, hm, group?_words, h.words, ← group?_words]

theorem Twin.settleMem (h : Twin ks s t) : Twin ks s.settleMem t.settleMem := by
  have hseats : ∀ s : State, s.settleMem.seats = s.seats := fun s => by unfold State.settleMem; split_ifs <;> rfl
  refine h.step (hseats s) (hseats t) ?_
  have huns : t.unsettled = s.unsettled := by unfold State.unsettled; rw [h.toDrain]
  unfold State.settleMem
  rw [h.read State.engineReads rfl, huns, h.read State.mem rfl, h.read State.drained rfl]
  split_ifs
  · exact h.rest
  · conv_lhs => rw [h.rest]

theorem Twin.append (h : Twin ks s t) (w : Agent) (po level : Nat) (cells : List (Nat × Byte)) (rels : List (Nat × List Seen)) :
    Twin ks (s.append w po level cells rels) (t.append w po level cells rels) := by
  unfold State.append
  refine Twin.ite h (Twin.settleMem ?_)
  exact h.map (fun s => { s with drained := s.drained ++ [⟨s.nextSeq, w, po, level, cells, rels⟩], nextSeq := s.nextSeq + 1 }) (fun _ => rfl) rfl

theorem Twin.wake (h : Twin ks s t) (keys : List Nat) : Twin ks (s.wake keys) (t.wake keys) := by
  have hrest : ∀ s : State, s.wake keys = { s with crews := (s.wake keys).crews } := fun s => by unfold State.wake; split_ifs <;> rfl
  refine h.step (State.wake_seats ..) (State.wake_seats ..) ?_
  rw [hrest s, hrest t]
  conv_lhs => rw [h.rest]
  rw [h.rest]

theorem Twin.storeAll (h : Twin ks s t) (k : Nat) (bytes : List Byte) : Twin ks (s.storeAll k bytes) (t.storeAll k bytes) := Twin.wake (h.append ..) _

theorem Twin.latestKey (h : Twin ks s t) (k : Nat) : t.latestKey k = s.latestKey k := h.read (·.latestKey k) rfl

theorem Twin.readNum (h : Twin ks s t) (k n : Nat) : t.readNum .device (.mem k) n = s.readNum .device (.mem k) n := h.read (·.readNum .device (.mem k) n) rfl

theorem Twin.readPte (h : Twin ks s t) : t.readPte = s.readPte := by
  funext k
  exact congrArg (BitVec.ofNat 64) (h.readNum k 8)

theorem Twin.returnedAt (h : Twin ks s t) : t.returnedAt = s.returnedAt := by
  funext p n
  have hw : ∀ s : State, s.returnedAt p n = (s.crews.map Crew.words).any (fun c => c.groups.any (fun g => g.mws.any (fun m => m.accs.any (fun b =>
      b.back && !b.done && (b.place.map (fun q => q.overlap b.size p n)).getD false)))) := fun s => by
    rw [List.any_map]
    refine congrArg (List.any s.crews) (funext fun c => ?_)
    show _ = (c.groups.map Group.words).any _
    rw [List.any_map]
    rfl
  rw [hw, hw, h.words]

theorem Twin.lineStops (h : Twin ks s t) : t.lineStops = s.lineStops := by
  funext l pa n
  unfold State.lineStops
  rw [h.returnedAt, h.read State.lineHeld rfl]

/-! ### Reports -/

theorem Twin.addEntry (h : Twin ks s t) (e : ErrAt) : Twin ks (s.addEntry e) (t.addEntry e) := by
  refine h.step (State.addEntry_seats ..) (State.addEntry_seats ..) ?_
  rw [h.rest]
  unfold State.addEntry
  dsimp only
  cases e.unc <;> rfl

theorem Twin.logError (h : Twin ks s t) (e : ErrAt) : Twin ks (s.logError e) (t.logError e) := by
  have hcount : Twin ks (if e.unc then s else s.countCorrected) (if e.unc then t else t.countCorrected) := Twin.ite h (h.map State.countCorrected (fun _ => rfl) rfl)
  have hstack : ∀ (p : Prop) [Decidable p] (s t : State) (k : Nat) (f : Stack → Stack), Twin ks s t → Twin ks (if p then s.modStack k f else s) (if p then t.modStack k f else t) :=
    fun _ _ _ _ k f h => Twin.ite (h.map (fun s => s.modStack k f) (fun _ => rfl) rfl) h
  have hall := hstack (!e.unc ∧ e.unit.toNat ≤ 1) _ _ e.place.toNat (fun x => { x with corr := if x.corr = BitVec.allOnes 32 then x.corr else x.corr + 1 }) hcount
  unfold State.logError
  dsimp only
  rw [hall.read (·.underTest e) rfl]
  exact Twin.ite hall (hall.addEntry e)

theorem Twin.noteMarks (h : Twin ks s t) (uid gi acc : Nat) (keys : List Nat) : Twin ks (s.noteMarks uid gi acc keys) (t.noteMarks uid gi acc keys) := by
  unfold State.noteMarks
  rw [h.read State.poisoned rfl]
  refine Twin.foldl _ (fun s t k h => ?_) _ h
  have hlog : Twin ks (s.logLine k) (t.logLine k) := by
    unfold State.logLine
    rw [h.read (·.lineErr k) rfl]
    split
    · exact h.logError _
    · exact h
  refine hlog.step rfl rfl ?_
  conv_lhs => unfold State.noteMark State.reportPhys; rw [hlog.rest]
  rfl

/-! ### Walks -/

/-- The walk reads the run of entries of a table of level 0 (R353). -/
theorem State.walkFrom_zero (s : State) (part die va : Nat) (useCache contigFirst : Bool) (mk : Nat → Nat → BitVec 64 → Nat → Nat → TlbE)
    (tbl : PLoc) (base : Nat) (path : List WalkE) :
    s.walkFrom part die va useCache contigFirst mk 0 tbl base path =
      if (if useCache then s.walks.find? (fun w => w.die == die && w.part == part && w.vbase == va / levelSize 0 * levelSize 0 && w.level == 0) else none).isNone &&
          s.lineStops tbl ((base + 8 * (va / levelSize 0 % 512)) / 128 * 128) 128 then .wait
      else match s.walkRun tbl base va contigFirst mk with
        | .ok t => .ok t path
        | .error f => .fault f := rfl

/-- The walk reads one entry of a table of a higher level (R351). -/
theorem State.walkFrom_succ (s : State) (part die va : Nat) (useCache contigFirst : Bool) (mk : Nat → Nat → BitVec 64 → Nat → Nat → TlbE)
    (n : Nat) (tbl : PLoc) (base : Nat) (path : List WalkE) :
    s.walkFrom part die va useCache contigFirst mk (n + 1) tbl base path =
      let vb := va / levelSize (n + 1) * levelSize (n + 1)
      let pa := base + 8 * (va / levelSize (n + 1) % 512)
      let hit := if useCache then s.walks.find? (fun w => w.die == die && w.part == part && w.vbase == vb && w.level == n + 1) else none
      let e := (hit.map (·.pte)).getD (s.readPte (plocKey tbl pa))
      if hit.isNone && s.lineStops tbl pa 8 then .wait
      else if !e.getLsbD 0 then .fault 1
      else if s.malformed (n + 1) e then .fault 4
      else if e.getLsbD 1 then .ok (mk vb (levelSize (n + 1)) e (ptePA e) (plocKey tbl pa)) path
      else s.walkFrom part die va useCache contigFirst mk n (ptePLoc e) (ptePA e) (⟨die, part, vb, n + 1, e⟩ :: path) := rfl


theorem Twin.walkFrom (h : Twin ks s t) (part die va : Nat) (useCache contigFirst : Bool) (mk : Nat → Nat → BitVec 64 → Nat → Nat → TlbE) (level : Nat) :
    t.walkFrom part die va useCache contigFirst mk level = s.walkFrom part die va useCache contigFirst mk level := by
  have hmal : t.malformed = s.malformed := h.read State.malformed rfl
  have hrun : t.walkRun = s.walkRun := h.read State.walkRun rfl
  have hwalks : t.walks = s.walks := h.read State.walks rfl
  induction level with
  | zero =>
    funext tbl base path
    rw [State.walkFrom_zero, State.walkFrom_zero, h.lineStops, hrun, hwalks]
  | succ n ih =>
    funext tbl base path
    rw [State.walkFrom_succ, State.walkFrom_succ, h.lineStops, hmal, hwalks, h.readPte, ih]

theorem Twin.walk (h : Twin ks s t) : t.walk = s.walk := by
  funext part die unit crew va useCache contigFirst
  unfold State.walk
  rw [h.read (·.dev) rfl, h.read State.aboveCap rfl]
  simp only [h.walkFrom]

theorem Twin.walkReads (h : Twin ks s t) : t.walkReads = s.walkReads := by
  have hfrom : ∀ part die va useCache level tbl base, t.readsFrom part die va useCache level tbl base = s.readsFrom part die va useCache level tbl base := by
    intro part die va useCache level
    induction level with
    | zero =>
      intro tbl base
      unfold State.readsFrom
      rfl
    | succ n ih =>
      intro tbl base
      unfold State.readsFrom
      rw [h.read State.malformed rfl, h.read State.walks rfl, h.readPte]
      simp only [ih]
  funext part die va useCache
  unfold State.walkReads
  rw [h.read (·.dev) rfl, h.read State.aboveCap rfl]
  simp only [hfrom]

/-! ### Entries of the TLBs -/

theorem Twin.orLeaf (h : Twin ks s t) (k : Nat) (a d : Bool) : Twin ks (s.orLeaf k a d) (t.orLeaf k a d) := by
  unfold State.orLeaf
  dsimp only
  rw [h.latestKey]
  exact Twin.ite h (h.storeAll ..)

theorem Twin.flushAll (h : Twin ks s t) (l : List TlbE) : Twin ks (s.flushAll l) (t.flushAll l) := by
  refine Twin.foldl _ (fun s t e h => ?_) l h
  unfold State.flushEntry
  rw [h.read State.walkerMode rfl, h.read State.keyHeld rfl]
  exact Twin.ite h (Twin.ite (h.map (fun s => { s with owed := s.owed ++ [e] }) (fun _ => rfl) rfl) (h.orLeaf ..))

theorem insertBy_map {α β : Type} (f : α → β) {le : α → α → Bool} {le' : β → β → Bool} (hle : ∀ a b, le' (f a) (f b) = le a b) (x : α) (l : List α) :
    (insertBy le x l).map f = insertBy le' (f x) (l.map f) := by
  induction l with
  | nil => rfl
  | cons a l ih =>
    simp only [insertBy, List.map_cons, hle]
    split_ifs
    · rw [List.map_cons, ih]
    · rfl

theorem sortBy_map {α β : Type} (f : α → β) {le : α → α → Bool} {le' : β → β → Bool} (hle : ∀ a b, le' (f a) (f b) = le a b) (l : List α) :
    (sortBy le l).map f = sortBy le' (l.map f) := by
  have hfold : ∀ acc : List α, (l.foldl (fun acc x => insertBy le x acc) acc).map f = (l.map f).foldl (fun acc x => insertBy le' x acc) (acc.map f) := by
    induction l with
    | nil => exact fun _ => rfl
    | cons a l ih => exact fun acc => (ih _).trans (congrArg (List.foldl _ · _) (insertBy_map f hle a acc))
  exact hfold []

theorem Twin.setsOf (h : Twin ks s t) : t.setsOf = s.setsOf := by
  have hres : ∀ (s : State) core, (s.residents core).map Crew.words =
      sortBy (fun a b => decide (a.order ≤ b.order)) ((s.crews.map Crew.words).filter (fun c => c.core == core && c.phase == .resident)) := fun s core => by
    unfold State.residents
    rw [sortBy_map (le := fun a b : Crew => decide (a.order ≤ b.order)) Crew.words (le' := fun a b => decide (a.order ≤ b.order)) (fun _ _ => rfl), List.filter_map]
    rfl
  have hws : ∀ (s : State) core, (s.residents core).map (fun c => (c.uid, weightOf c.groups.length (s.crewRegs c) c.width)) =
      ((s.residents core).map Crew.words).map (fun c => (c.uid, weightOf c.groups.length (s.crewRegs c) c.width)) := fun s core => by
    rw [List.map_map]
    refine List.map_congr_left fun c _ => ?_
    show (c.uid, weightOf c.groups.length _ c.width) = (c.uid, weightOf (c.groups.map Group.words).length _ c.width)
    rw [List.length_map]
    rfl
  funext core crew
  unfold State.setsOf
  rw [hws, hws, hres, hres, h.words, h.read State.crewRegs rfl]

theorem Twin.fill1 (h : Twin ks s t) (e : TlbE) : Twin ks (s.fill1 e) (t.fill1 e) := by
  have hadd : Twin ks { s with tlb1 := s.tlb1 ++ [e] } { t with tlb1 := t.tlb1 ++ [e] } := h.map (fun s => { s with tlb1 := s.tlb1 ++ [e] }) (fun _ => rfl) rfl
  unfold State.fill1 State.trimTlb1
  rw [h.setsOf, hadd.read State.tlb1Of rfl]
  dsimp only
  generalize overflow _ _ = o
  exact (hadd.flushAll o.1).map (fun s => { s with tlb1 := s.tlb1.filter (fun x => !(x.unit == e.unit && x.crew == e.crew) || o.2.contains x) }) (fun _ => rfl) rfl

theorem Twin.fill2 (h : Twin ks s t) (e : TlbE) : Twin ks (s.fill2 e) (t.fill2 e) := by
  have hkeep : ∀ l : List TlbE, Twin ks { s.flushAll l with tlb2 := ((s.flushAll l).tlb2 ++ [e]).filter (fun x => !(l.contains x)) }
      { t.flushAll l with tlb2 := ((t.flushAll l).tlb2 ++ [e]).filter (fun x => !(l.contains x)) } := fun l =>
    (h.flushAll l).map (fun s => { s with tlb2 := (s.tlb2 ++ [e]).filter (fun x => !(l.contains x)) }) (fun _ => rfl) rfl
  unfold State.fill2
  rw [h.read (·.tlb2) rfl]
  exact hkeep _

theorem Twin.noteSpan (h : Twin ks s t) (e : TlbE) : Twin ks (s.noteSpan e) (t.noteSpan e) := by
  unfold State.noteSpan
  rw [h.read (·.spans) rfl]
  exact Twin.ite h (h.step (s' := { s with spans := s.spans ++ [(e.part, e.vbase, e.size)] }) rfl rfl (by rw [h.rest]))

theorem Twin.markLost (h : Twin ks s t) (m : Nat) : Twin ks (s.markLost m) (t.markLost m) := by
  unfold State.markLost
  rw [h.read (·.dev) rfl]
  exact Twin.ite h (h.step rfl rfl (by rw [h.rest]))

theorem Twin.dropModule (h : Twin ks s t) (m : Nat) : Twin ks (s.dropModule m) (t.dropModule m) := by
  unfold State.dropModule
  rw [h.read (·.tlb1) rfl, h.read (·.tlb2) rfl]
  generalize hn : (fun e : TlbE => match ptePLoc e.pte with
    | .remote x => x.toNat == m
    | _ => false) = names
  exact (h.flushAll _).map (fun s => { s with tlb1 := s.tlb1.filter (fun e => !names e), tlb2 := s.tlb2.filter (fun e => !names e) }) (fun _ => rfl) rfl

/-! ### Translations -/

/-- Two outcomes that agree, in machines that a translation cannot tell apart. -/
def TwinOut (ks : List KillReq) (a b : State × Xl) : Prop := Twin ks a.1 b.1 ∧ b.2 = a.2

theorem Twin.out (h : Twin ks s t) (x : Xl) : TwinOut ks (s, x) (t, x) := ⟨h, rfl⟩

theorem TwinOut.ite {p : Prop} [Decidable p] {a b a' b' : State × Xl} (h : TwinOut ks a b) (h' : TwinOut ks a' b') : TwinOut ks (if p then a else a') (if p then b else b') := by
  split_ifs
  · exact h
  · exact h'

theorem Twin.useEntry (h : Twin ks s t) (q : XReq) (va : Nat) (e : TlbE) : TwinOut ks (s.useEntry q va e) (t.useEntry q va e) := by
  have huse : Twin ks (s.noteUse q va) (t.noteUse q va) := h.map (fun s => s.noteUse q va) (fun _ => rfl) rfl
  unfold State.useEntry
  refine TwinOut.ite (h.out _) (TwinOut.ite (h.out _) ?_)
  dsimp only
  rw [h.read State.findsLost rfl]
  split
  · exact TwinOut.ite (((h.markLost _).dropModule _).out _) (huse.out _)
  · exact huse.out _

theorem Twin.walkFill (h : Twin ks s t) (q : XReq) (va : Nat) (useCache contigFirst : Bool) :
    TwinOut ks (s.walkFill q va useCache contigFirst) (t.walkFill q va useCache contigFirst) := by
  unfold State.walkFill
  rw [h.walk, h.walkReads]
  have hn := h.noteMarks q.crew q.grp 6 (s.walkReads q.part (dieOf q.core) va useCache)
  dsimp only
  split
  · exact hn.out _
  · exact h.out _
  next e path _ =>
    rw [hn.read State.walkerMode rfl]
    refine TwinOut.ite (hn.out _) (TwinOut.ite (hn.out _) (Twin.useEntry ?_ ..))
    generalize State.walkerMode _ _ = wm
    have hleaf := Twin.ite (p := wm = true) (hn.orLeaf e.leaf true q.write) hn
    have hwalks := (hleaf.noteSpan e).map (fun s => s.fillWalks (dieOf q.core) path) (fun _ => rfl) rfl
    exact Twin.ite (hwalks.fill2 _) ((hwalks.fill2 _).fill1 _)

theorem Twin.writeThrough (h : Twin ks s t) (q : XReq) (va : Nat) (e : TlbE) (contigFirst : Bool) :
    TwinOut ks (s.writeThrough q va e contigFirst) (t.writeThrough q va e contigFirst) := by
  unfold State.writeThrough
  rw [h.read State.walkerMode rfl, h.read State.keyHeld rfl, h.returnedAt, h.readPte]
  refine TwinOut.ite (TwinOut.ite (h.out _) (TwinOut.ite (Twin.useEntry ?_ ..) (Twin.walkFill ?_ ..))) (h.useEntry ..)
  · let up := fun (x : TlbE) => if x.leaf = e.leaf ∧ x.pte = e.pte ∧ x.covers q.part va then { x with pte := x.pte ||| 0x30, a := true, d := true } else x
    exact (h.orLeaf e.leaf true true).map (fun s => { s with tlb1 := s.tlb1.map up, tlb2 := s.tlb2.map up }) (fun _ => rfl) rfl
  · exact h.map (fun s => { s with tlb1 := s.tlb1.filter (fun x => !(x.covers q.part va)), tlb2 := s.tlb2.filter (fun x => !(x.covers q.part va)) }) (fun _ => rfl) rfl

theorem Twin.translate (h : Twin ks s t) (q : XReq) (va : Nat) (useCache contigFirst : Bool) :
    TwinOut ks (s.translate q va useCache contigFirst) (t.translate q va useCache contigFirst) := by
  unfold State.translate
  refine TwinOut.ite (h.out _) ?_
  rw [h.read (·.tlb1) rfl]
  split
  · exact h.writeThrough ..
  · rw [h.read (·.tlb2) rfl]
    split
    · exact Twin.writeThrough (Twin.ite h (h.fill1 _)) ..
    · exact h.walkFill ..

/-! ### Block descriptors -/

/-- A descriptor reads the same in two machines that a translation cannot tell apart, and for a crew that is the same but for its groups (R315). -/
theorem Twin.desc (h : Twin ks s t) (c : Crew) (b : Nat) : Twin ks (s.desc c b).1 (t.desc c b).1 ∧ (t.desc c b).2 = (s.desc c b).2 := by
  have hread : ∀ im, Twin ks (s.readDesc c im b).1 (t.readDesc c im b).1 ∧ (t.readDesc c im b).2 = (s.readDesc c im b).2 := fun im => by
    obtain ⟨htw, hout⟩ := h.translate ⟨c.core, c.uid, c.part, false, false, 0⟩ (im.base + im.blockOff + 8 * b) true false
    unfold State.readDesc
    dsimp only
    generalize s.translate _ _ _ _ = a at *
    generalize t.translate _ _ _ _ = b' at *
    obtain ⟨s1, x⟩ := a
    obtain ⟨t1, x'⟩ := b'
    subst hout
    cases x' with
    | ok l pa => exact ⟨Twin.noteMarks htw .., congrArg (fun x => descMix _ (BitVec.ofNat 64 x)) (Twin.readNum htw ..)⟩
    | fault k => exact ⟨h, rfl⟩
    | lost m => exact ⟨h, rfl⟩
    | wait => exact ⟨h, rfl⟩
  unfold State.desc
  rw [h.read (·.descs) rfl, h.read State.image? rfl]
  split
  · exact ⟨h, rfl⟩
  · split
    · exact ⟨h, rfl⟩
    next im _ =>
      obtain ⟨htw, hval⟩ := hread im
      dsimp only
      rw [hval]
      generalize (s.readDesc c im b).2 = x
      exact ⟨htw.map (fun s => { s with descs := s.descs ++ [(clusterOf c.core, c.img, b, x)] }) (fun _ => rfl) rfl, rfl⟩

/-- Reading a descriptor kills no domain. -/
@[simp] theorem State.desc_kills (s : State) (c : Crew) (b : Nat) : (s.desc c b).1.kills = s.kills := by
  have h := ((Twin.refl s).desc c b).1.rest
  rw [h]

theorem words_modGroup (l : List Crew) (uid i : Nat) {f : Group → Group} (hf : ∀ g, (f g).mws = g.mws) :
    (l.map (fun c => if c.uid = uid then c.modGroup i f else c)).map Crew.words = l.map Crew.words := by
  rw [List.map_map]
  refine List.map_congr_left fun c _ => ?_
  show Crew.words (if c.uid = uid then c.modGroup i f else c) = c.words
  split_ifs
  · have hgroups : (c.groups.modify i f).map Group.words = c.groups.map Group.words := by
      refine List.ext_getElem? fun j => ?_
      rw [List.getElem?_map, List.getElem?_map, List.getElem?_modify, Option.map_eq_map, Option.map_map]
      refine congrArg (Option.map · _) (funext fun g => ?_)
      show Group.words (if i = j then f g else g) = g.words
      split_ifs
      · exact congrArg (fun m => { (default : Group) with mws := m }) (hf g)
      · rfl
    show { c with groups := (c.groups.modify i f).map Group.words } = { c with groups := c.groups.map Group.words }
    rw [hgroups]
  · rfl

/-- What a group holds beside its memory words is not read. -/
theorem Twin.modGroup (h : Twin ks s t) (uid i : Nat) {f : Group → Group} (hf : ∀ g, (f g).mws = g.mws) : Twin ks s (t.modGroup uid i f) := by
  refine ⟨?_, (words_modGroup t.crews uid i hf).trans h.words⟩
  show ({ t with crews := (t.modGroup uid i f).crews } : State) = _
  conv_lhs => rw [h.rest]
  rfl

end Sys2Proof.Machine
end


section
/-!
PROOFS. What a vote reads and what its lanes take (R31 to R34), the live lanes of a group, and boundaries at which nothing waits (R53, R108).
-/

namespace Sys2Proof.Machine

open Sys2Proof.Claims

/-! ### The next blocks of a vote -/

theorem foldl_fst_keeps {α β γ : Type} (p : State → β) (f : State × γ → α → State × γ) (hf : ∀ r a, p (f r a).1 = p r.1) (l : List α) (r : State × γ) :
    p (l.foldl f r).1 = p r.1 := by
  induction l generalizing r with
  | nil => rfl
  | cons a l ih => exact (ih _).trans (hf r a)

/-- The vote reads descriptors, and what every read of one leaves alone it leaves alone too. -/
theorem nexts_keeps {β : Type} (p : State → β) (hp : ∀ s c b, p (State.desc s c b).1 = p s) (s : State) (c : Crew) (g : Group) (lanes : Word) :
    p (s.nexts c g lanes).1 = p s := by
  have htarget : ∀ (s : State) x, p (s.target c x).1 = p s := fun s x => by
    unfold State.target
    split_ifs
    · rfl
    · exact hp ..
  refine foldl_fst_keeps p _ (fun r l => ?_) _ _
  dsimp only
  split_ifs
  · exact htarget ..
  · exact (hp ..).trans (htarget ..)
  · exact (hp ..).trans (htarget ..)

@[simp] theorem State.nexts_seats (s : State) (c : Crew) (g : Group) (lanes : Word) : (s.nexts c g lanes).1.seats = s.seats := nexts_keeps State.seats State.desc_seats ..

@[simp] theorem State.nexts_kills (s : State) (c : Crew) (g : Group) (lanes : Word) : (s.nexts c g lanes).1.kills = s.kills := nexts_keeps State.kills State.desc_kills ..

/-- The vote names each lane once. -/
theorem nexts_lanes (s : State) (c : Crew) (g : Group) (lanes : Word) : (s.nexts c g lanes).2.map (·.1) = lanesOf lanes := by
  have hfold : ∀ (l : List Nat) (r : State × List (Nat × Nat)), (l.foldl (fun r l =>
      let a := r.1.target c (g.lane l)
      if a.2 = exitBlk then (a.1, r.2 ++ [(l, exitBlk)])
      else
        let d := a.1.desc c a.2
        (d.1, r.2 ++ [(l, if descFwd d.2 then descFwdBlk d.2 else a.2)])) r).2.map (·.1) = r.2.map (·.1) ++ l := by
    intro l
    induction l with
    | nil => exact fun r => (List.append_nil _).symm
    | cons a l ih =>
      intro r
      rw [List.foldl_cons, ih]
      dsimp only
      split_ifs <;> simp
  exact hfold (lanesOf lanes) (s, [])

/-- The lanes of a vote that do not exit. -/
def staying (l : List (Nat × Nat)) : List (Nat × Nat) := l.filter (fun x => x.2 != exitBlk)

theorem mem_insertBy_iff {α : Type} (le : α → α → Bool) (x y : α) (l : List α) : y ∈ insertBy le x l ↔ y = x ∨ y ∈ l := by
  induction l with
  | nil => simp [insertBy]
  | cons a l ih =>
    unfold insertBy
    split_ifs
    · rw [List.mem_cons, ih, List.mem_cons]; tauto
    · rw [List.mem_cons]

theorem mem_sortBy_iff {α : Type} (le : α → α → Bool) (y : α) (l : List α) : y ∈ sortBy le l ↔ y ∈ l := by
  have hfold : ∀ acc : List α, y ∈ l.foldl (fun acc x => insertBy le x acc) acc ↔ y ∈ l ∨ y ∈ acc := by
    induction l with
    | nil => simp
    | cons a l ih =>
      intro acc
      rw [List.foldl_cons, ih, mem_insertBy_iff, List.mem_cons]; tauto
  simpa [sortBy] using hfold []

/-- The vote is the set of the blocks of the lanes that stay (R33). -/
theorem mem_voteOf (l : List (Nat × Nat)) (b : Nat) : b ∈ voteOf l ↔ ∃ x ∈ staying l, x.2 = b := by
  unfold voteOf staying
  rw [mem_sortBy_iff, List.mem_eraseDups, List.mem_filter, List.mem_map]
  constructor
  · rintro ⟨⟨x, hx, rfl⟩, hb⟩
    exact ⟨x, List.mem_filter.mpr ⟨hx, hb⟩, rfl⟩
  · rintro ⟨x, hx, rfl⟩
    exact ⟨⟨x, (List.mem_filter.mp hx).1, rfl⟩, (List.mem_filter.mp hx).2⟩

/-! ### Lanes take their blocks -/

/-- A lane that has taken its next block (R31, R32). -/
def Lane.take (x : Lane) (b : Nat) : Lane :=
  if b = exitBlk then { x with valid := false, blk := 0xFFFF, marked := false, called := false, stack := [], spilled := 0 }
  else { x with blk := BitVec.ofNat 16 b, marked := true, called := false }

/-- The block that a vote gives a lane. -/
def nextOf (l : List (Nat × Nat)) (i : Nat) : Nat := ((l.find? (fun e => e.1 == i)).map (·.2)).getD 0

/-- The lanes of a vote take their blocks in any order. -/
theorem takeBlocks_eq (g : Group) {l : List (Nat × Nat)} (hnd : (l.map (·.1)).Nodup) :
    g.takeBlocks l = { g with lanes := g.lanes.mapIdx (fun i x => if i ∈ l.map (·.1) then x.take (nextOf l i) else x) } := by
  have hl := eq_map_find 0 l hnd
  have hfold : g.takeBlocks l = (l.map (·.1)).foldl (fun g i => g.modLane i (fun x => x.take (nextOf l i))) g := by
    conv_lhs => rw [hl, Group.takeBlocks, List.foldl_map]
    rfl
  rw [hfold, foldl_modLane (fun i x => x.take (nextOf l i)) _ hnd]

theorem Lane.take_valid (x : Lane) (b : Nat) : (x.take b).valid = (decide (b ≠ exitBlk) && x.valid) := by
  unfold Lane.take
  split_ifs with h <;> simp [h]

theorem nextOf_mem {l : List (Nat × Nat)} (hnd : (l.map (·.1)).Nodup) {x : Nat × Nat} (hx : x ∈ l) : nextOf l x.1 = x.2 := by
  have h := eq_map_find 0 l hnd
  rw [h, List.map_map] at hx
  obtain ⟨y, -, rfl⟩ := List.mem_map.mp hx
  rfl

/-- A valid lane lies within the width of its group. -/
theorem lane_lt {g : Group} {i : Nat} (h : (g.lane i).valid = true) : i < g.lanes.length := by
  by_contra hge
  rw [Group.lane, List.getElem?_eq_none (Nat.le_of_not_lt hge)] at h
  cases h

/-- The lanes of a vote that stay. -/
def stayMask (l : List (Nat × Nat)) : Word := maskOf ((staying l).map (·.1))

/-- A group of one entity that keeps lanes, when dead lanes leave their sets. -/
theorem prune_whole {g : Group} {e : Ent} {m : Word} (hents : g.ents = [e]) (hdef : g.deferred = []) (hpark : g.parked = [])
    (hm : e.lanes &&& maskOf ((List.range g.lanes.length).filter (fun i => (g.lane i).valid)) = m) (hne : m ≠ 0) :
    g.prune = { g with ents := [{ e with lanes := m }], deferred := [], parked := [] } := by
  have hkeep : [({ e with lanes := m } : Ent)].filter (fun e => e.lanes != 0) = [{ e with lanes := m }] :=
    List.filter_eq_self.mpr fun x hx => by rw [List.mem_singleton.mp hx]; exact bne_iff_ne.mpr hne
  unfold Group.prune
  simp only [hents, hdef, hpark, List.map_cons, List.map_nil, hm, hkeep, List.filter_nil]

/-- A group of one entity whose lanes have voted: the lanes that stay are the entity's, and each stands before its next block (R31 to R33). -/
theorem takeNexts_whole {g : Group} {e : Ent} {l : List (Nat × Nat)} (hents : g.ents = [e]) (hdef : g.deferred = []) (hpark : g.parked = [])
    (hl : l.map (·.1) = lanesOf e.lanes) (hv : ∀ i, e.lanes.getLsbD i = true → (g.lane i).valid = true) (hstay : stayMask l ≠ 0) :
    ∃ lanes, g.takeNexts l = { g with lanes := lanes, ents := [{ e with lanes := stayMask l }], deferred := [], parked := [] } ∧
      ∀ x ∈ staying l, lanes[x.1]? = some { g.lane x.1 with blk := BitVec.ofNat 16 x.2, marked := true, called := false } := by
  have hnd : (l.map (·.1)).Nodup := hl ▸ lanesOf_nodup _
  let lanes := g.lanes.mapIdx (fun i x => if i ∈ l.map (·.1) then x.take (nextOf l i) else x)
  have htake : g.takeBlocks l = { g with lanes := lanes } := takeBlocks_eq g hnd
  have hlane : ∀ i, e.lanes.getLsbD i = true → lanes[i]? = some ((g.lane i).take (nextOf l i)) := fun i hi => by
    have hlt := lane_lt (hv i hi)
    have hmem : i ∈ l.map (·.1) := hl ▸ (mem_lanesOf _ _).mpr hi
    rw [List.getElem?_mapIdx, List.getElem?_eq_getElem hlt, Option.map_some, if_pos hmem, Group.lane, List.getElem?_eq_getElem hlt]
    rfl
  have hlive : e.lanes &&& maskOf ((List.range lanes.length).filter (fun i => ((lanes[i]?).getD default).valid)) = stayMask l := by
    refine BitVec.eq_of_getLsbD_eq fun i hi => Bool.eq_iff_iff.mpr ?_
    rw [BitVec.getLsbD_and, Bool.and_eq_true, getLsbD_maskOf, stayMask, getLsbD_maskOf, decide_eq_true_eq, decide_eq_true_eq, List.mem_filter, List.mem_map]
    constructor
    · rintro ⟨he, -, -, hval⟩
      rw [hlane i he, Option.getD_some, Lane.take_valid, Bool.and_eq_true, decide_eq_true_eq] at hval
      obtain ⟨x, hx, rfl⟩ := List.mem_map.mp (hl ▸ (mem_lanesOf _ _).mpr he : i ∈ l.map (·.1))
      refine ⟨hi, x, List.mem_filter.mpr ⟨hx, bne_iff_ne.mpr ?_⟩, rfl⟩
      rw [← nextOf_mem hnd hx]
      exact hval.1
    · rintro ⟨-, x, hx, rfl⟩
      obtain ⟨hxl, hne⟩ := List.mem_filter.mp hx
      have he : e.lanes.getLsbD x.1 = true := (mem_lanesOf _ _).mp (hl ▸ List.mem_map_of_mem hxl)
      refine ⟨he, hi, List.mem_range.mpr ?_, ?_⟩
      · have := lane_lt (hv _ he)
        rwa [List.length_mapIdx]
      · rw [hlane _ he, Option.getD_some, Lane.take_valid, hv _ he, nextOf_mem hnd hxl, Bool.and_true, decide_eq_true_eq]
        exact bne_iff_ne.mp hne
  refine ⟨lanes, ?_, fun x hx => ?_⟩
  · rw [Group.takeNexts, htake]
    exact prune_whole hents hdef hpark hlive hstay
  · obtain ⟨hxl, hne⟩ := List.mem_filter.mp hx
    have he : e.lanes.getLsbD x.1 = true := (mem_lanesOf _ _).mp (hl ▸ List.mem_map_of_mem hxl)
    rw [hlane _ he, nextOf_mem hnd hxl, Lane.take, if_neg (bne_iff_ne.mp hne)]

theorem stayMask_ne {l : List (Nat × Nat)} {lanes : Word} (hl : l.map (·.1) = lanesOf lanes) (hn : voteOf l ≠ []) : stayMask l ≠ 0 := by
  obtain ⟨b, hb⟩ := List.exists_mem_of_ne_nil _ hn
  obtain ⟨x, hx, -⟩ := (mem_voteOf l b).mp hb
  have he : lanes.getLsbD x.1 = true := (mem_lanesOf _ _).mp (hl ▸ List.mem_map_of_mem (List.mem_filter.mp hx).1)
  intro h0
  have hbit : (stayMask l).getLsbD x.1 = true := by
    rw [stayMask, getLsbD_maskOf, decide_eq_true_eq]
    exact ⟨BitVec.lt_of_getLsbD he, List.mem_map_of_mem hx⟩
  rw [h0] at hbit
  simp at hbit

end Sys2Proof.Machine
end


section
/-!
PROOFS. The live lanes of a group, which traps, boundaries and service in a split leave alone or add to (R35 to R37, R47), and boundaries at which nothing waits (R53, R108).
-/

namespace Sys2Proof.Machine

open Sys2Proof.Claims

/-! ### Live lanes -/

/-- The live lanes of a group, as far as the group exists. -/
def State.liveAt (s : State) (u j : Nat) : Option Word := (s.group? u j).map Group.liveMask

theorem liveAt_modGroup (s : State) (uid i : Nat) (f : Group → Group) (hf : ∀ g, (f g).liveMask = g.liveMask) : (s.modGroup uid i f).liveAt = s.liveAt := by
  funext u j
  unfold State.liveAt
  rw [State.group?_modGroup_at]
  split_ifs
  · rw [Option.map_map]
    exact congrArg (fun x => Option.map x _) (funext hf)
  · rfl

/-- The live lanes of a group are those of its sets. -/
theorem getLsbD_liveMask (g : Group) (i : Nat) : g.liveMask.getLsbD i =
    (g.ents.any (fun e => e.lanes.getLsbD i) || (lanesIn g.deferred).getLsbD i || (lanesIn g.parked).getLsbD i) := by
  unfold Group.liveMask Group.defMask
  rw [BitVec.getLsbD_or, BitVec.getLsbD_or, getLsbD_foldl_lanes]
  simp

theorem liveMask_of_lanes {g g' : Group} (he : g'.ents.map (·.lanes) = g.ents.map (·.lanes)) (hd : g'.deferred = g.deferred) (hp : g'.parked = g.parked) :
    g'.liveMask = g.liveMask := by
  refine BitVec.eq_of_getLsbD_eq fun i _ => ?_
  have hany : ∀ l : List Ent, l.any (fun e => e.lanes.getLsbD i) = (l.map (·.lanes)).any (fun m => m.getLsbD i) := fun l => by rw [List.any_map]; rfl
  rw [getLsbD_liveMask, getLsbD_liveMask, hany, he, ← hany, hd, hp]

theorem Group.modEnt_liveMask (g : Group) (i : Nat) {f : Ent → Ent} (hf : ∀ e, (f e).lanes = e.lanes) : (g.modEnt i f).liveMask = g.liveMask := by
  unfold Group.modEnt
  split_ifs
  · rfl
  · refine liveMask_of_lanes ?_ rfl rfl
    rw [List.map_map]
    refine List.map_congr_left fun e _ => ?_
    show (if e.idx = i then f e else e).lanes = _
    split_ifs
    · exact hf e
    · rfl

theorem State.fatal_liveAt (s : State) (uid : Nat) (cause : BitVec 8) : (s.fatal uid cause).liveAt = s.liveAt := by
  funext u j
  unfold State.liveAt
  rw [State.fatal_group?]

theorem Group.enterAt_liveMask (g : Group) (i st : Nat) (code : List Code) (w : Option Wait) (seq : Nat) : (g.enterAt i st code w seq).liveMask = g.liveMask :=
  Group.modEnt_liveMask _ _ fun _ => rfl

theorem State.enter_liveAt (s : State) (m : Member) (st : Nat) : (s.enter m st).liveAt = s.liveAt := by
  cases hc : s.crew? m.crew with
  | none => rw [State.enter, hc]
  | some c =>
    obtain ⟨cores, code, w, h⟩ := enter_eq st hc
    rw [h]
    exact liveAt_modGroup _ _ _ _ fun g => Group.enterAt_liveMask ..

theorem Group.inHandler_liveMask (g : Group) (t : Trap) (entry home cyc : Nat) (pre : Bool) : (g.inHandler t entry home cyc pre).liveMask = g.liveMask := by
  have hunmeet : (g.unmeet t).liveMask = g.liveMask := by
    unfold Group.unmeet
    split
    · split_ifs
      · exact Group.modEnt_liveMask _ _ fun _ => rfl
      · rfl
    · rfl
  have hland : (if t.cause = causeBinding then (g.unmeet t).landOf (g.entering t) else g.landAll).liveMask = g.liveMask := by
    split_ifs
    · obtain ⟨v, p, s, h⟩ := (g.unmeet t).landOf_rest (g.entering t)
      rw [h]
      exact hunmeet
    · obtain ⟨v, p, s, h⟩ := g.landAll_rest
      rw [h]
      rfl
  unfold Group.inHandler Group.holdFences
  dsimp only
  split_ifs at * <;> exact hland

theorem State.takeTrap_liveAt (s : State) (uid i : Nat) (t : Trap) : (s.takeTrap uid i t).liveAt = s.liveAt := by
  cases hc : s.crew? uid with
  | none => rw [State.takeTrap, hc]
  | some c =>
    cases he : s.handlerEntry c (handlerKind t.cause) with
    | none =>
      rw [State.takeTrap, hc]
      dsimp only
      rw [he]
      exact State.fatal_liveAt ..
    | some x =>
      obtain ⟨cyc, pre, cores, code, w, h⟩ := takeTrap_eq (i := i) hc he
      rw [h]
      exact liveAt_modGroup _ _ _ _ fun g => (Group.enterAt_liveMask ..).trans (Group.inHandler_liveMask ..)

theorem State.deliver_liveAt (s : State) (uid i : Nat) : (s.deliver uid i).liveAt = s.liveAt := by
  unfold State.deliver
  split
  · rfl
  · split
    · split_ifs
      · exact (State.takeTrap_liveAt ..).trans (liveAt_modGroup _ _ _ _ fun _ => rfl)
      · rfl
    · rfl

theorem State.tryPreempt_liveAt (s : State) (uid i : Nat) : (s.tryPreempt uid i).liveAt = s.liveAt := by
  unfold State.tryPreempt
  split
  · rfl
  · split_ifs
    · exact (State.takeTrap_liveAt ..).trans (liveAt_modGroup _ _ _ _ fun _ => rfl)
    · rfl

theorem State.raise_liveAt (s : State) (m : Member) (cause : BitVec 8) (info : Word) : (s.raise m cause info).liveAt = s.liveAt := by
  unfold State.raise
  split_ifs
  · exact State.fatal_liveAt ..
  · exact (State.deliver_liveAt ..).trans (liveAt_modGroup _ _ _ _ fun _ => rfl)

theorem State.atBoundary_liveAt (s : State) (uid gi : Nat) (voted : List Nat) : (s.atBoundary uid gi voted).liveAt = s.liveAt := by
  have htraps : (if ((s.group? uid gi).getD default).atVote = [] then s else
      (s.modGroup uid gi (fun g => { g with traps := g.traps ++ g.atVote, atVote := [] })).deliver uid gi).liveAt = s.liveAt := by
    split_ifs
    · rfl
    · exact (State.deliver_liveAt ..).trans (liveAt_modGroup _ _ _ _ fun _ => rfl)
  have hstop : ∀ g : Group, ({ g with ents := g.ents.map (fun e => if voted.contains e.idx && !g.trapped e.idx then { e with stopped := true } else e) } : Group).liveMask =
      g.liveMask := fun g => by
    refine liveMask_of_lanes ?_ rfl rfl
    rw [List.map_map]
    refine List.map_congr_left fun e _ => ?_
    show (if (voted.contains e.idx && !g.trapped e.idx) = true then { e with stopped := true } else e : Ent).lanes = _
    split_ifs <;> rfl
  unfold State.atBoundary
  dsimp only
  generalize (if ((s.group? uid gi).getD default).atVote = [] then s else
      (s.modGroup uid gi (fun g => { g with traps := g.traps ++ g.atVote, atVote := [] })).deliver uid gi) = s1 at *
  split_ifs
  · rfl
  · exact (State.tryPreempt_liveAt ..).trans ((State.deliver_liveAt ..).trans ((liveAt_modGroup _ _ _ _ hstop).trans htraps))
  · exact (State.tryPreempt_liveAt ..).trans ((State.deliver_liveAt ..).trans htraps)

theorem CamRun.bind_liveAt (r : CamRun) (uid gi : Nat) : (r.bind uid gi).liveAt = r.s.liveAt :=
  foldl_keeps State.liveAt _ (fun _ _ => State.raise_liveAt ..) _ r.s

/-! ### Sets of lanes -/

theorem getLsbD_lanesIn (l : List (Nat × Word)) (i : Nat) : (lanesIn l).getLsbD i = l.any (fun e => e.2.getLsbD i) := by
  have hfold : ∀ m : Word, (l.foldl (fun m e => m ||| e.2) m).getLsbD i = (m.getLsbD i || l.any (fun e => e.2.getLsbD i)) := by
    induction l with
    | nil => simp
    | cons e l ih => intro m; rw [List.foldl_cons, ih, BitVec.getLsbD_or, List.any_cons, Bool.or_assoc]
  rw [lanesIn, hfold]
  simp

theorem lanesIn_deferTo (l : List (Nat × Word)) (b : Nat) (m : Word) : lanesIn (deferTo l b m) = lanesIn l ||| m := by
  refine BitVec.eq_of_getLsbD_eq fun i _ => ?_
  rw [BitVec.getLsbD_or, getLsbD_lanesIn, getLsbD_lanesIn, deferTo]
  split_ifs with hany
  · obtain ⟨d, hd, hb⟩ := List.any_eq_true.mp hany
    rw [List.any_map]
    refine Bool.eq_iff_iff.mpr ?_
    rw [Bool.or_eq_true, List.any_eq_true, List.any_eq_true]
    have hbit : ∀ x : Nat × Word, (((fun e : Nat × Word => e.2.getLsbD i) ∘ fun d => if d.1 = b then (b, d.2 ||| m) else d) x = true) ↔
        (x.2.getLsbD i = true ∨ (x.1 = b ∧ m.getLsbD i = true)) := fun x => by
      show (if x.1 = b then (b, x.2 ||| m) else x).2.getLsbD i = true ↔ _
      split_ifs with h
      · rw [BitVec.getLsbD_or, Bool.or_eq_true]; simp [h]
      · simp [h]
    constructor
    · rintro ⟨x, hx, hbx⟩
      rcases (hbit x).mp hbx with h | ⟨-, h⟩
      · exact .inl ⟨x, hx, h⟩
      · exact .inr h
    · rintro (⟨x, hx, h⟩ | h)
      · exact ⟨x, hx, (hbit x).mpr (.inl h)⟩
      · exact ⟨d, hd, (hbit d).mpr (.inr ⟨by simpa using hb, h⟩)⟩
  · simp

/-- The lanes whose next block is one of some blocks. -/
def lanesToAny (l : List (Nat × Nat)) (bs : List Nat) : Word := maskOf ((l.filter (fun e => bs.contains e.2)).map (·.1))

theorem getLsbD_lanesToAny (l : List (Nat × Nat)) (bs : List Nat) (i : Nat) : (lanesToAny l bs).getLsbD i = decide (i < 64 ∧ ∃ x ∈ l, x.2 ∈ bs ∧ x.1 = i) := by
  rw [lanesToAny, getLsbD_maskOf]
  refine decide_eq_decide.mpr (and_congr_right fun _ => ?_)
  simp only [List.mem_map, List.mem_filter, List.contains_iff_mem, and_assoc]

theorem getLsbD_lanesTo (l : List (Nat × Nat)) (b i : Nat) : (lanesTo l b).getLsbD i = decide (i < 64 ∧ ∃ x ∈ l, x.2 = b ∧ x.1 = i) := by
  rw [lanesTo, getLsbD_maskOf]
  refine decide_eq_decide.mpr (and_congr_right fun _ => ?_)
  simp only [List.mem_map, List.mem_filter, beq_iff_eq, and_assoc]

theorem lanesToAny_nil (l : List (Nat × Nat)) : lanesToAny l [] = 0 := by
  refine BitVec.eq_of_getLsbD_eq fun i _ => ?_
  rw [getLsbD_lanesToAny]
  simp

theorem lanesToAny_cons (l : List (Nat × Nat)) (b : Nat) (bs : List Nat) : lanesToAny l (b :: bs) = lanesTo l b ||| lanesToAny l bs := by
  refine BitVec.eq_of_getLsbD_eq fun i _ => Bool.eq_iff_iff.mpr ?_
  rw [BitVec.getLsbD_or, Bool.or_eq_true, getLsbD_lanesToAny, getLsbD_lanesTo, getLsbD_lanesToAny]
  simp only [decide_eq_true_eq, List.mem_cons]
  constructor
  · rintro ⟨hi, x, hx, h | h, rfl⟩
    · exact .inl ⟨hi, x, hx, h, rfl⟩
    · exact .inr ⟨hi, x, hx, h, rfl⟩
  · rintro (⟨hi, x, hx, h, rfl⟩ | ⟨hi, x, hx, h, rfl⟩)
    · exact ⟨hi, x, hx, .inl h, rfl⟩
    · exact ⟨hi, x, hx, .inr h, rfl⟩

/-- The lanes to the blocks of a vote are those that stay, whichever of the blocks are told apart. -/
theorem lanesToAny_split (l : List (Nat × Nat)) (p : Nat → Bool) :
    lanesToAny l ((voteOf l).filter p) ||| lanesToAny l ((voteOf l).filter (fun b => !p b)) = stayMask l := by
  refine BitVec.eq_of_getLsbD_eq fun i _ => Bool.eq_iff_iff.mpr ?_
  rw [BitVec.getLsbD_or, Bool.or_eq_true, getLsbD_lanesToAny, getLsbD_lanesToAny, stayMask, getLsbD_maskOf]
  simp only [decide_eq_true_eq, List.mem_filter, List.mem_map, mem_voteOf]
  constructor
  · have hone : ∀ q : Nat → Bool, (i < 64 ∧ ∃ x ∈ l, ((∃ y ∈ staying l, y.2 = x.2) ∧ q x.2 = true) ∧ x.1 = i) → i < 64 ∧ ∃ a ∈ staying l, a.1 = i := by
      rintro q ⟨hi, x, hx, ⟨⟨y, hy, hyx⟩, -⟩, rfl⟩
      exact ⟨hi, x, List.mem_filter.mpr ⟨hx, by rw [← hyx]; exact (List.mem_filter.mp hy).2⟩, rfl⟩
    exact fun h => h.elim (hone p) (hone fun b => !p b)
  · rintro ⟨hi, x, hx, rfl⟩
    have hxl := (List.mem_filter.mp hx).1
    cases hp : p x.2 with
    | true => exact .inl ⟨hi, x, hxl, ⟨⟨x, hx, rfl⟩, hp⟩, rfl⟩
    | false => exact .inr ⟨hi, x, hxl, ⟨⟨x, hx, rfl⟩, by rw [hp]; rfl⟩, rfl⟩

theorem lanesIn_foldl_deferTo (l : List (Nat × Nat)) (bs : List Nat) (p : List (Nat × Word)) :
    lanesIn (bs.foldl (fun p b => deferTo p b (lanesTo l b)) p) = lanesIn p ||| lanesToAny l bs := by
  induction bs generalizing p with
  | nil => rw [List.foldl_nil, lanesToAny_nil]; exact BitVec.or_zero.symm
  | cons b bs ih => rw [List.foldl_cons, ih, lanesIn_deferTo, lanesToAny_cons, BitVec.or_assoc]

end Sys2Proof.Machine
end


section
/-!
PROOFS. Service of blocks in splits, and the overflow of a vote, which keep every lane (R35 to R37).
-/

namespace Sys2Proof.Machine

open Sys2Proof.Claims

/-! ### Service in a split -/

theorem liveAt_modGroup_or {s : State} {uid gi : Nat} {f : Group → Group} {m : Word} (hf : ∀ g, s.group? uid gi = some g → (f g).liveMask = g.liveMask ||| m) :
    (s.modGroup uid gi f).liveAt uid gi = (s.liveAt uid gi).map (· ||| m) := by
  unfold State.liveAt
  rw [State.group?_modGroup, Option.map_map, Option.map_map]
  cases hg : s.group? uid gi with
  | none => rfl
  | some g => exact congrArg some (hf g hg)

/-- A set that begins service in a split has its lanes live (R35). -/
theorem CamRun.serve_liveAt (r : CamRun) (c : Crew) (uid gi : Nat) (e : Ent) (b : Nat) (met : Bool) :
    (r.serve c uid gi e b met).s.liveAt uid gi = (r.s.liveAt uid gi).map (· ||| e.lanes) := by
  let home := r.s.homeOf c b
  let s1 := r.s.modGroup uid gi (fun g =>
    { g with
      lanes := g.lanes.mapIdx (fun i l => if e.lanes.getLsbD i then { l with blk := BitVec.ofNat 16 b, marked := true } else l)
      ents := sortBy (fun a b => decide (a.idx ≤ b.idx)) (g.ents ++ [{ e with st := home, code := [], pos := 0 }]) })
  let s2 := if met then s1.modEnt ⟨uid, gi, e.idx⟩ (fun e => { e with met := true }) else s1
  have h1 : s1.liveAt uid gi = (r.s.liveAt uid gi).map (· ||| e.lanes) := by
    refine liveAt_modGroup_or fun g _ => BitVec.eq_of_getLsbD_eq fun i _ => Bool.eq_iff_iff.mpr ?_
    rw [BitVec.getLsbD_or, getLsbD_liveMask, getLsbD_liveMask]
    simp only [Bool.or_eq_true, List.any_eq_true, mem_sortBy_iff, List.mem_append, List.mem_singleton]
    constructor
    · rintro ((⟨x, hx | rfl, hi⟩ | hi) | hi)
      · exact .inl (.inl (.inl ⟨x, hx, hi⟩))
      · exact .inr hi
      · exact .inl (.inl (.inr hi))
      · exact .inl (.inr hi)
    · rintro (((⟨x, hx, hi⟩ | hi) | hi) | hi)
      · exact .inl (.inl ⟨x, .inl hx, hi⟩)
      · exact .inl (.inr hi)
      · exact .inr hi
      · exact .inl (.inl ⟨_, .inr rfl, hi⟩)
  have h2 : s2.liveAt = s1.liveAt := by
    show (if met = true then _ else _ : State).liveAt = _
    split_ifs
    · exact liveAt_modGroup _ _ _ _ fun g => Group.modEnt_liveMask _ _ fun _ => rfl
    · rfl
  have h3 : (r.serve c uid gi e b met).s.liveAt = s2.liveAt := by
    show (if r.s.isStub c b = true then { r with s := s2, binds := r.binds ++ [(e.idx, b)] } else { r with s := s2.enter ⟨uid, gi, e.idx⟩ home } : CamRun).s.liveAt = _
    cases r.s.isStub c b with
    | true => rfl
    | false => exact State.enter_liveAt ..
  rw [h3, h2, h1]

theorem CamRun.group_of_some {r : CamRun} {uid gi : Nat} {g : Group} (h : r.s.group? uid gi = some g) : r.group uid gi = g := by
  rw [CamRun.group, h]; rfl

/-- Lanes that are deferred no more are live all the same. -/
theorem Group.undefer_liveMask (g : Group) (bs : List Nat) : (g.undefer bs).1.liveMask ||| (g.undefer bs).2 = g.liveMask := by
  refine BitVec.eq_of_getLsbD_eq fun i _ => Bool.eq_iff_iff.mpr ?_
  unfold Group.undefer
  rw [BitVec.getLsbD_or, getLsbD_liveMask, getLsbD_liveMask]
  simp only [getLsbD_lanesIn, Bool.or_eq_true, List.any_eq_true, List.mem_filter]
  constructor
  · rintro (((h | ⟨d, ⟨hd, -⟩, hi⟩) | h) | ⟨d, ⟨hd, -⟩, hi⟩)
    · exact .inl (.inl h)
    · exact .inl (.inr ⟨d, hd, hi⟩)
    · exact .inr h
    · exact .inl (.inr ⟨d, hd, hi⟩)
  · rintro ((h | ⟨d, hd, hi⟩) | h)
    · exact .inl (.inl (.inl h))
    · cases hb : bs.contains d.1 with
      | true => exact .inr ⟨d, ⟨hd, hb⟩, hi⟩
      | false => exact .inl (.inl (.inr ⟨d, ⟨hd, by rw [hb]; rfl⟩, hi⟩))
    · exact .inl (.inr h)

/-- A split that serves a block has its own lanes live, and those that were deferred to the block stay live in it (R36). -/
theorem CamRun.serveWith_liveAt (r : CamRun) (c : Crew) (uid gi : Nat) (e : Ent) (b : Nat) :
    (r.serveWith c uid gi e b).s.liveAt uid gi = (r.s.liveAt uid gi).map (· ||| e.lanes) := by
  unfold CamRun.serveWith
  dsimp only
  generalize r.s.fwdOf c b = b'
  rw [CamRun.serve_liveAt]
  have hat : ((r.map (fun s => s.modGroup uid gi (fun _ => ((r.group uid gi).undefer [b, b']).1))).s.liveAt uid gi) =
      (r.s.group? uid gi).map (fun _ => ((r.group uid gi).undefer [b, b']).1.liveMask) := by
    show ((r.s.modGroup uid gi _).group? uid gi).map _ = _
    rw [State.group?_modGroup, Option.map_map]
    rfl
  rw [hat, State.liveAt]
  cases hg : r.s.group? uid gi with
  | none => rfl
  | some g =>
    rw [CamRun.group_of_some hg]
    have hundefer := Group.undefer_liveMask g [b, b']
    refine congrArg some ?_
    show (g.undefer [b, b']).1.liveMask ||| (e.lanes ||| (g.undefer [b, b']).2) = g.liveMask ||| e.lanes
    rw [← hundefer, BitVec.or_comm e.lanes, BitVec.or_assoc]

/-- A block of an overflow beyond the first takes the lowest free slot, or is deferred (R35, R37). -/
def CamRun.serveMore (r : CamRun) (c : Crew) (uid gi : Nat) (l : List (Nat × Nat)) (cyc b : Nat) : CamRun :=
  match (r.group uid gi).freeSlots with
  | [] => r.map (fun s => s.modGroup uid gi (fun g => { g with deferred := deferTo g.deferred b (lanesTo l b) }))
  | _ => r.serveNew c uid gi b (lanesTo l b) cyc

theorem CamRun.serveMore_liveAt (r : CamRun) (c : Crew) (uid gi : Nat) (l : List (Nat × Nat)) (cyc b : Nat) :
    (r.serveMore c uid gi l cyc b).s.liveAt uid gi = (r.s.liveAt uid gi).map (· ||| lanesTo l b) := by
  unfold CamRun.serveMore
  split
  · refine liveAt_modGroup_or fun g _ => BitVec.eq_of_getLsbD_eq fun i _ => ?_
    rw [BitVec.getLsbD_or, getLsbD_liveMask, getLsbD_liveMask, lanesIn_deferTo, BitVec.getLsbD_or]
    simp only [Bool.or_assoc, Bool.or_comm, Bool.or_left_comm]
  · exact CamRun.serveWith_liveAt ..

theorem serveMore_foldl_liveAt (c : Crew) (uid gi : Nat) (l : List (Nat × Nat)) (cyc : Nat) (bs : List Nat) (r : CamRun) :
    (bs.foldl (fun r b => r.serveMore c uid gi l cyc b) r).s.liveAt uid gi = (r.s.liveAt uid gi).map (· ||| lanesToAny l bs) := by
  induction bs generalizing r with
  | nil =>
    rw [lanesToAny_nil, List.foldl_nil]
    cases r.s.liveAt uid gi with
    | none => rfl
    | some m => exact congrArg some BitVec.or_zero.symm
  | cons b bs ih =>
    rw [List.foldl_cons, ih, CamRun.serveMore_liveAt, Option.map_map, lanesToAny_cons]
    refine congrArg (Option.map · _) (funext fun m => ?_)
    exact BitVec.or_assoc ..

/-- The first step of an overflow: the merge blocks park, and the entity leaves its slot. -/
def CamRun.parkMerges (r : CamRun) (c : Crew) (uid gi : Nat) (e : Ent) (l : List (Nat × Nat)) : CamRun :=
  r.map (fun s => s.modGroup uid gi (fun g =>
    { g with
      parked := ((voteOf l).filter (r.s.isMerge c)).foldl (fun p b => deferTo p b (lanesTo l b)) g.parked
      ents := g.ents.filter (fun x => x.idx != e.idx) }))

/-- An overflow of merge blocks alone parks them. -/
theorem fallback_of_merges {r : CamRun} {c : Crew} {l : List (Nat × Nat)} (uid gi : Nat) (e : Ent) (cyc : Nat) (h : (voteOf l).filter (fun b => !r.s.isMerge c b) = []) :
    r.fallback c uid gi e l cyc = r.parkMerges c uid gi e l := by
  unfold CamRun.fallback
  dsimp only
  rw [h]
  rfl

/-- Any other overflow serves its first block in the entity's slot, and then the others. -/
theorem fallback_of_cons {r : CamRun} {c : Crew} {l : List (Nat × Nat)} {b0 : Nat} {more : List Nat} (uid gi : Nat) (e : Ent) (cyc : Nat)
    (h : (voteOf l).filter (fun b => !r.s.isMerge c b) = b0 :: more) : ∃ kept, r.fallback c uid gi e l cyc =
      more.foldl (fun r b => r.serveMore c uid gi l cyc b)
        { (r.parkMerges c uid gi e l).serveWith c uid gi { e with lanes := lanesTo l b0, readyAt := cyc + 1, wait := none, join := 0 } b0 with kept := kept } := by
  unfold CamRun.fallback
  dsimp only
  rw [h]
  exact ⟨_, rfl⟩

/-- An overflow keeps every lane that goes on: it parks, it is served in a split, or it is deferred (R35 to R37). -/
theorem CamRun.fallback_liveAt (r : CamRun) (c : Crew) (uid gi : Nat) (e : Ent) (l : List (Nat × Nat)) (cyc : Nat) {g : Group} (hg : r.s.group? uid gi = some g)
    (hents : ∀ x ∈ g.ents, x.idx = e.idx) (hdef : g.deferred = []) (hpark : g.parked = []) : (r.fallback c uid gi e l cyc).s.liveAt uid gi = some (stayMask l) := by
  have h1 : (r.parkMerges c uid gi e l).s.liveAt uid gi = some (lanesToAny l ((voteOf l).filter (r.s.isMerge c))) := by
    have hnone : g.ents.filter (fun x => x.idx != e.idx) = [] := List.filter_eq_nil_iff.mpr fun x hx => by simp [hents x hx]
    show (State.group? (r.s.modGroup uid gi _) uid gi).map _ = _
    rw [State.group?_modGroup, hg]
    refine congrArg some (BitVec.eq_of_getLsbD_eq fun i _ => ?_)
    rw [getLsbD_liveMask]
    dsimp only
    rw [hnone, hdef, hpark, lanesIn_foldl_deferTo]
    simp [lanesIn]
  rw [← lanesToAny_split l (r.s.isMerge c)]
  cases hrest : (voteOf l).filter (fun b => !r.s.isMerge c b) with
  | nil =>
    rw [fallback_of_merges uid gi e cyc hrest, h1, lanesToAny_nil]
    exact congrArg some BitVec.or_zero.symm
  | cons b0 more =>
    obtain ⟨kept, hfall⟩ := fallback_of_cons uid gi e cyc hrest
    have hserve := CamRun.serveWith_liveAt (r.parkMerges c uid gi e l) c uid gi { e with lanes := lanesTo l b0, readyAt := cyc + 1, wait := none, join := 0 } b0
    rw [hfall, serveMore_foldl_liveAt, lanesToAny_cons]
    refine (congrArg (Option.map _) (hserve.trans (congrArg (Option.map _) h1))).trans (congrArg some ?_)
    exact BitVec.or_assoc ..

end Sys2Proof.Machine
end


section
/-!
PROOFS. The vote of an unsplit group, case by case (R31 to R36, R39, R47).
-/

namespace Sys2Proof.Machine

open Sys2Proof.Claims

/-! ### What a vote leaves of a crew -/

/-- A crew's arrivals at the rendezvous latch and the deadline of a PREEMPT. -/
def State.callsAt (s : State) (u : Nat) : Option (List Arrival × Option Nat) := (s.crew? u).map (fun c => (c.rdv, c.preempt))

theorem callsAt_modCrew (s : State) (uid : Nat) {f : Crew → Crew} (hf : ∀ c, (f c).uid = c.uid) (hcalls : ∀ c, ((f c).rdv, (f c).preempt) = (c.rdv, c.preempt)) :
    (s.modCrew uid f).callsAt = s.callsAt := by
  funext u
  unfold State.callsAt
  rw [State.crew?_modCrew s uid u f hf, Option.map_map]
  refine congrArg (Option.map · _) (funext fun c => ?_)
  show ((if c.uid = uid then f c else c).rdv, (if c.uid = uid then f c else c).preempt) = _
  split_ifs
  · exact hcalls c
  · rfl

@[simp] theorem State.modGroup_callsAt (s : State) (uid i : Nat) (f : Group → Group) : (s.modGroup uid i f).callsAt = s.callsAt :=
  callsAt_modCrew s uid (fun _ => rfl) (fun _ => rfl)

theorem callsAt_of_seats {s t : State} (h : t.seats = s.seats) {u : Nat} {c : Crew} (hc : s.crew? u = some c) : t.callsAt u = some (c.rdv, c.preempt) := by
  obtain ⟨c', hc', hasleep⟩ := crew?_of_seats (congrArg Prod.fst h) hc
  rw [State.callsAt, hc']
  show some (c'.asleep.rdv, c'.asleep.preempt) = some (c.asleep.rdv, c.asleep.preempt)
  rw [hasleep]

@[simp] theorem State.enter_callsAt (s : State) (m : Member) (st : Nat) : (s.enter m st).callsAt = s.callsAt := by
  cases hc : s.crew? m.crew with
  | none => rw [State.enter, hc]
  | some c =>
    obtain ⟨cores, code, w, h⟩ := enter_eq st hc
    rw [h, State.modGroup_callsAt]
    rfl

@[simp] theorem State.retireNow_callsAt (s : State) (uid gi : Nat) : (s.retireNow uid gi).callsAt = s.callsAt := by
  have hkeep : (s.keepRegs uid gi).callsAt = s.callsAt := by
    obtain ⟨cores, h, -⟩ := keepRegs_eq s uid gi
    rw [h]; rfl
  have hdrop : ∀ s : State, (s.dropAccs uid gi).callsAt = s.callsAt := fun s => by
    unfold State.dropAccs
    split_ifs
    · rfl
    · exact State.modGroup_callsAt ..
  have hfatal : ∀ (s : State) cause, (s.fatal uid cause).callsAt = s.callsAt := fun s cause => by
    unfold State.fatal
    split
    · rfl
    · exact callsAt_modCrew s uid (f := fun c => { c with stopped := true }) (fun _ => rfl) (fun _ => rfl)
  have hlate : ∀ s : State, (s.lateRetire uid).callsAt = s.callsAt := fun s => by
    unfold State.lateRetire
    split
    · split_ifs
      · exact hfatal ..
      · rfl
    · rfl
  rw [State.retireNow, hlate, hdrop, State.modGroup_callsAt, hkeep]

theorem settleRdv_of_no_arrivals {s : State} {uid : Nat} {d : Option Nat} (h : s.callsAt uid = some ([], d)) : s.settleRdv uid = s := by
  obtain ⟨c, hc, hcalls⟩ := Option.map_eq_some_iff.mp h
  have hrdv : c.rdv = [] := congrArg Prod.fst hcalls
  have hstep : s.rdvStep c = none := by
    unfold State.rdvStep
    rw [hrdv]
    rfl
  rw [State.settleRdv, hc, Option.map_some, hrdv]
  show s.rdvSettle uid 1 = s
  rw [State.rdvSettle, hc]
  dsimp only
  rw [hstep]

/-! ### Boundaries at which nothing waits -/

theorem preempting_of_no_deadline {s : State} {uid : Nat} {l : List Arrival} (h : s.callsAt uid = some (l, none)) (i : Nat) : s.preempting uid i = false := by
  obtain ⟨c, hc, hcalls⟩ := Option.map_eq_some_iff.mp h
  have hpre : c.preempt = none := congrArg Prod.snd hcalls
  unfold State.preempting
  rw [hc]
  cases s.group? uid i with
  | none => rfl
  | some g =>
    dsimp only
    rw [hpre]
    rfl

/-- Without PREEMPT, a held trap or a dropped request nothing happens at a boundary. -/
theorem atBoundary_calm {s : State} {uid gi : Nat} {g : Group} {l : List Arrival} (hcalls : s.callsAt uid = some (l, none)) (hg : s.group? uid gi = some g)
    (hvote : g.atVote = []) (htraps : g.traps = []) (voted : List Nat) : s.atBoundary uid gi voted = s := by
  have hdeliver : s.deliver uid gi = s := deliver_of_no_traps fun x hx => by rw [hg] at hx; cases hx; exact htraps
  have hpre := preempting_of_no_deadline hcalls gi
  have htry : s.tryPreempt uid gi = s := by
    rw [State.tryPreempt, hg]
    dsimp only
    rw [hpre]
    rfl
  unfold State.atBoundary
  rw [hg, Option.getD_some]
  dsimp only
  rw [if_pos hvote, hpre, if_neg Bool.false_ne_true, hdeliver, htry, ite_self]

/-! ### A vote under way -/

theorem eq_of_asleep {g g' : Group} (h : g'.asleep = g.asleep) : g' = { g with latch := g'.latch } := by
  have hback : g' = { g'.asleep with latch := g'.latch } := rfl
  rw [hback, h]
  rfl

/-- The machine after its lanes have taken the blocks of a vote. -/
def State.voteTaken (s : State) (c : Crew) (uid gi : Nat) (g : Group) (lanes : Word) (cyc : Nat) : State :=
  (s.nexts c g lanes).1.modGroup uid gi (fun x => (x.land cyc).takeNexts (s.nexts c g lanes).2)

/-- A group of one entity before and after its lanes have taken the blocks of a vote. -/
structure Voted (g : Group) (e : Ent) (l : List (Nat × Nat)) (g' : Group) : Prop where
  names : l.map (·.1) = lanesOf e.lanes
  rest : ∃ v p s pend latch, g' =
    { g with v := v, p := p, s := s, pend := pend, latch := latch, lanes := g'.lanes, ents := [{ e with lanes := stayMask l }], deferred := [], parked := [] }
  lanes : ∀ x ∈ staying l, g'.lanes[x.1]? = some { g.lane x.1 with blk := BitVec.ofNat 16 x.2, marked := true, called := false }

theorem voteTaken_group? {s : State} {c : Crew} {uid gi : Nat} {g : Group} {e : Ent} (hg : s.group? uid gi = some g) (hents : g.ents = [e]) (hdef : g.deferred = [])
    (hpark : g.parked = []) (hv : ∀ l, e.lanes.getLsbD l = true → (g.lane l).valid = true) (hn : voteOf (s.nexts c g e.lanes).2 ≠ []) (cyc : Nat) :
    ∃ g1, (s.voteTaken c uid gi g e.lanes cyc).group? uid gi = some g1 ∧ Voted g e (s.nexts c g e.lanes).2 g1 := by
  obtain ⟨g0, hg0, hasleep⟩ := group?_of_seats (State.nexts_seats s c g e.lanes) hg
  obtain ⟨v, p, r, hland⟩ := g0.land_rest cyc
  have hl := nexts_lanes s c g e.lanes
  have h0 := eq_of_asleep hasleep
  obtain ⟨lanes, htake, hlanes⟩ := takeNexts_whole (g := g0.land cyc) (e := e) (l := (s.nexts c g e.lanes).2) (by rw [hland, h0]; exact hents)
    (by rw [hland, h0]; exact hdef) (by rw [hland, h0]; exact hpark) hl (by rw [hland, h0]; exact hv) (stayMask_ne hl hn)
  refine ⟨(g0.land cyc).takeNexts (s.nexts c g e.lanes).2, ?_, hl, ⟨v, p, r, g0.pend.filter (fun p => !decide (p.due ≤ cyc)), g0.latch, ?_⟩, ?_⟩
  · rw [State.voteTaken, State.group?_modGroup, hg0]
    rfl
  · rw [htake, hland, h0]
  · rw [htake]
    rw [hland, h0] at hlanes
    exact hlanes

theorem Group.takeNexts_mws (g : Group) (l : List (Nat × Nat)) : (g.takeNexts l).mws = g.mws := by
  have hfold : (g.takeBlocks l).mws = g.mws := by
    unfold Group.takeBlocks
    induction l generalizing g with
    | nil => rfl
    | cons x l ih => exact ih _
  exact hfold

/-- What a descriptor reads as does not depend on what the group of the vote holds beside its memory words. -/
theorem desc_modGroup (s : State) (c : Crew) (b uid i : Nat) {f : Group → Group} (hf : ∀ g, (f g).mws = g.mws) : ((s.modGroup uid i f).desc c b).2 = (s.desc c b).2 :=
  (((Twin.refl s).modGroup uid i hf).desc c b).2

theorem voteTaken_desc (s : State) (c : Crew) (uid gi : Nat) (g : Group) (lanes : Word) (cyc b : Nat) :
    ((s.voteTaken c uid gi g lanes cyc).desc c b).2 = ((s.nexts c g lanes).1.desc c b).2 :=
  desc_modGroup _ c b uid gi fun x => by
    obtain ⟨v, p, r, hland⟩ := x.land_rest cyc
    rw [Group.takeNexts_mws, hland]

/-- What an overflow makes of a group: its lanes park, are served in splits, or are deferred, and splits at stubs trap (R35, R47). -/
def State.splitVote (s : State) (c : Crew) (uid gi : Nat) (e : Ent) (l : List (Nat × Nat)) (cyc : Nat) : State :=
  (((CamRun.mk (s.modGroup uid gi (fun g => { g with ents := g.ents.map (fun x => { x with idx := 0 }) })) [] [] []).fallback c uid gi
    { e with idx := 0, mark := false, entries := 0, yh := false, yhOther := false, skips := 0 } l cyc).bind uid gi).atBoundary uid gi [0, 1, 2, 3]

/-- What a successor makes of a group. -/
def State.enterVote (s : State) (m : Member) (st cyc : Nat) : State :=
  (((s.modEnt m (fun e => { e with mark := false })).enter m st).afterVote m cyc).atBoundary m.crew m.grp [m.ent]

/-- The successor that an image names for a set (R33, R34). -/
def State.keyOf (s : State) (c : Crew) (n : List Nat) : Option Nat := if n.length ≤ 7 then ((s.image? c.img).getD default).succ? n else none

section Cases

variable {s : State} {c : Crew} {uid gi : Nat} {g : Group} {e : Ent} {cyc : Nat}

theorem voteWhole_of_no_lane (hn : voteOf (s.nexts c g e.lanes).2 = []) :
    s.voteWhole c uid gi g e cyc = (s.voteTaken c uid gi g e.lanes cyc).retireGroup uid gi := by
  unfold State.voteWhole
  dsimp only
  rw [hn]
  rfl

theorem voteWhole_of_key {st : Nat} (hn : voteOf (s.nexts c g e.lanes).2 ≠ []) (hkey : s.keyOf c (voteOf (s.nexts c g e.lanes).2) = some st) :
    s.voteWhole c uid gi g e cyc = (s.voteTaken c uid gi g e.lanes cyc).enterVote ⟨uid, gi, e.idx⟩ st cyc := by
  unfold State.keyOf at hkey
  unfold State.voteWhole
  dsimp only
  generalize voteOf (s.nexts c g e.lanes).2 = n at *
  cases n with
  | nil => exact absurd rfl hn
  | cons b l =>
    dsimp only
    rw [hkey]
    rfl

theorem voteWhole_of_one {b : Nat} (hn : voteOf (s.nexts c g e.lanes).2 = [b]) (hkey : s.keyOf c (voteOf (s.nexts c g e.lanes).2) = none) :
    s.voteWhole c uid gi g e cyc =
      let s1 := s.voteTaken c uid gi g e.lanes cyc
      if (s.nexts c g e.lanes).1.isStub c b then s1.raise ⟨uid, gi, e.idx⟩ causeBinding (BitVec.ofNat 64 b)
      else if (s.nexts c g e.lanes).1.isMerge c b then s1.splitVote c uid gi e (s.nexts c g e.lanes).2 cyc
      else s1.enterVote ⟨uid, gi, e.idx⟩ ((s.nexts c g e.lanes).1.homeOf c b) cyc := by
  have hstub : (s.nexts c g e.lanes).1.isStub c b = (s.voteTaken c uid gi g e.lanes cyc).isStub c b := congrArg descStub (voteTaken_desc s c uid gi g e.lanes cyc b).symm
  have hmerge : (s.nexts c g e.lanes).1.isMerge c b = (s.voteTaken c uid gi g e.lanes cyc).isMerge c b := congrArg descMerge (voteTaken_desc s c uid gi g e.lanes cyc b).symm
  have hhome : (s.nexts c g e.lanes).1.homeOf c b = (s.voteTaken c uid gi g e.lanes cyc).homeOf c b := congrArg descHome (voteTaken_desc s c uid gi g e.lanes cyc b).symm
  rw [hstub, hmerge, hhome]
  unfold State.keyOf at hkey
  unfold State.voteWhole
  dsimp only
  rw [hkey]
  rw [hn]
  rfl

theorem voteWhole_of_overflow (hn : 2 ≤ (voteOf (s.nexts c g e.lanes).2).length) (hkey : s.keyOf c (voteOf (s.nexts c g e.lanes).2) = none) :
    s.voteWhole c uid gi g e cyc = (s.voteTaken c uid gi g e.lanes cyc).splitVote c uid gi e (s.nexts c g e.lanes).2 cyc := by
  unfold State.keyOf at hkey
  unfold State.voteWhole
  dsimp only
  rw [hkey]
  generalize hv : voteOf (s.nexts c g e.lanes).2 = n at *
  match n with
  | [] => exact absurd hn (by decide)
  | [b] => exact absurd hn (by simp)
  | b :: b' :: l => rfl

end Cases

/-! ### Where the lanes of a vote go -/

theorem modEnt_one {g : Group} {e : Ent} (hents : g.ents = [e]) (hi : e.idx ≠ handlerIdx) (f : Ent → Ent) : g.modEnt e.idx f = { g with ents := [f e] } := by
  rw [Group.modEnt, if_neg hi, hents, List.map_cons, List.map_nil, if_pos rfl]

theorem ent?_one {g : Group} {e : Ent} (hents : g.ents = [e]) (hi : e.idx ≠ handlerIdx) : g.ent? e.idx = some e := by
  rw [Group.ent?, if_neg hi, hents, List.find?_cons, beq_self_eq_true]

/-- The one entity of a group enters a state (R31). -/
theorem enterAt_one {g : Group} {e : Ent} (hents : g.ents = [e]) (hi : e.idx ≠ handlerIdx) (st : Nat) (code : List Code) (w : Option Wait) (seq : Nat) :
    g.enterAt e.idx st code w seq =
      { g with
        lanes := g.lanes.mapIdx (fun i x => if e.lanes.getLsbD i then { x with occ := x.blk, marked := false, called := false } else x)
        ents := [{ e with st := st, code := code, pos := 0, entries := e.entries + 1, wait := w, join := if e.met then seq else 0, met := false, since := seq }] } := by
  have hmine : ((g.ent? e.idx).map (·.lanes)).getD 0 = e.lanes := by rw [ent?_one hents hi]; rfl
  rw [Group.enterAt, hmine]
  exact modEnt_one (g := g.modLanes _ _) hents hi _

/-- A lane that stays is in the mask of those that stay. -/
theorem stayMask_of_mem {l : List (Nat × Nat)} {lanes : Word} (hl : l.map (·.1) = lanesOf lanes) {x : Nat × Nat} (hx : x ∈ staying l) : (stayMask l).getLsbD x.1 = true := by
  have he : lanes.getLsbD x.1 = true := (mem_lanesOf _ _).mp (hl ▸ List.mem_map_of_mem (List.mem_filter.mp hx).1)
  rw [stayMask, getLsbD_maskOf, decide_eq_true_eq]
  exact ⟨BitVec.lt_of_getLsbD he, List.mem_map_of_mem hx⟩

/-- What R31 says of the lanes that enter a state. -/
def EntersAt (g : GRef) (m : Member) (on : List (Nat × Nat)) (st : Nat) (t : State) : Prop :=
  ∃ (g' : Group) (e' : Ent), t.group? g.crew g.grp = some g' ∧ t.ent? m = some e' ∧ e'.st = st ∧ e'.pos = 0 ∧ e'.mark = false ∧ e'.lanes = maskOf (on.map (·.1)) ∧
    ∀ x ∈ on, (g'.lane x.1).blk = BitVec.ofNat 16 x.2 ∧ (g'.lane x.1).occ = BitVec.ofNat 16 x.2 ∧ (g'.lane x.1).marked = false

/-- The lanes that stay enter a successor: they latch their blocks, and the entity stands at its first word (R31, R34). -/
theorem enterVote_enters {s : State} {uid gi : Nat} {g g1 : Group} {e : Ent} {l : List (Nat × Nat)} {a : List Arrival} (hg : s.group? uid gi = some g1) (hvoted : Voted g e l g1)
    (hcalls : s.callsAt uid = some (a, none)) (hi : e.idx ≠ handlerIdx) (hvote : g.atVote = []) (htraps : g.traps = []) (st cyc : Nat) :
    EntersAt ⟨uid, gi⟩ ⟨uid, gi, e.idx⟩ (staying l) st (s.enterVote ⟨uid, gi, e.idx⟩ st cyc) := by
  obtain ⟨hnames, ⟨v, p, r, pend, latch, hrest⟩, hlanes⟩ := hvoted
  let m : Member := ⟨uid, gi, e.idx⟩
  have hcrew : ∃ c1, (s.modEnt m (fun e => { e with mark := false })).crew? uid = some c1 := by
    obtain ⟨c0, hc0, -⟩ := Option.map_eq_some_iff.mp hcalls
    exact ⟨_, (State.crew?_modGroup s uid gi _).trans (congrArg (Option.map _) hc0)⟩
  obtain ⟨c1, hc1⟩ := hcrew
  obtain ⟨cores, code, w, henter⟩ := enter_eq (m := m) st hc1
  let e1 : Ent := { e with lanes := stayMask l }
  let e3 : Ent := { e1 with
    mark := false, st := st, code := code, pos := 0, entries := e.entries + 1, wait := w, join := if e.met then s.nextSeq else 0, met := false, since := s.nextSeq, readyAt := cyc + 1 }
  let lanes := g1.lanes.mapIdx (fun i x => if (stayMask l).getLsbD i then { x with occ := x.blk, marked := false, called := false } else x)
  have hents : g1.ents = [e1] := by rw [hrest]
  have hgroup : (((s.modEnt m (fun e => { e with mark := false })).enter m st).afterVote m cyc).group? uid gi = some { g1 with lanes := lanes, ents := [e3] } := by
    rw [henter]
    show (State.modGroup (State.modGroup _ uid gi _) uid gi _).group? uid gi = _
    rw [State.group?_modGroup, State.group?_modGroup]
    show (((s.modGroup uid gi _).group? uid gi).map _).map _ = _
    rw [State.group?_modGroup, hg]
    refine congrArg some ?_
    show ((g1.modEnt e.idx _).enterAt e.idx st code w s.nextSeq).modEnt e.idx _ = _
    rw [modEnt_one (e := e1) hents hi]
    rw [enterAt_one (e := { e1 with mark := false }) rfl hi]
    exact modEnt_one (e := { e1 with
      mark := false, st := st, code := code, pos := 0, entries := e.entries + 1, wait := w, join := if e.met then s.nextSeq else 0, met := false, since := s.nextSeq }) rfl hi _
  have hcalls' : (((s.modEnt m (fun e => { e with mark := false })).enter m st).afterVote m cyc).callsAt uid = some (a, none) := by
    show (State.modGroup _ _ _ _).callsAt uid = _
    rw [State.modGroup_callsAt, State.enter_callsAt]
    show (s.modGroup _ _ _).callsAt uid = _
    rw [State.modGroup_callsAt, hcalls]
  have hcalm : s.enterVote m st cyc = ((s.modEnt m (fun e => { e with mark := false })).enter m st).afterVote m cyc :=
    atBoundary_calm hcalls' hgroup (by show g1.atVote = []; rw [hrest]; exact hvote) (by show g1.traps = []; rw [hrest]; exact htraps) _
  rw [hcalm]
  refine ⟨_, e3, hgroup, ?_, rfl, rfl, rfl, rfl, fun x hx => ?_⟩
  · rw [State.ent?_of_group (m := m) hgroup]
    exact ent?_one (e := e3) rfl hi
  · have hlane : ({ g1 with lanes := lanes, ents := [e3] } : Group).lane x.1 =
        { g.lane x.1 with blk := BitVec.ofNat 16 x.2, occ := BitVec.ofNat 16 x.2, marked := false, called := false } := by
      show (lanes[x.1]?).getD default = _
      rw [List.getElem?_mapIdx, hlanes x hx, Option.map_some, if_pos (stayMask_of_mem hnames hx)]
      rfl
    rw [hlane]
    exact ⟨rfl, rfl, rfl⟩

/-- A vote for one merge block parks its lanes (R39). -/
theorem splitVote_parks {s : State} {c : Crew} {uid gi b : Nat} {g g1 : Group} {e : Ent} {l : List (Nat × Nat)} {a : List Arrival} (hg : s.group? uid gi = some g1)
    (hvoted : Voted g e l g1) (hcalls : s.callsAt uid = some (a, none)) (hvote : g.atVote = []) (htraps : g.traps = []) (hn : voteOf l = [b])
    (hmerge : s.isMerge c b = true) (cyc : Nat) :
    ∃ g', (s.splitVote c uid gi e l cyc).group? uid gi = some g' ∧ g'.ents = [] ∧ g'.parked = [(b, stayMask l)] := by
  obtain ⟨-, ⟨v, p, r, pend, latch, hrest⟩, -⟩ := hvoted
  let s' := s.modGroup uid gi (fun g => { g with ents := g.ents.map (fun x => { x with idx := 0 }) })
  let e0 : Ent := { e with idx := 0, mark := false, entries := 0, yh := false, yhOther := false, skips := 0 }
  have hdesc := desc_modGroup s c b uid gi (f := fun g => { g with ents := g.ents.map (fun x => { x with idx := 0 }) }) fun _ => rfl
  have hmerge' : s'.isMerge c b = true := (congrArg descMerge hdesc).trans hmerge
  have hyes : (voteOf l).filter (s'.isMerge c) = [b] := by rw [hn, List.filter_cons, if_pos hmerge']; rfl
  have hno : (voteOf l).filter (fun b => !s'.isMerge c b) = [] := by rw [hn, List.filter_cons, hmerge']; rfl
  have hto : lanesTo l b = stayMask l := by
    have h := lanesToAny_split l (s'.isMerge c)
    rw [hyes, hno, lanesToAny_cons, lanesToAny_nil] at h
    exact (BitVec.or_zero.symm.trans BitVec.or_zero.symm).trans h
  have hfall := fallback_of_merges (r := CamRun.mk s' [] [] []) (c := c) uid gi e0 cyc hno
  have hgroup : ((CamRun.mk s' [] [] []).parkMerges c uid gi e0 l).s.group? uid gi =
      some { g1 with ents := (g1.ents.map (fun x => ({ x with idx := 0 } : Ent))).filter (fun x => x.idx != 0), parked := [(b, stayMask l)] } := by
    show (s'.modGroup uid gi _).group? uid gi = _
    rw [State.group?_modGroup, State.group?_modGroup, hg]
    refine congrArg some ?_
    show ({ g1 with ents := _, parked := ((voteOf l).filter (s'.isMerge c)).foldl (fun p b => deferTo p b (lanesTo l b)) g1.parked } : Group) = _
    rw [hyes, List.foldl_cons, List.foldl_nil, hto, hrest]
    rfl
  have hcalls' : ((CamRun.mk s' [] [] []).parkMerges c uid gi e0 l).s.callsAt uid = some (a, none) := by
    show (s'.modGroup uid gi _).callsAt uid = _
    rw [State.modGroup_callsAt, State.modGroup_callsAt, hcalls]
  have hcalm : s.splitVote c uid gi e l cyc = ((CamRun.mk s' [] [] []).parkMerges c uid gi e0 l).s := by
    show (((CamRun.mk s' [] [] []).fallback c uid gi e0 l cyc).bind uid gi).atBoundary uid gi [0, 1, 2, 3] = _
    rw [hfall]
    exact atBoundary_calm hcalls' hgroup (by show g1.atVote = []; rw [hrest]; exact hvote) (by show g1.traps = []; rw [hrest]; exact htraps) _
  rw [hcalm]
  exact ⟨_, hgroup, by dsimp only; rw [hrest]; rfl, rfl⟩

/-- An overflow keeps every lane that goes on (R35). -/
theorem splitVote_keeps {s : State} {uid gi : Nat} {g g1 : Group} {e : Ent} {l : List (Nat × Nat)} (hg : s.group? uid gi = some g1) (hvoted : Voted g e l g1)
    (c : Crew) (cyc : Nat) : ∃ g', (s.splitVote c uid gi e l cyc).group? uid gi = some g' ∧ g'.liveMask = stayMask l := by
  obtain ⟨-, ⟨v, p, r, pend, latch, hrest⟩, -⟩ := hvoted
  let s' := s.modGroup uid gi (fun g => { g with ents := g.ents.map (fun x => { x with idx := 0 }) })
  let e0 : Ent := { e with idx := 0, mark := false, entries := 0, yh := false, yhOther := false, skips := 0 }
  have hgroup : (CamRun.mk s' [] [] []).s.group? uid gi = some { g1 with ents := g1.ents.map (fun x => { x with idx := 0 }) } := by
    show s'.group? uid gi = _
    rw [State.group?_modGroup, hg]
    rfl
  have hidx : ∀ x ∈ g1.ents.map (fun x => ({ x with idx := 0 } : Ent)), x.idx = e0.idx := fun x hx => by
    obtain ⟨y, -, rfl⟩ := List.mem_map.mp hx
    rfl
  have hlive := CamRun.fallback_liveAt (CamRun.mk s' [] [] []) c uid gi e0 l cyc hgroup hidx (by show g1.deferred = []; rw [hrest]) (by show g1.parked = []; rw [hrest])
  have hall : (s.splitVote c uid gi e l cyc).liveAt uid gi = some (stayMask l) := by
    show ((((CamRun.mk s' [] [] []).fallback c uid gi e0 l cyc).bind uid gi).atBoundary uid gi [0, 1, 2, 3]).liveAt uid gi = _
    rw [State.atBoundary_liveAt, CamRun.bind_liveAt, hlive]
  exact Option.map_eq_some_iff.mp hall

theorem handlerEntry_congr (s : State) {c c' : Crew} (h : c'.img = c.img) (kind : Nat) : s.handlerEntry c' kind = s.handlerEntry c kind := by
  unfold State.handlerEntry
  rw [h]

/-- A vote for one stub traps BINDING (R47). -/
theorem raise_binding {s : State} {uid gi entry home : Nat} {g1 : Group} {e : Ent} {c1 : Crew} (hg : s.group? uid gi = some g1) (hc : s.crew? uid = some c1)
    (hi : e.idx ≠ handlerIdx) (hat : DeliversAtOnce g1 e.idx) (hentry : s.handlerEntry c1 1 = some (entry, home)) (info : Word) :
    ∃ g', (s.raise ⟨uid, gi, e.idx⟩ causeBinding info).group? uid gi = some g' ∧ g'.cause = causeBinding ∧ g'.info = info ∧ g'.handler.isSome = true := by
  let t : Trap := ⟨some e.idx, causeBinding, info⟩
  let f := fun g : Group => { g with traps := (g.traps ++ [t]).erase t }
  have hc' : (s.modGroup uid gi f).crew? uid = some (c1.modGroup gi f) := by rw [State.crew?_modGroup, hc]; rfl
  have hentry' : (s.modGroup uid gi f).handlerEntry (c1.modGroup gi f) (handlerKind t.cause) = some (entry, home) := hentry
  obtain ⟨cyc, pre, cores, code, w, htake⟩ := takeTrap_eq (i := gi) (t := t) hc' hentry'
  have hraise := raise_at_once (m := ⟨uid, gi, e.idx⟩) (cause := causeBinding) (info := info) hg hi hat
  refine ⟨((f g1).inHandler t entry home cyc pre).enterAt handlerIdx home code w s.nextSeq, ?_, rfl, rfl, rfl⟩
  rw [hraise]
  refine (congrArg (fun s : State => s.group? uid gi) htake).trans ?_
  rw [State.group?_modGroup]
  show ((s.modGroup uid gi f).group? uid gi).map _ = _
  rw [State.group?_modGroup, hg]
  rfl

end Sys2Proof.Machine
end


section
/-!
PROOFS. The vote of a handler, the release of parked lanes, the mark of a split that has entered 1,024 states, and with them the votes of groups (R31 to R42, R47, R50).
-/

namespace Sys2Proof.Machine

open Sys2Proof.Claims

/-! ### The vote of a handler -/

/-- An entity that enters a state (R31). -/
def Ent.entered (e : Ent) (st : Nat) (code : List Code) (w : Option Wait) (seq : Nat) : Ent :=
  { e with st := st, code := code, pos := 0, entries := e.entries + 1, wait := w, join := if e.met then seq else 0, met := false, since := seq }

theorem enterAt_ent? (g : Group) (i st : Nat) (code : List Code) (w : Option Wait) (seq : Nat) :
    (g.enterAt i st code w seq).ent? i = (g.ent? i).map (fun e => e.entered st code w seq) :=
  (Group.ent?_modEnt (g.modLanes _ _) i i (fun e => e.entered st code w seq) fun _ => rfl).trans (if_pos rfl)

/-- An entity that enters a state stands in it. -/
theorem enter_ent? {s : State} {m : Member} {g : Group} {e : Ent} (hg : s.group? m.crew m.grp = some g) (he : g.ent? m.ent = some e) (st : Nat) :
    ∃ e', (s.enter m st).ent? m = some e' ∧ e'.st = st := by
  obtain ⟨c, hc, -⟩ := Option.bind_eq_some_iff.mp hg
  obtain ⟨cores, code, w, henter⟩ := enter_eq st hc
  refine ⟨e.entered st code w s.nextSeq, ?_, rfl⟩
  rw [henter, State.ent?, State.group?_modGroup]
  refine (congrArg (fun x : Option Group => (x.map _).bind _) hg).trans ?_
  rw [Option.map_some, Option.bind_some, enterAt_ent?, he, Option.map_some]

/-- What a handler's vote makes of its group before its outcome is known. -/
def Group.handlerVoted (g : Group) (l : List (Nat × Nat)) (cyc : Nat) : Group :=
  let g1 := (g.land cyc).takeNexts l
  { g1 with handler := g1.handler.map (fun h => { h with ent := { h.ent with lanes := maskOf ((lanesOf h.ent.lanes).filter (fun l => (g1.lane l).valid)) } }) }

theorem Group.handlerVoted_ent? {g : Group} {h : Handler} (hh : g.handler = some h) (l : List (Nat × Nat)) (cyc : Nat) :
    ∃ e, (g.handlerVoted l cyc).ent? handlerIdx = some e := by
  have htake : ∀ (g : Group) (l : List (Nat × Nat)), (g.takeNexts l).handler = g.handler := fun g l => by
    show (g.takeBlocks l).handler = g.handler
    unfold Group.takeBlocks
    induction l generalizing g with
    | nil => rfl
    | cons x l ih => exact ih _
  obtain ⟨v, p, s, hland⟩ := g.land_rest cyc
  have hhand : ((g.land cyc).takeNexts l).handler = some h := by rw [htake, hland]; exact hh
  show ∃ e, ((((g.land cyc).takeNexts l).handler.map _).map _) = some e
  rw [hhand]
  exact ⟨_, rfl⟩

/-- The machine after a handler's lanes have taken the blocks of their vote. -/
def State.handlerTaken (s : State) (c : Crew) (uid gi : Nat) (g : Group) (lanes : Word) (cyc : Nat) : State :=
  (s.nexts c g lanes).1.modGroup uid gi (fun x => x.handlerVoted (s.nexts c g lanes).2 cyc)

/-- A handler's set with a successor enters it (R50). -/
theorem voteHandler_of_key {s : State} {c : Crew} {uid gi st : Nat} {g : Group} {e : Ent} {cyc : Nat} (hn : voteOf (s.nexts c g e.lanes).2 ≠ [])
    (hkey : s.keyOf c (voteOf (s.nexts c g e.lanes).2) = some st) :
    s.voteHandler c uid gi g e cyc = ((s.handlerTaken c uid gi g e.lanes cyc).enter ⟨uid, gi, handlerIdx⟩ st).afterVote ⟨uid, gi, handlerIdx⟩ cyc := by
  unfold State.keyOf at hkey
  unfold State.voteHandler
  dsimp only
  generalize voteOf (s.nexts c g e.lanes).2 = n at *
  cases n with
  | nil => exact absurd rfl hn
  | cons b l =>
    dsimp only
    rw [hkey]
    rfl

/-- A handler's set without a successor is fatal (R50). -/
theorem voteHandler_of_no_key {s : State} {c : Crew} {uid gi : Nat} {g : Group} {e : Ent} {cyc : Nat} (hn : voteOf (s.nexts c g e.lanes).2 ≠ [])
    (hkey : s.keyOf c (voteOf (s.nexts c g e.lanes).2) = none) : s.voteHandler c uid gi g e cyc = (s.handlerTaken c uid gi g e.lanes cyc).fatal uid 1 := by
  unfold State.keyOf at hkey
  unfold State.voteHandler
  dsimp only
  generalize voteOf (s.nexts c g e.lanes).2 = n at *
  cases n with
  | nil => exact absurd rfl hn
  | cons b l =>
    dsimp only
    rw [hkey]
    rfl

theorem voteHandler_fatal {s : State} {c : Crew} {uid gi : Nat} {g : Group} {e : Ent} {cyc : Nat} (hc : s.crew? uid = some c)
    (hn : voteOf (s.nexts c g e.lanes).2 ≠ []) (hkey : s.keyOf c (voteOf (s.nexts c g e.lanes).2) = none) :
    (s.voteHandler c uid gi g e cyc).kills = s.kills ++ [⟨c.region, c.part, 1, c.taskId⟩] ∧ ((s.voteHandler c uid gi g e cyc).crew? uid).map (·.stopped) = some true := by
  obtain ⟨c', hc', hasleep⟩ := crew?_of_seats (congrArg Prod.fst (State.nexts_seats s c g e.lanes)) hc
  have hcrew : (s.handlerTaken c uid gi g e.lanes cyc).crew? uid = some (c'.modGroup gi (fun x => x.handlerVoted (s.nexts c g e.lanes).2 cyc)) := by
    rw [State.handlerTaken, State.crew?_modGroup, hc']; rfl
  obtain ⟨hstop, hkills, -⟩ := fatal_spec _ uid 1 _ hcrew
  have hwho : (⟨c'.region, c'.part, 1, c'.taskId⟩ : KillReq) = ⟨c.region, c.part, 1, c.taskId⟩ := by
    show (⟨c'.asleep.region, c'.asleep.part, 1, c'.asleep.taskId⟩ : KillReq) = ⟨c.asleep.region, c.asleep.part, 1, c.asleep.taskId⟩
    rw [hasleep]
  rw [voteHandler_of_no_key hn hkey]
  refine ⟨?_, by rw [hstop]; rfl⟩
  rw [hkills]
  show (s.nexts c g e.lanes).1.kills ++ [⟨c'.region, c'.part, 1, c'.taskId⟩] = _
  rw [State.nexts_kills, hwho]

theorem voteHandler_enters {s : State} {c : Crew} {uid gi st : Nat} {g : Group} {h : Handler} {cyc : Nat} (hg : s.group? uid gi = some g)
    (hh : g.handler = some h) (hn : voteOf (s.nexts c g h.ent.lanes).2 ≠ []) (hkey : s.keyOf c (voteOf (s.nexts c g h.ent.lanes).2) = some st) :
    ((s.voteHandler c uid gi g h.ent cyc).ent? ⟨uid, gi, handlerIdx⟩).map (·.st) = some st := by
  obtain ⟨g0, hg0, hasleep⟩ := group?_of_seats (State.nexts_seats s c g h.ent.lanes) hg
  have hh0 : g0.handler = some h := by rw [eq_of_asleep hasleep]; exact hh
  obtain ⟨e1, he1⟩ := Group.handlerVoted_ent? hh0 (s.nexts c g h.ent.lanes).2 cyc
  have hg1 : (s.handlerTaken c uid gi g h.ent.lanes cyc).group? uid gi = some (g0.handlerVoted (s.nexts c g h.ent.lanes).2 cyc) := by
    rw [State.handlerTaken, State.group?_modGroup, hg0]; rfl
  obtain ⟨e', he', hst⟩ := enter_ent? (m := ⟨uid, gi, handlerIdx⟩) hg1 he1 st
  rw [voteHandler_of_key hn hkey]
  rw [State.afterVote, State.ent?_modEnt _ _ _ (fun e => { e with readyAt := cyc + 1 }) (fun _ => rfl), if_pos rfl, he']
  exact congrArg some hst

/-! ### Parked lanes -/

/-- Split 0, in which parked lanes come back (R40, R75). -/
def unparked (lanes : Word) (cyc : Nat) : Ent := { newEnt 0 lanes (cyc + 1) with met := true }

/-- The one parked set of a group comes back when nothing is active or deferred (R40). -/
theorem release_one {r : CamRun} {uid gi b : Nat} {g : Group} {lanes : Word} (hg : r.s.group? uid gi = some g) (hents : g.ents = []) (hdef : g.deferred = [])
    (hpark : g.parked = [(b, lanes)]) (c : Crew) (cyc : Nat) : r.release c uid gi cyc =
      let st := (((r.s.image? c.img).getD default).succ? [b]).getD (r.s.homeOf c b)
      { r with s := (r.s.modGroup uid gi (fun g => { g with parked := g.parked.filter (fun d => d.1 != b), ents := [unparked lanes cyc] })).enter ⟨uid, gi, 0⟩ st } := by
  unfold CamRun.release
  dsimp only
  rw [CamRun.group_of_some hg, if_pos ⟨hents, hdef⟩, hpark]
  rfl

theorem fillSlots_of_no_deferred {r : CamRun} {uid gi : Nat} (h : (r.group uid gi).deferred = []) (c : Crew) (cyc : Nat) : r.fillSlots c uid gi cyc = r := by
  unfold CamRun.fillSlots
  generalize List.range 4 = l
  induction l with
  | nil => rfl
  | cons i l ih =>
    rw [List.foldl_cons]
    dsimp only
    rw [h]
    exact ih

theorem camCycle_of_no_voter {s : State} {g : Group} (hents : g.ents = []) (c : Crew) (uid gi cyc : Nat) : s.camCycle c uid gi g cyc =
    (((CamRun.mk (s.modGroup uid gi (fun x => (x.land cyc).takeBallots [])) [] [] []).release c uid gi cyc).fillSlots c uid gi cyc).rotate c uid gi cyc := by
  have hballots : s.ballots c g cyc = (s, []) := by rw [State.ballots, hents]; rfl
  unfold State.camCycle
  dsimp only
  rw [hballots]
  rfl

/-- The cycle of a group whose lanes are all parked at one block: they enter the block's successor, or its home state, as split 0. -/
theorem camCycle_releases {s : State} {c : Crew} {uid gi b : Nat} {g : Group} {lanes : Word} {a : List Arrival} (hg : s.group? uid gi = some g)
    (hcalls : s.callsAt uid = some (a, none)) (hents : g.ents = []) (hdef : g.deferred = []) (hpark : g.parked = [(b, lanes)]) (cyc : Nat) :
    ∃ (s' : State) (g' : Group) (e' : Ent), s.camCycle c uid gi g cyc = ⟨s', [], [], []⟩ ∧ s'.callsAt uid = some (a, none) ∧ s'.group? uid gi = some g' ∧
      g'.traps = g.traps ∧ g'.atVote = g.atVote ∧ g'.deferred = [] ∧ g'.parked = [] ∧ g'.ents = [e'] ∧
      e'.idx = 0 ∧ e'.lanes = lanes ∧ e'.pos = 0 ∧ e'.st = (((s.image? c.img).getD default).succ? [b]).getD (s.homeOf c b) := by
  let land := fun x : Group => (x.land cyc).takeBallots []
  let unpark := fun x : Group => { x with parked := x.parked.filter (fun d => d.1 != b), ents := [unparked lanes cyc] }
  let st := (((s.image? c.img).getD default).succ? [b]).getD (s.homeOf c b)
  let s2 := (s.modGroup uid gi land).modGroup uid gi unpark
  obtain ⟨v, p, r, hland⟩ := g.land_rest cyc
  have hlanded : land g = { g with v := v, p := p, s := r, pend := g.pend.filter (fun p => !decide (p.due ≤ cyc)), ents := [] } := by
    show (g.land cyc).takeBallots [] = _
    rw [hland]
    show ({ g with v := v, p := p, s := r, pend := _, ents := g.ents.map _ } : Group) = _
    rw [hents]
    rfl
  have hg1 : (s.modGroup uid gi land).group? uid gi = some (land g) := by rw [State.group?_modGroup, hg]; rfl
  have hhome : (s.modGroup uid gi land).homeOf c b = s.homeOf c b := congrArg descHome (desc_modGroup s c b uid gi fun x => by
    obtain ⟨v, p, r, h⟩ := x.land_rest cyc
    show (x.land cyc).mws = _
    rw [h])
  obtain ⟨c0, hc0, hc0calls⟩ := Option.map_eq_some_iff.mp hcalls
  have hc2 : s2.crew? uid = some ((c0.modGroup gi land).modGroup gi unpark) := by
    rw [State.crew?_modGroup, State.crew?_modGroup, hc0]; rfl
  obtain ⟨cores, code, w, henter⟩ := enter_eq (m := ⟨uid, gi, 0⟩) st hc2
  have hg2 : s2.group? uid gi = some (unpark (land g)) := by rw [State.group?_modGroup, hg1]; rfl
  have hgroup : (s2.enter ⟨uid, gi, 0⟩ st).group? uid gi = some ((unpark (land g)).enterAt 0 st code w s2.nextSeq) := by
    rw [henter, State.group?_modGroup]
    exact (congrArg (Option.map _) hg2).trans rfl
  have hone := enterAt_one (g := unpark (land g)) (e := unparked lanes cyc) rfl (show 0 ≠ handlerIdx by decide) st code w s2.nextSeq
  refine ⟨s2.enter ⟨uid, gi, 0⟩ st, _, (unparked lanes cyc).entered st code w s2.nextSeq, ?_, ?_, hgroup.trans (congrArg some hone), ?_, ?_, ?_, ?_, rfl, rfl, rfl, rfl, rfl⟩
  · have hrelease : (CamRun.mk (s.modGroup uid gi land) [] [] []).release c uid gi cyc = ⟨s2.enter ⟨uid, gi, 0⟩ st, [], [], []⟩ := by
      rw [release_one (r := CamRun.mk (s.modGroup uid gi land) [] [] []) hg1 (by rw [hlanded]) (by rw [hlanded]; exact hdef) (by rw [hlanded]; exact hpark) c cyc]
      dsimp only
      rw [hhome]
      rfl
    have hnone : (CamRun.mk (s2.enter ⟨uid, gi, 0⟩ st) [] [] []).group uid gi = _ := CamRun.group_of_some (hgroup.trans (congrArg some hone))
    rw [camCycle_of_no_voter hents, hrelease, fillSlots_of_no_deferred (by rw [hnone]; show (land g).deferred = []; rw [hlanded]; exact hdef)]
    rfl
  · rw [State.enter_callsAt, State.modGroup_callsAt, State.modGroup_callsAt, hcalls]
  · dsimp only; rw [hlanded]
  · dsimp only; rw [hlanded]
  · dsimp only; rw [hlanded]; exact hdef
  · dsimp only; rw [hlanded]; show g.parked.filter _ = []; rw [hpark, List.filter_cons]; simp

theorem isSplit_one {g : Group} {e : Ent} (hents : g.ents = [e]) (hdef : g.deferred = []) (hpark : g.parked = []) : g.isSplit = false := by
  rw [Group.isSplit, hents, hdef, hpark]; rfl

/-- Parked lanes alone come back, and the group goes on (R40). -/
theorem splitGroupCycle_releases {g : GRef} {s : State} {c : Crew} {gr : Group} {b : Nat} {lanes : Word} (hc : s.crew? g.crew = some c)
    (hg : s.group? g.crew g.grp = some gr) (hphase : c.phase = .resident) (hstop : c.stopped = false) (hret : gr.retired = false) (hnone : gr.handler = none)
    (htraps : gr.traps = []) (hents : gr.ents = []) (hdef : gr.deferred = []) (hpark : gr.parked = [(b, lanes)]) (hlanes : lanes ≠ 0) (hvote : gr.atVote = [])
    (hpre : c.preempt = none) (hheld : s.camHeld c gr [] = false) :
    ∃ (t : State) (g' : Group) (e' : Ent), exec (.splitGroupCycle g) s = .next t ∧ t.group? g.crew g.grp = some g' ∧ g'.parked = [] ∧ g'.ents = [e'] ∧
      e'.idx = 0 ∧ e'.lanes = lanes ∧ e'.pos = 0 ∧ e'.st = (((s.image? c.img).getD default).succ? [b]).getD (s.homeOf c b) := by
  have hcalls : s.callsAt g.crew = some (c.rdv, none) := by rw [State.callsAt, hc, Option.map_some, hpre]
  obtain ⟨s', g', e', hcycle, hcalls', hg', htraps', hvote', hdef', hpark', hents', hidx, hlanes', hpos, hst⟩ :=
    camCycle_releases hg hcalls hents hdef hpark (s.cyc c.core)
  have hlive : g'.liveMask ≠ 0 := fun h0 => hlanes (BitVec.eq_of_getLsbD_eq fun i _ => by
    cases hi : lanes.getLsbD i with
    | false => simp
    | true =>
      have hbit := Group.liveMask_of_ent (g := g') (e := e') (by rw [hents']; exact List.mem_singleton_self _) (by rw [hlanes']; exact hi)
      rw [h0] at hbit
      exact hbit.symm)
  have hwhole : g'.whole = { g' with ents := [{ e' with mark := false, entries := 0 }] } := by
    rw [Group.whole, isSplit_one hents' hdef' hpark', if_neg Bool.false_ne_true, hents']
    rfl
  have hgroup : (s'.modGroup g.crew g.grp Group.whole).group? g.crew g.grp = some { g' with ents := [{ e' with mark := false, entries := 0 }] } := by
    rw [State.group?_modGroup, hg', Option.map_some, hwhole]
  have hidle : gr.camIdle = true := by
    unfold Group.camIdle Group.camRuns
    rw [hnone, htraps, hents, hdef, hpark]
    rfl
  have hsplit : gr.isSplit = true := by
    unfold Group.isSplit
    rw [hents, hdef, hpark]
    rfl
  have hgo : ¬ (c.phase ≠ .resident ∨ c.stopped ∨ gr.retired ∨ !gr.isSplit ∨ (gr.ents.filter (gr.votes (s.cyc c.core)) = [] ∧ !gr.camIdle) ∨
      s.camHeld c gr (gr.ents.filter (gr.votes (s.cyc c.core)))) := by
    rw [hents, List.filter_nil, hheld, hidle, hsplit, hphase, hstop, hret]
    simp
  refine ⟨s'.modGroup g.crew g.grp Group.whole, _, { e' with mark := false, entries := 0 }, ?_, hgroup, hpark', rfl, hidx, hlanes', hpos, hst⟩
  have hlive' : ((⟨s', [], [], []⟩ : CamRun).group g.crew g.grp).liveMask ≠ 0 := by
    rw [CamRun.group_of_some (r := ⟨s', [], [], []⟩) hg']
    exact hlive
  have hcalm := atBoundary_calm (s := s'.modGroup g.crew g.grp Group.whole) (by rw [State.modGroup_callsAt]; exact hcalls') hgroup (hvote'.trans hvote) (htraps'.trans htraps)
  show execSplitGroupCycle g s = _
  unfold execSplitGroupCycle
  rw [hc, hg]
  dsimp only
  rw [if_neg hgo, hcycle, if_neg hlive']
  exact congrArg Host.Outcome.next (hcalm _)

/-! ### The votes of groups -/

/-- An entity of a group outside a handler votes only where no trap is held (R48). -/
theorem votes_traps {g : Group} {cyc : Nat} {e : Ent} (h : g.votes cyc e = true) (hnone : g.handler = none) (hi : e.idx ≠ handlerIdx) : g.traps = [] := by
  unfold Group.votes Group.free? at h
  rw [hnone] at h
  simp only [Bool.and_eq_true, if_neg hi, List.isEmpty_iff] at h
  obtain ⟨⟨⟨⟨⟨-, -, htraps, -⟩, -⟩, -⟩, -⟩, -⟩ := h
  exact htraps

theorem whole_of_not_split {g : Group} (h : g.isSplit = false) : g.deferred = [] ∧ g.parked = [] := by
  unfold Group.isSplit at h
  simp only [Bool.or_eq_false_iff, Bool.not_eq_false', List.isEmpty_iff] at h
  exact ⟨h.1.2, h.2⟩

/-- The vote of an unsplit group takes place where nothing holds it. -/
theorem stateVote_whole {g : GRef} {s : State} {c : Crew} {gr : Group} {e : Ent} (hc : s.crew? g.crew = some c) (hg : s.group? g.crew g.grp = some gr)
    (hphase : c.phase = .resident) (hstop : c.stopped = false) (hret : gr.retired = false) (hnone : gr.handler = none) (hents : gr.ents = [e]) (hsplit : gr.isSplit = false)
    (hvotes : gr.votes (s.cyc c.core) e = true) (hheld : s.lastHeld c gr e.lanes = false) :
    exec (.stateVote g) s = .next (s.voteWhole c g.crew g.grp gr e (s.cyc c.core)) := by
  show execStateVote g s = _
  unfold execStateVote
  rw [hc, hg]
  dsimp only
  rw [if_neg (by rw [hphase, hstop, hret]; simp), hnone]
  dsimp only
  rw [hents]
  exact if_pos (by rw [hsplit, hvotes, hheld]; rfl)

theorem stateVote_handler {g : GRef} {s : State} {c : Crew} {gr : Group} {h : Handler} (hc : s.crew? g.crew = some c) (hg : s.group? g.crew g.grp = some gr)
    (hphase : c.phase = .resident) (hstop : c.stopped = false) (hret : gr.retired = false) (hh : gr.handler = some h) (hvotes : gr.votes (s.cyc c.core) h.ent = true)
    (hheld : s.descHeld c gr h.ent.lanes = false) : exec (.stateVote g) s = .next (s.voteHandler c g.crew g.grp gr h.ent (s.cyc c.core)) := by
  show execStateVote g s = _
  unfold execStateVote
  rw [hc, hg]
  dsimp only
  rw [if_neg (by rw [hphase, hstop, hret]; simp), hh]
  exact if_pos (by rw [hvotes, hheld]; rfl)

theorem voteWhole_retires {s : State} {c : Crew} {uid gi : Nat} {g : Group} {e : Ent} (hc : s.crew? uid = some c) (hg : s.group? uid gi = some g)
    (hn : voteOf (s.nexts c g e.lanes).2 = []) (hrdv : c.rdv = []) (cyc : Nat) :
    ∃ g', (s.voteWhole c uid gi g e cyc).group? uid gi = some g' ∧ g'.retired = true ∧ g'.nblk = 0 ∧ g'.ents = [] := by
  obtain ⟨g0, hg0, -⟩ := group?_of_seats (State.nexts_seats s c g e.lanes) hg
  have hg1 : (s.voteTaken c uid gi g e.lanes cyc).group? uid gi = some ((g0.land cyc).takeNexts (s.nexts c g e.lanes).2) := by
    rw [State.voteTaken, State.group?_modGroup, hg0]; rfl
  obtain ⟨q, hq⟩ := retireNow_group? hg1
  have hcalls : ((s.voteTaken c uid gi g e.lanes cyc).retireNow uid gi).callsAt uid = some ([], c.preempt) := by
    rw [State.retireNow_callsAt, State.voteTaken, State.modGroup_callsAt, callsAt_of_seats (State.nexts_seats s c g e.lanes) hc, hrdv]
  rw [voteWhole_of_no_lane hn, State.retireGroup, settleRdv_of_no_arrivals hcalls]
  exact ⟨_, hq, rfl, rfl, rfl⟩

theorem voteTaken_crew? {s : State} {c : Crew} {uid : Nat} (hc : s.crew? uid = some c) (gi : Nat) (g : Group) (lanes : Word) (cyc : Nat) :
    ∃ c1, (s.voteTaken c uid gi g lanes cyc).crew? uid = some c1 ∧ c1.img = c.img := by
  obtain ⟨c', hc', hasleep⟩ := crew?_of_seats (congrArg Prod.fst (State.nexts_seats s c g lanes)) hc
  have himg : c'.asleep.img = c.asleep.img := congrArg Crew.img hasleep
  refine ⟨c'.modGroup gi (fun x => (x.land cyc).takeNexts (s.nexts c g lanes).2), ?_, himg⟩
  rw [State.voteTaken, State.crew?_modGroup, hc']
  rfl

/-- Settles O43: the votes of unsplit groups and of handlers, the release of parked lanes, and the mark of the 1,024th entry. -/
theorem voteSteps : Obligations.VoteSteps := by
  unfold Obligations.VoteSteps
  refine ⟨?_, ?_, ?_, ?_⟩
  · intro g s c gr e hc hg hphase hstop hret hnone hents hsplit hvotes hheld
    have hexec := stateVote_whole hc hg hphase hstop hret hnone hents hsplit hvotes hheld
    obtain ⟨hdef, hpark⟩ := whole_of_not_split hsplit
    refine ⟨fun hn hrdv => ?_, fun hidx hvalid hvote hpre hn => ?_⟩
    · obtain ⟨g', hg', hrest⟩ := voteWhole_retires hc hg hn hrdv (s.cyc c.core)
      exact ⟨_, g', hexec, hg', hrest⟩
    · have hi : e.idx ≠ handlerIdx := Nat.ne_of_lt hidx
      have htraps := votes_traps hvotes hnone hi
      obtain ⟨g1, hg1, hvoted⟩ := voteTaken_group? hg hents hdef hpark hvalid hn (s.cyc c.core)
      have hcalls : (s.voteTaken c g.crew g.grp gr e.lanes (s.cyc c.core)).callsAt g.crew = some (c.rdv, none) := by
        rw [State.voteTaken, State.modGroup_callsAt, callsAt_of_seats (State.nexts_seats s c gr e.lanes) hc, hpre]
      have henters := fun st => enterVote_enters hg1 hvoted hcalls hi hvote htraps st (s.cyc c.core)
      refine ⟨fun st hkey => ?_, fun b hkey hone hstub hmerge => ?_, fun b hkey hone hstub hmerge => ?_, fun b entry home hkey hone hstub hentry => ?_, fun hkey hmany => ?_⟩
      · rw [voteWhole_of_key hn hkey] at hexec
        obtain ⟨g', e', hall⟩ := henters st
        exact ⟨_, g', e', hexec, hall⟩
      · rw [voteWhole_of_one hone hkey, if_neg (by rw [hstub]; decide), if_neg (by rw [hmerge]; decide)] at hexec
        obtain ⟨g', e', hall⟩ := henters _
        exact ⟨_, g', e', hexec, hall⟩
      · rw [voteWhole_of_one hone hkey, if_neg (by rw [hstub]; decide), if_pos hmerge] at hexec
        have hmerge1 := (congrArg descMerge (voteTaken_desc s c g.crew g.grp gr e.lanes (s.cyc c.core) b)).trans hmerge
        obtain ⟨g', hall⟩ := splitVote_parks hg1 hvoted hcalls hvote htraps hone hmerge1 (s.cyc c.core)
        exact ⟨_, g', hexec, hall⟩
      · rw [voteWhole_of_one hone hkey, if_pos hstub] at hexec
        obtain ⟨c1, hc1, himg⟩ := voteTaken_crew? hc g.grp gr e.lanes (s.cyc c.core)
        obtain ⟨-, ⟨v, p, r, pend, latch, hrest⟩, -⟩ := hvoted
        have hat : DeliversAtOnce g1 e.idx := by
          rw [hrest]
          refine ⟨hnone, htraps, fun x hx => .inl ?_⟩
          rw [List.mem_singleton.mp hx]
        obtain ⟨g', hall⟩ := raise_binding hg1 hc1 hi hat ((handlerEntry_congr _ himg 1).trans hentry) (BitVec.ofNat 64 b)
        exact ⟨_, g', hexec, hall⟩
      · rw [voteWhole_of_overflow hmany hkey] at hexec
        obtain ⟨g', hall⟩ := splitVote_keeps hg1 hvoted c (s.cyc c.core)
        exact ⟨_, g', hexec, hall⟩
  · exact fun g s c gr b lanes hc hg hphase hstop hret hnone htraps hents hdef hpark hlanes hvote hpre hheld =>
      splitGroupCycle_releases hc hg hphase hstop hret hnone htraps hents hdef hpark hlanes hvote hpre hheld
  · intro m s g e hg he hsplit hent hcount hmark
    have hs : s.ent? m = some e := (State.ent?_of_group hg).trans he
    refine ⟨s.modEnt m (fun e => { e with mark := true }), ?_, onlyGroup_modGroup .., ?_⟩
    · show execStateEntryCountLimit m s = _
      unfold execStateEntryCountLimit
      rw [hg, hs]
      exact if_pos (by rw [hsplit, hmark, decide_eq_true hcount, bne_iff_ne.mpr hent]; rfl)
    · rw [State.ent?_modEnt s m m (fun e => { e with mark := true }) (fun _ => rfl), if_pos rfl, hs]
      rfl
  · intro g s c gr h hc hg hphase hstop hret hh hvotes hheld
    have hexec := stateVote_handler hc hg hphase hstop hret hh hvotes hheld
    refine ⟨fun hn hkey => ?_, fun st hn hkey => ?_⟩
    · obtain ⟨hkills, hstopped⟩ := voteHandler_fatal (gi := g.grp) (cyc := s.cyc c.core) hc hn hkey
      exact ⟨_, hexec, hkills, hstopped⟩
    · exact ⟨_, hexec, voteHandler_enters hg hh hn hkey⟩

end Sys2Proof.Machine
end


section
/-!
PROOFS. A flip that writes an accessed bit into the line of an armed monitor (R122, R356, R357, R366).
-/

namespace Sys2Proof.Machine

open Sys2Proof.Claims

/-! ### A crew that flips while it watches its own page table

The crew's image is reserved and its group has executed PMDONE, so it may flip. The group has armed the line of the page table that maps it, and a translation through that
table is still in the crew's TLB. In harvest mode its accessed bit reaches the table when the crew leaves its core (R357), and that write sets the group's latch (R122). -/

/-- The page tables, in host memory: the root's first entry names the table at 0x1000, whose first entry maps 1 GiB of host memory from address 0 on. -/
def watchedTables : Memory := [(hostKey 0, 0x01), (hostKey 1, 0x10), (hostKey 6, 0x20), (hostKey 0x1000, 0x03), (hostKey 0x1006, 0x20)]

/-- The group after PMDONE, with the line of virtual address 0x1000 armed, which is the line of that table. -/
def watcher (g : Group) : Group := { g with preDone := true, preTaken := true, monitors := [⟨0, 16, 0, some (hostKey 0x1000)⟩] }

/-- The state before the flip. -/
def watchedFlip : State :=
  let s := (State.reset.withFetchWord 96 0).modGroup 0 0 watcher
  { s.modCrew 0 (fun c => { c with preempt := some 100, image := some c.imageKiB }) with
    mem := watchedTables
    issue := []
    tlb1 := [⟨0, 0, 0, 0, 2 ^ 30, 0x0020000000000003, 0, hostKey 0x1000, true, false⟩]
    dev := { Dev.init with ready := true, parts := Dev.init.parts.set 0 { Part.init with ptroot := 0x0020000000000000 } } }

/-- The crew before the flip. -/
def watchedCrew : Crew := (watchedFlip.crew? 0).getD default

/-- The latches of a crew's groups after a step. -/
def latchesAfter (i : Instr) (s : State) (u : Nat) : List (Option Latch) :=
  match exec i s with
  | .next t => ((t.crew? u).map (fun c => c.groups.map (·.latch))).getD []
  | _ => []

theorem latchesAfter_next {i : Instr} {s t : State} {u : Nat} {c : Crew} (h : exec i s = .next t) (hc : t.crew? u = some c) : latchesAfter i s u = c.groups.map (·.latch) := by
  rw [latchesAfter, h]
  dsimp only
  rw [hc]
  rfl

theorem watchedFlip_crew : watchedFlip.crew? 0 = some watchedCrew :=
  have hs : (watchedFlip.crew? 0).isSome = true := by decide +kernel
  have ⟨_, hc⟩ := Option.isSome_iff_exists.mp hs
  hc.trans (congrArg some (congrArg (Option.getD · default) hc).symm)

/-- The crew has come to rest on its core, and PREEMPT is raised in it. -/
theorem watchedCrew_rests : watchedCrew.phase = .resident ∧ watchedCrew.preempt.isSome = true ∧ watchedCrew.stopped = false ∧
    (∀ g ∈ watchedCrew.groups, g.atRest = true) ∧ (∃ g ∈ watchedCrew.groups, g.retired = false) := by decide +kernel

/-- Its core is idle, and no shadow half is in its way. -/
theorem watchedCore_idle : watchedCrew.core < watchedFlip.cores.length ∧ (watchedFlip.core watchedCrew.core).matrix = [] ∧ (watchedFlip.core watchedCrew.core).beryl = [] ∧
    watchedFlip.shadowMeets watchedCrew.core watchedCrew.obBase watchedCrew.obKiB watchedCrew.accBase watchedCrew.accN watchedCrew.scrKiB = false := by decide +kernel

/-- No latch of it is set before the flip. -/
theorem watchedCrew_latches : (watchedCrew.groups.map Group.landAll).map (·.latch) = [none] := by decide +kernel

/-- The flip sets one. -/
theorem watchedFlip_latches : latchesAfter (.crewFlip 0) watchedFlip 0 = [some ⟨some 0, none, false⟩] := by decide +kernel

/-- Refutes O47: its clause for a flip leaves a crew's groups as they are but for landed registers, but in `watchedFlip` the accessed bit that the flip writes to the page
table (R357) is a write to a line that the group has armed, and sets its latch (R122). -/
theorem not_contextSteps : ¬ Obligations.ContextSteps := by
  unfold Obligations.ContextSteps
  rintro ⟨hcrew, -⟩
  obtain ⟨-, -, hflip, -⟩ := hcrew 0 watchedFlip watchedCrew watchedFlip_crew
  obtain ⟨hphase, hpre, hstop, hrest, hlive⟩ := watchedCrew_rests
  obtain ⟨hcore, hmatrix, hberyl, hshadow⟩ := watchedCore_idle
  obtain ⟨t, ht, ⟨c', hc', -, -, hgroups⟩, -⟩ := hflip hphase hpre hstop hrest hlive hcore (by rw [hmatrix]; exact fun _ h => nomatch h)
    (by rw [hberyl]; exact fun _ h => nomatch h) hshadow
  have hboth : [some ⟨some 0, none, false⟩] = [(none : Option Latch)] :=
    calc [some ⟨some 0, none, false⟩] = latchesAfter (.crewFlip 0) watchedFlip 0 := watchedFlip_latches.symm
      _ = c'.groups.map (·.latch) := latchesAfter_next ht hc'
      _ = [none] := by rw [hgroups]; exact watchedCrew_latches
  exact absurd hboth (by decide)

end Sys2Proof.Machine
end


section
/-!
PROOFS. Float words that compute per sub-element: arithmetic, minimum and maximum, compare, classify, round and scale (R98, R215 to R222, R319).
-/

namespace Sys2Proof.Machine

open Sys2Proof.Claims

/-! ### Words that compute per sub-element of a float format -/

theorem fmtBits_cases (f : Fmt) : fmtBits f = 8 ∨ fmtBits f = 16 ∨ fmtBits f = 32 ∨ fmtBits f = 64 := by
  cases f <;> decide

/-- Every float word with a V destination runs to its end: it writes the executing sub-elements among the positions that it writes at all. -/
theorem floatWord_runs (o : Op) (w : Body) (wd : Nat) (pos : Nat → Bool) (f : Ctx → Nat → Nat → Res) {d : BitVec 8} {s t : State} {c : Ctx} (hd : w.dst = .v d)
    (h : Starts (o.mk w) s t c) (hwd : wd = 8 ∨ wd = 16 ∨ wd = 32 ∨ wd = 64) (hx : exec (o.mk w) s = floatWord o w wd pos f s) :
    ElemRunsV (o.mk w) w.hdr d.toNat s t c wd (latency o w) (fun l k => c.exec w.hdr wd l k && pos k) (fun l k => (f c l k).1) (fun l k => (f c l k).2) := by
  obtain ⟨g, hg⟩ := starts_group h
  let act := c.active w.hdr wd
  let written := fun (l k : Nat) => c.exec w.hdr wd l k && pos k
  have hsound : ∀ l, act.getLsbD l = false → ∀ k, k < 64 / wd → written l k = false := fun l hl k hk => by
    simp only [written, active_sound c w.hdr wd wd hwd (.inl rfl) l hl k hk, Bool.false_and]
  obtain ⟨u, g', he, hf, hr, hfl⟩ := writeFixed_effect t c w.hdr (latency o w) (guardWidth o w) act
    ((lanesOf act).map (fun l => RegW.v d.toNat l (BitVec.ofNat 64 (laneRes wd (written l) (f c l)).mask) (BitVec.ofNat 64 (laneRes wd (written l) (f c l)).val)))
    ((lanesOf act).map (fun l => (l, (laneRes wd (written l) (f c l)).fl))) g hg
  obtain ⟨hp, hs, hv, hev⟩ := mapV_lands d.toNat wd written (f c) act hsound hr
  refine ⟨u, g, g', ?_, hf, hp, hs, hv, hev, mapFlags_lands wd written (f c) act hsound hfl⟩
  rw [hx, floatWord, begin_of_starts h]
  simp only [hd, List.map_map, Function.comp_def]
  rw [← he]

/-- A float word that writes every executing sub-element. -/
theorem floatWord_runs_all (o : Op) (w : Body) (f : Ctx → Nat → Nat → Res) {d : BitVec 8} {s t : State} {c : Ctx} (hd : w.dst = .v d) (h : Starts (o.mk w) s t c)
    (hx : exec (o.mk w) s = floatWord o w (fmtBits (fmtOf w.ty.toNat)) (fun _ => true) f s) : FloatRuns (o.mk w) w d s t c (latency o w) (f c) := by
  have hrun := floatWord_runs o w _ (fun _ => true) f hd h (fmtBits_cases _) hx
  simp only [Bool.and_true] at hrun
  exact hrun

/-- A word of float arithmetic computes from the same sub-element of each source. -/
theorem arithWord_runs (o : Op) (w : Body) (f : Fmt → Nat → Nat → Nat → Res) {d : BitVec 8} {s t : State} {c : Ctx} (hd : w.dst = .v d) (h : Starts (o.mk w) s t c)
    (hx : exec (o.mk w) s = arithWord o w f s) :
    FloatRuns (o.mk w) w d s t c (latency o w) (fun l k => f (fmtOf w.ty.toNat) (fsrcA w c l k) (fsrcB w c l k) (fsrcC w c l k)) :=
  floatWord_runs_all o w _ hd h hx

/-! ### FCMP -/

/-- The conditions of R219 by their numbers. -/
theorem fCmp_eq (cond : Nat) (f : Fmt) (a b : Nat) :
    fCmp cond f a b = (let un := isNaN (numOf f a) || isNaN (numOf f b)
      let o := cmpNum (numOf f a) (numOf f b)
      match cond with
      | 0 => !un && decide (o = .eq)
      | 1 => un || decide (o ≠ .eq)
      | 2 => !un && decide (o = .lt)
      | 3 => !un && decide (o ≠ .lt)
      | 4 => !un && decide (o ≠ .gt)
      | 5 => !un && decide (o = .gt)
      | 6 => un
      | _ => !un, if isSNaN (numOf f a) || isSNaN (numOf f b) then 1 else 0) := by
  have heq : ∀ x y : Ordering, (x == y) = decide (x = y) := by decide
  have hne : ∀ x y : Ordering, (x != y) = decide (x ≠ y) := by decide
  unfold fCmp
  dsimp only
  refine Prod.ext ?_ rfl
  dsimp only
  split <;> simp only [heq, hne]

/-! ### The words -/

/-- The latency of a word whose binary64 form takes twice the cycles (R319). -/
theorem longLatency_eq (ty : BitVec 3) : (if (ty == 3) = true then 8 else 4) = if ty = 3 then 8 else 4 := if_congr beq_iff_eq rfl rfl

/-- Settles O25: the words of arithmetic share one run with the function of each, FSCALE reads its exponent as an integer, and FCMP is a compare into a predicate. -/
theorem floatResults : Obligations.FloatResults := by
  unfold Obligations.FloatResults
  intro w s t c f n a b x long
  have hlong : (if (w.ty == 3) = true then 8 else 4) = long := longLatency_eq w.ty
  refine ⟨fun d hd => ⟨fun h => ?_, fun h => ?_, fun h => ?_, fun h => ?_, fun h => ?_, fun h => ?_, fun h => ?_, fun h => ?_, fun h => ?_⟩, fun d hd _ h => ?_⟩
  · exact hlong ▸ arithWord_runs .fadd w (fun f a b _ => fAdd w.rm f a b) hd h rfl
  · exact hlong ▸ arithWord_runs .fsub w (fun f a b _ => fSub w.rm f a b) hd h rfl
  · exact hlong ▸ arithWord_runs .fmul w (fun f a b _ => fMul w.rm f a b) hd h rfl
  · exact hlong ▸ arithWord_runs .ffma w (fun f a b c => fFma w.rm f a b c) hd h rfl
  · exact arithWord_runs .fmin w (fun f a b _ => minMaxF f false a b) hd h rfl
  · exact arithWord_runs .fmax w (fun f a b _ => minMaxF f true a b) hd h rfl
  · exact arithWord_runs .fclass w (fun f a _ _ => plain (fClass f a)) hd h rfl
  · exact hlong ▸ arithWord_runs .fround w (fun f a _ _ => fRound (w.sub == 1) w.rm f a) hd h rfl
  · exact hlong ▸ floatWord_runs_all .fscale w
      (fun c l k => fScale w.rm f (getSub n k (c.val w.a (immFloat f w.imm) l)) (getSub n k (c.val w.b (immInt n false w.imm) l))) hd h rfl
  · have hrun := cmpWord_runs .fcmp w n (fun c l k => fCmp w.sub f (fsrcA w c l k) (fsrcB w c l k)) hd h (fmtBits_cases f) rfl
    simp only [fCmp_eq] at hrun
    exact hlong ▸ hrun

end Sys2Proof.Machine
end


section
/-!
PROOFS. A block word executes in the lanes whose guard is 1 at bit 0 (R230), and not in every lane that is Active.
-/

namespace Sys2Proof.Machine

open Sys2Proof.Claims

/-! ### A lane that is Active and does not execute a block word

The word is MXQ.e4m3.f16 V20, V0 under P1. In lane 0 the guard bits of sub-elements 0 to 3 of 16 bits are 0, 1, 0 and 0 (R162): the lane is in Active (R157), and as
Exec(0, 0) does not hold, it does not execute (R230). Its V20 keeps its value, where the block of its zeros would give 0. -/

/-- MXQ.e4m3.f16 V20, V0 under P1. -/
def guardedMxq : Body := ⟨⟨7, false, 1, 0, false, false⟩, 1, .v 20, .v 0, .v 0, .r ⟨.v 0, 0, 0, 0, 0, false, false, 0⟩⟩

/-- The registers of lane 0: in P1 the second sub-element of 16 bits alone, and 1 in V20. -/
def secondGuarded (g : Group) : Group := (g.setP 1 0 4).setV 20 0 1

/-- A group of a program of that word is about to run it. -/
def mxqState : State :=
  { (State.reset.withFetchWord 96 ((encode (.mxq guardedMxq)).getD 0).toNat).modGroup 0 0 secondGuarded with issue := [], cur := some ⟨⟨0, 0, 0⟩, 0, 0, 0⟩ }

/-- What the issuing entity is. -/
def mxqIssuer : Ctx := (mxqState.ctxOf ⟨0, 0, 0⟩ 0 7).getD default

/-- What its word sees. -/
def mxqView : Ctx := mxqState.view mxqIssuer (.mxq guardedMxq)

/-- The state in which its word takes effect. -/
def mxqStart : State := State.startOf mxqState ⟨⟨0, 0, 0⟩, 0, 0, 0⟩ mxqIssuer

/-- Byte 0 of V20 in lane 0 after a step, with every result landed. -/
def byteAfter (i : Instr) (s : State) : Option Nat :=
  match exec i s with
  | .next t => (t.group? 0 0).map (fun g => element g.landAll 20 8 0 0)
  | _ => none

theorem byteAfter_next {i : Instr} {s t : State} (h : exec i s = .next t) : byteAfter i s = (t.group? 0 0).map (fun g => element g.landAll 20 8 0 0) := by
  rw [byteAfter, h]

theorem mxq_issuer : mxqState.ctxOf ⟨0, 0, 0⟩ 0 7 = some mxqIssuer :=
  have hs : (mxqState.ctxOf ⟨0, 0, 0⟩ 0 7).isSome = true := by decide +kernel
  have ⟨_, hc⟩ := Option.isSome_iff_exists.mp hs
  hc.trans (congrArg some (congrArg (Option.getD · default) hc).symm)

/-- The crew is unchecked, and nothing keeps the word from its start. -/
theorem mxq_free : mxqView.crew.check = false ∧ mxqView.preMisuse (.mxq guardedMxq) (startAct (.mxq guardedMxq) mxqView) = none ∧
    unheld mxqView.g (instrUses (.mxq guardedMxq)).vregs = none ∧ ({ mxqState with cur := none } : State).heldBy mxqView (.mxq guardedMxq) = false := by decide +kernel

theorem mxq_starts : Starts (.mxq guardedMxq) mxqState mxqStart mxqView :=
  have ⟨hcheck, hlegal, hblocks, hfree⟩ := mxq_free
  ⟨⟨_, _, rfl, mxq_issuer, rfl, rfl, .inl hcheck⟩, hlegal, .inr hblocks, hfree⟩

/-- Lane 0 is in Active, but Exec(0, 0) does not hold. -/
theorem mxq_lane : active (.mxq guardedMxq) mxqView 0 = true ∧ mxqView.exec guardedMxq.hdr 16 0 0 = false := by decide +kernel

/-- Its group has no trap in wait. -/
theorem mxq_calm : mxqView.m.crew = 0 ∧ mxqView.m.grp = 0 ∧ (mxqStart.group? 0 0).map (·.traps) = some [] := by decide +kernel

/-- Element 0 of the block of lane 0 would be 0. -/
theorem mxq_element : ((mxQuant (guardedMxq.sub == 1) guardedMxq.rm (wideBlock mxqView (fmtOf guardedMxq.ty.toNat) 0 0)).2.1[0]?.getD 0) % 256 = 0 := by decide +kernel

/-- V20 keeps its 1. -/
theorem mxq_byteAfter : byteAfter (.mxq guardedMxq) mxqState = some 1 := by decide +kernel

/-- A word of fixed latency that leaves no trap in wait delivers none. -/
theorem deliver_of_fixedFrame {t u : State} {c : Ctx} {h : Hdr} {lat : Nat} {g g' : Group} (hf : FixedFrame t u c h lat g g') (hg : g.traps = []) :
    u.deliver c.m.crew c.m.grp = u := by
  refine deliver_of_no_traps fun x hx => ?_
  rw [hf.after] at hx
  obtain rfl := Option.some.inj hx
  exact (congrArg Group.traps hf.raw).trans hg

/-- Refutes O28: it has MXQ write the block of every active lane, but a lane executes a block word only where Exec(l, 0) holds as well (R230). Lane 0 of `mxqState` is active
through its second sub-element, and keeps V20. -/
theorem not_blockFormatResults : ¬ Obligations.BlockFormatResults := by
  unfold Obligations.BlockFormatResults
  intro h
  obtain ⟨hcrew, hgrp, htraps⟩ := mxq_calm
  obtain ⟨hmxq, -⟩ := (h guardedMxq 20 0 mxqState mxqStart mxqView rfl).1 rfl (by decide)
  obtain ⟨u, g, g', hu, hf, -, -, -, -, -, hpost⟩ := hmxq mxq_starts
  obtain ⟨hels, -⟩ := hpost 0 mxq_lane.1
  have hbefore : mxqStart.group? 0 0 = some g := by simpa only [hcrew, hgrp] using hf.before
  have hafter : u.group? 0 0 = some g' := by simpa only [hcrew, hgrp] using hf.after
  have hg : g.traps = [] := by simpa only [hbefore, Option.map_some, Option.some.injEq] using htraps
  rw [deliver_of_fixedFrame hf hg] at hu
  have hone : some (element g'.landAll 20 8 0 0) = some 1 := by
    calc some (element g'.landAll 20 8 0 0) = (u.group? 0 0).map (fun g => element g.landAll 20 8 0 0) := by rw [hafter]; rfl
      _ = byteAfter (.mxq guardedMxq) mxqState := (byteAfter_next hu).symm
      _ = some 1 := mxq_byteAfter
  have hzero : element g'.landAll 20 8 0 0 = 0 := (hels 0 (by norm_num)).trans mxq_element
  rw [hzero] at hone
  exact absurd hone (by decide)

end Sys2Proof.Machine
end


section
/-!
PROOFS. QRD's result and a result on its way that names no lane (R16, R149, R321).
-/

namespace Sys2Proof.Machine

open Sys2Proof.Claims

/-! ### A result on its way to lane 64

A group has lanes 0 to 63 (R16), and the model keeps register r of lane l at the place 64 r + l, so that lane 64 of V4 would be lane 0 of V5. By their names the two differ:
QRD's write of V5 does not wait behind a result for lane 64 of V4 (R321), which then lands over it. -/

/-- Coefficient 0 of Q0 is to be read into V5 of lane 0. -/
def readQ0 : BerylOp := ⟨0, 0, 5, 0, 0, 0, .rd 5 false 0 0 1⟩

/-- The group has a result on its way to lane 64 of V4. -/
def strayResult (g : Group) : Group := { g with pend := [⟨0, 0, 0, 0, 0, [], [.v 4 64 (BitVec.allOnes 64) 7], false⟩] }

/-- That read is the oldest word of the Beryl unit of core 0. -/
def strayState : State := ((State.reset.withFetchWord 96 0).modGroup 0 0 strayResult).modCore 0 (fun k => { k with beryl := [readQ0] })

/-- The group before the step. -/
def strayGroup : Group := (strayState.group? 0 0).getD default

/-- V5 of lane 0 after a step, with every result landed. -/
def v5After (i : Instr) (s : State) : Option Word :=
  match exec i s with
  | .next t => (t.group? 0 0).map (fun g => g.landAll.getV 5 0)
  | _ => none

theorem v5After_next {i : Instr} {s t : State} (h : exec i s = .next t) : v5After i s = (t.group? 0 0).map (fun g => g.landAll.getV 5 0) := by rw [v5After, h]

theorem stray_group : strayState.group? 0 0 = some strayGroup :=
  have hs : (strayState.group? 0 0).isSome = true := by decide +kernel
  have ⟨_, hg⟩ := Option.isSome_iff_exists.mp hs
  hg.trans (congrArg some (congrArg (Option.getD · default) hg).symm)

/-- The read is the oldest word, its group lives and holds V5, and coefficient 0 of Q0 is 0. -/
theorem stray_reads : (strayState.core 0).beryl = [readQ0] ∧ strayGroup.retired = false ∧ 5 < 16 * strayGroup.nblk ∧ (readOf (strayGroup.acc 0) false 0).1 = 0 := by decide +kernel

/-- The stray result lands in V5 of lane 0. -/
theorem stray_v5After : v5After (.berylOpComplete 0) strayState = some 7 := by decide +kernel

/-- Refutes O54: it has QRD's coefficient in its lanes once every result has landed, whatever results are on their way, and does not ask that these name lanes 0 to 63. In
`strayState` one names lane 64 of V4, and lands in lane 0 of V5 after QRD's. -/
theorem not_berylSteps : ¬ Obligations.BerylSteps := by
  unfold Obligations.BerylSteps
  intro h
  obtain ⟨hqueue, hlive, hheld, hcoef⟩ := stray_reads
  obtain ⟨t, ht, -, -, hgroup⟩ := h 0 strayState readQ0 [] hqueue
  obtain ⟨g', hg', -, -, -, -, -, -, -, -, -, -, hread⟩ := (hgroup strayGroup stray_group).2 (.inl hlive)
  have hzero : g'.landAll.getV 5 0 = 0 := by
    rw [(hread 5 false 0 0 1 rfl).1 0 (by norm_num) (by decide) hheld, Nat.add_zero, hcoef]; rfl
  have hseven : some (g'.landAll.getV 5 0) = some 7 := by
    calc some (g'.landAll.getV 5 0) = (t.group? 0 0).map (fun g => g.landAll.getV 5 0) := by
          rw [show t.group? 0 0 = some g' from hg']; rfl
      _ = v5After (.berylOpComplete 0) strayState := (v5After_next ht).symm
      _ = some 7 := stray_v5After
  rw [hzero] at hseven
  exact absurd hseven (by decide)

end Sys2Proof.Machine
end


section
/-!
PROOFS. MONITOR (R121, R239, R249).
-/

namespace Sys2Proof.Machine

open Sys2Proof.Claims

/-! ### Words that become outstanding -/

/-- A word whose effect is one change of its group, and from which something further follows, runs as GroupRunsThen says. -/
theorem groupRunsThen_of_issued {i : Instr} {h : Hdr} {s t : State} {c : Ctx} {f : Group → Group} {post : State → State} {g : Group}
    (hg : t.group? c.m.crew c.m.grp = some g) (hx : exec i s = .next (post ((t.modGroup c.m.crew c.m.grp f).issued c h))) : GroupRunsThen i h s t c f post := by
  refine ⟨t.modGroup c.m.crew c.m.grp (fun g => (f g).issue c h), g, (f g).issue c h, ?_, onlyGroup_modGroup .., hg, ?_, issued_of_issue .., Group.issue_rest ..⟩
  · rw [hx, State.issued_eq, State.modGroup_modGroup]
  · rw [State.group?_modGroup, hg]; rfl

/-- A word that joins the outstanding words of its group is issued as a memory word (R64, R120, R243). -/
theorem memIssues_of_addWord {i : Instr} {h : Hdr} {s t : State} {c : Ctx} {m : MemWord} {g : Group} (hg : t.group? c.m.crew c.m.grp = some g)
    (hseq : m.seq = t.nextSeq) (hx : exec i s = .next (t.addWord c h m)) : MemIssues i h s t c m := by
  refine groupRunsThen_of_issued hg (hx.trans ?_)
  rw [State.addWord, hseq]
  cases m.cnt <;> rfl

/-! ### The entity's one access -/

/-- The lowest of the active lanes is the first of them. -/
theorem take_one_lanesOf {act : Word} (h : act ≠ 0) : (lanesOf act).take 1 = [(lanesOf act).headD 0] := by
  cases hl : lanesOf act with
  | cons l ls => rfl
  | nil =>
    refine absurd (BitVec.eq_of_getLsbD_eq fun i _ => ?_) h
    exact (Bool.eq_false_of_not_eq_true fun hi => List.not_mem_nil (hl ▸ (mem_lanesOf act i).mpr hi)).trans BitVec.getLsbD_zero.symm

/-- The address of the lowest active lane is the only one that MONITOR forms (R249). -/
theorem laneAddrs_monitor (t : State) (c : Ctx) (w : Body) {act : Word} (h : act ≠ 0) :
    t.laneAddrs c .monitor w act = [((lanesOf act).headD 0, t.laneAddr c .monitor w ((lanesOf act).headD 0))] :=
  congrArg (List.map fun l => (l, t.laneAddr c .monitor w l)) (take_one_lanesOf h)

/-- The arm or disarm of a line as an outstanding word: its one access is that of lane 0 (R239, R249). -/
theorem memWordOf_arm (t : State) (c : Ctx) (w : Body) (line word va : Nat) (disarm : Bool) (act : Word) :
    t.memWordOf c .monitor w (.arm line word disarm) act [(0, .virt va)] =
      newWord t c w (.arm line word disarm) (loadsTo w.dst false) none act [] [virtAcc 0 va 8 0 0] := rfl

/-! ### The word -/

section

variable {w : Body} {s t : State} {c : Ctx} (h : Starts (.monitor w) s t c) (hact : startAct (.monitor w) c ≠ 0)

include h hact

/-- The clear form disarms every line (R249). -/
theorem monitor_clear (hclear : w.fm.subm = 2) : exec (.monitor w) s =
    .next ((t.modGroup c.m.crew c.m.grp Group.disarmAll).writeInterlocked c w.hdr (truths (.monitor w) c w.dst true)) := by
  show execMonitor w s = _
  rw [execMonitor, begin_of_starts h]
  exact (if_neg hact).trans (if_pos hclear)

/-- The other forms by the address that the lowest active lane forms (R239, R249). -/
theorem monitor_line (hclear : w.fm.subm ≠ 2) : exec (.monitor w) s =
    match t.laneAddr c .monitor w ((lanesOf (startAct (.monitor w) c)).headD 0) with
    | .bad cause info => t.trapWord c cause info
    | .virt va => .next (t.addWord c w.hdr (newWord t c w (.arm (va / 256) (va / 8 % 32) (decide (w.fm.subm = 1))) (loadsTo w.dst false) none
        (startAct (.monitor w) c) [] [virtAcc 0 va 8 0 0]))
    | .drop | .chip _ => .next (t.writeInterlocked c w.hdr (truths (.monitor w) c w.dst (decide (w.fm.subm = 1)))) := by
  show execMonitor w s = _
  rw [execMonitor, begin_of_starts h]
  refine (if_neg hact).trans ((if_neg hclear).trans ?_)
  dsimp only
  rw [show c.active w.hdr 0 = startAct (.monitor w) c from rfl, laneAddrs_monitor t c w hact]
  cases t.laneAddr c .monitor w ((lanesOf (startAct (.monitor w) c)).headD 0) with
  | bad cause info => rfl
  | drop => rfl
  | virt va => exact congrArg (fun m => Host.Outcome.next (t.addWord c w.hdr m)) (memWordOf_arm ..)
  | chip p => rfl

end

/-- Settles O33: the clear form, and the others by the address that the lowest active lane forms. -/
theorem monitorResults : Obligations.MonitorResults := by
  unfold Obligations.MonitorResults
  intro w s t c h hact
  obtain ⟨g, hg⟩ := starts_group h
  refine ⟨fun hclear => ?_, fun hform va haddr => ?_, fun hform haddr => ?_, fun hform cause info haddr => ?_⟩
  · refine groupRuns_of_issued hg ((monitor_clear h hact hclear).trans ?_)
    rw [State.writeInterlocked, State.modGroup_modGroup]
    rfl
  · exact memIssues_of_addWord hg rfl ((monitor_line h hact hform).trans (by rw [haddr]))
  · refine groupRuns_of_issued hg ((monitor_line h hact hform).trans ?_)
    obtain haddr | ⟨p, haddr⟩ := haddr <;> rw [haddr] <;> rfl
  · exact traps_of_trapWord ((monitor_line h hact hform).trans (by rw [haddr]))

end Sys2Proof.Machine
end


section
/-!
PROOFS. Copies that words begin: ACPY and CKICK (R106, R109, R115, R251, R252).
-/

namespace Sys2Proof.Machine

open Sys2Proof.Claims

/-! ### Groups of a changed crew -/

/-- A change of a crew that keeps its number and its groups leaves every group. -/
theorem group?_modCrew_of_groups {s : State} {uid v j : Nat} {f : Crew → Crew} {g : Group} (hg : s.group? v j = some g) (hf : ∀ c, (f c).uid = c.uid)
    (hgroups : ∀ c, (f c).groups = c.groups) : (s.modCrew uid f).group? v j = some g := by
  obtain ⟨x, hx, hxg⟩ := Option.bind_eq_some_iff.mp hg
  have hsame : (if x.uid = uid then f x else x).groups = x.groups := by
    split_ifs
    · exact hgroups x
    · rfl
  rw [State.group?, State.crew?_modCrew s uid v f hf, hx]
  exact (congrArg (·[j]?) hsame).trans hxg

/-! ### Checks at issue -/

/-- Where no address is bad no fault is found (R239). -/
theorem firstFault_of_noFault {as : List (Nat × LaneAddr)} (h : NoFault as) : firstFault as = none := by
  induction as using List.reverseRecOn with
  | nil => rfl
  | append_singleton as e ih =>
    have hlast : ∀ cause info, e.2 ≠ .bad cause info := h e (by simp)
    rw [firstFault_concat, ih fun a ha => h a (List.mem_append_left _ ha), laterFault]
    split
    · next he => exact absurd he (hlast _ _)
    · rfl

/-- An aligned scratch range within the crew's scratch has no fault (R60, R242). -/
theorem scratchAt_of_fits {c : Ctx} {off align size : Nat} {wr : Bool} (halign : off % align = 0) (hfits : off + size ≤ 1024 * c.crew.scrKiB) :
    c.scratchAt off align size wr = none := by
  rw [Ctx.scratchAt, if_neg (not_not.mpr halign), if_neg (Nat.not_lt.mpr hfits)]

/-- The FIELD of a misused operand (R173). -/
theorem fieldOf_eq (o : Opnd) (lo : Nat) : fieldOf o lo = if o = .imm then 22 else lo := by
  cases o <;> rfl

/-! ### Slots -/

/-- A copy that joins a core takes the lowest slot below 128 that no copy there holds (R106). -/
theorem addCopy_lowest {t : State} {core slot : Nat} (cp : Copy) (hlt : slot < 128) (hfree : ((t.core core).copies.map (·.slot)).contains slot = false)
    (hlow : ∀ j, j < slot → ((t.core core).copies.map (·.slot)).contains j = true) :
    t.addCopy core cp = t.modCore core (fun k => { k with copies := k.copies ++ [{ cp with slot := slot }] }) := by
  have hfind : (List.range 128).find? (fun i => !((t.core core).copies.map (·.slot)).contains i) = some slot :=
    List.find?_range_eq_some.mpr ⟨by rw [hfree]; rfl, List.mem_range.mpr hlt, fun j hj => by rw [hlow j hj]; rfl⟩
  rw [State.addCopy, hfind]
  rfl

/-! ### The words -/

/-- The active lanes of an ACPY with the source and the destination that each forms (R251). -/
def acpyEnds (w : Body) (t : State) (c : Ctx) : List (Nat × LaneAddr × LaneAddr) := (lanesOf (startAct (.acpy w) c)).map (fun l => (l, t.acpyLane c w l))

/-- The copy that an ACPY becomes, before it takes its slot: one part for each active lane (R109, R251). -/
def acpyCopy (w : Body) (t : State) (c : Ctx) : Copy :=
  ⟨0, c.m.crew, c.m.grp, t.nextSeq, .lanes ((acpyEnds w t c).map (fun e => ⟨e.1, memSize w.ty, spotOf e.2.1, spotOf e.2.2⟩)), c.uval w w.dst, false, none, [], [], [],
    t.acpyRanges c w (startAct (.acpy w) c), [], [], [], t.nextSeq⟩

/-- ACPY whose addresses and barrier are good is accepted as a copy (R109, R251). -/
theorem acpy_eq {w : Body} {s t : State} {c : Ctx} (h : Starts (.acpy w) s t c) (hact : startAct (.acpy w) c ≠ 0)
    (hbar : c.scratchAt (c.uval w w.dst) 16 16 true = none) (hgood : NoFault ((acpyEnds w t c).flatMap (fun e => [(e.1, e.2.1), (e.1, e.2.2)]))) :
    exec (.acpy w) s = .next ((({ t with nextSeq := t.nextSeq + 1 } : State).addCopy c.crew.core (acpyCopy w t c)).issued c w.hdr) := by
  have hnone : firstFault ((0, .drop) :: (acpyEnds w t c).flatMap (fun e => [(e.1, e.2.1), (e.1, e.2.2)])) = none :=
    firstFault_of_noFault (List.forall_mem_cons.mpr ⟨fun _ _ => LaneAddr.noConfusion, hgood⟩)
  show execAcpy w s = _
  rw [execAcpy, begin_of_starts h]
  refine (if_neg hact).trans ?_
  dsimp only
  rw [hbar, show (lanesOf (c.active w.hdr 0)).map (fun l => (l, t.acpyLane c w l)) = acpyEnds w t c from rfl, hnone]
  rfl

/-- CKICK with an active lane, by its count and its range (R252). -/
theorem ckick_eq {w : Body} {s t : State} {c : Ctx} (h : Starts (.ckick w) s t c) (hact : startAct (.ckick w) c ≠ 0) :
    let off := c.uval w w.a
    let n := c.uval w w.b
    exec (.ckick w) s = if n = 0 ∨ 64 < n then t.misuse c (fieldOf w.b 54)
      else match c.scratchAt off 64 (64 * n) false with
        | some (cause, info) => t.trapWord c cause info
        | none => .next ((({ t with nextSeq := t.nextSeq + 1 } : State).modCrew c.m.crew
            (fun x => { x with kicks := x.kicks ++ [⟨c.m.grp, t.nextSeq, off, n⟩] })).issued c w.hdr) := by
  show execCkick w s = _
  rw [execCkick, entityWord_starts (o := .ckick) h]
  exact if_neg hact

/-- Settles O37: ACPY in the slot that its search finds, CKICK by the branches of its meaning. -/
theorem copyWordsIssue : Obligations.CopyWordsIssue := by
  unfold Obligations.CopyWordsIssue
  intro w s t c
  refine ⟨fun h hact => ?_, fun h hact => ?_⟩
  · intro act sbar n ends spot free halign hfits hgood slot hslot hlow
    obtain ⟨g, hg⟩ := starts_group h
    have hspot : spot = spotOf := by
      funext a
      cases a <;> rfl
    obtain ⟨hlt, hunused⟩ : slot < 128 ∧ ((t.core c.crew.core).copies.map (·.slot)).contains slot = false := by
      simpa only [free, Bool.and_eq_true, decide_eq_true_eq, Bool.not_eq_true'] using hslot
    have hused : ∀ j, j < slot → ((t.core c.crew.core).copies.map (·.slot)).contains j = true := fun j hj => by
      have hj' := hlow j hj
      simpa only [free, decide_eq_true (hj.trans hlt), Bool.true_and, Bool.not_eq_false'] using hj'
    refine groupRuns_id hg ((acpy_eq h hact (scratchAt_of_fits halign hfits) hgood).trans ?_)
    rw [hspot]
    exact congrArg (fun u : State => Host.Outcome.next (u.issued c w.hdr)) (addCopy_lowest (acpyCopy w t c) hlt hunused hused)
  · intro off n
    obtain ⟨g, hg⟩ := starts_group h
    refine ⟨fun h1 h64 halign hfits => ?_, fun hcount => ?_⟩
    · have hcount : ¬ (n = 0 ∨ 64 < n) := by omega
      refine groupRuns_id (group?_modCrew_of_groups hg (fun _ => rfl) fun _ => rfl) ((ckick_eq h hact).trans ((if_neg hcount).trans ?_))
      rw [scratchAt_of_fits halign hfits]
    · refine traps_of_trapWord ((ckick_eq h hact).trans ((if_pos hcount).trans ?_))
      rw [fieldOf_eq]
      rfl

end Sys2Proof.Machine
end


section
/-!
PROOFS. Reservations and lane accesses of the matrix class (R128, R262, R264, R265, R271): OBRES, OBREL, OBST, OBLD, AMLD and AMST.
-/

namespace Sys2Proof.Machine

open Sys2Proof.Claims

/-! ### Words of the class -/

/-- A word of the matrix class whose entity has lanes does what its meaning says (R262). -/
theorem matWord_acts {o : Op} {w : Body} {s t : State} {c : Ctx} (h : Acts (o.mk w) s t c) (k : State → Ctx → Out) : matWord o w k s = k t c :=
  (begin_of_starts h.1 _).trans (if_neg h.2)

/-- A word that traps for a misuse of an operand (R173). -/
theorem traps_of_misuse {i : Instr} {s t : State} {c : Ctx} {field : Nat} (hx : exec i s = t.misuse c field) : Traps i s t c 0x10 (misuseInfo c field) := hx

/-! ### Reservations -/

theorem resvMeets_iff (a b : BitVec 64) :
    resvMeets a b = true ↔ ¬ (resvOff a + resvLen a < resvOff b ∨ resvOff b + resvLen b < resvOff a) := by
  rw [resvMeets, Bool.and_eq_true, decide_eq_true_iff, decide_eq_true_iff]
  omega

/-- A crew may take a reservation where it holds fewer than 8, the table has room, and the range lies in the allocation and meets none of the crew's (R128). -/
theorem resvOk_iff (s : State) (c : Crew) (r : BitVec 64) : s.resvOk c r = true ↔
    c.resv.length < 8 ∧ s.resvCount c.core < 64 ∧ resvOff r + resvLen r < c.obKiB ∧
      ∀ x ∈ c.resv, resvOff x.2 + resvLen x.2 < resvOff r ∨ resvOff r + resvLen r < resvOff x.2 := by
  have hmeets : (!c.resv.any (fun x => resvMeets x.2 r)) = true ↔
      ∀ x ∈ c.resv, resvOff x.2 + resvLen x.2 < resvOff r ∨ resvOff r + resvLen r < resvOff x.2 := by
    simp only [Bool.not_eq_true', List.any_eq_false, resvMeets_iff, not_not]
  rw [State.resvOk, Bool.and_eq_true, Bool.and_eq_true, Bool.and_eq_true, decide_eq_true_iff, decide_eq_true_iff, decide_eq_true_iff, hmeets, and_assoc, and_assoc,
    Nat.succ_le_iff]

/-- The first number of a range that satisfies a test is the lowest that does. -/
theorem find?_range_lowest {n f : Nat} {p : Nat → Bool} (hf : f < n) (hp : p f = true) (hlow : ∀ j, j < f → p j = false) : (List.range n).find? p = some f := by
  refine List.find?_range_eq_some.mpr ⟨hp, List.mem_range.mpr hf, fun j hj => ?_⟩
  rw [hlow j hj]; rfl

/-- The handle of a new reservation is the lowest that the crew does not hold (R128). -/
theorem freeHandle_eq {c : Crew} {f : Nat} (hf : f < 64) (hfree : ∀ x ∈ c.resv, x.1 ≠ f) (hlow : ∀ j, j < f → ∃ x ∈ c.resv, x.1 = j) : c.freeHandle = f := by
  have hp : c.resv.all (fun x => x.1 != f) = true := List.all_eq_true.mpr fun x hx => bne_iff_ne.mpr (hfree x hx)
  have hheld : ∀ j, j < f → c.resv.all (fun x => x.1 != j) = false := fun j hj => by
    obtain ⟨x, hx, hxj⟩ := hlow j hj
    exact List.all_eq_false.mpr ⟨x, hx, by simp [hxj]⟩
  rw [Crew.freeHandle, find?_range_lowest (p := fun h => c.resv.all (fun x => x.1 != h)) hf hp hheld]; rfl

theorem resv?_isNone_iff (c : Crew) (h : Nat) : (c.resv? h).isNone = true ↔ ∀ x ∈ c.resv, x.1 ≠ h := by
  simp [Crew.resv?, Option.isNone_iff_eq_none]

/-- OBRES with lanes (R128, R264). -/
theorem obres_eq {w : Body} {s t : State} {c : Ctx} (h : Acts (.obres w) s t c) :
    let r := BitVec.ofNat 64 (c.val w.a 0 0 % 2 ^ 60)
    exec (.obres w) s = if t.resvOk c.crew r then
      .next ((t.modCrew c.m.crew (fun x => { x with resv := x.resv ++ [(c.crew.freeHandle, r)] })).writeInterlocked c w.hdr (sWrite w.dst c.crew.freeHandle))
    else .next (t.writeInterlocked c w.hdr (sWrite w.dst (2 ^ 64 - 1))) := by
  show execObres w s = _
  rw [execObres, matWord_acts (o := .obres) h]

/-- OBREL with lanes (R128, R264). -/
theorem obrel_eq {w : Body} {s t : State} {c : Ctx} (h : Acts (.obrel w) s t c) :
    exec (.obrel w) s = if (c.crew.resv? (c.uval w w.a)).isNone then t.misuse c (fieldOf w.a 63)
      else .next ((t.modCrew c.m.crew (fun x => { x with resv := x.resv.filter (fun r => r.1 != c.uval w w.a) })).issued c w.hdr) := by
  show execObrel w s = _
  rw [execObrel, matWord_acts (o := .obrel) h]

/-! ### Lane accesses -/

/-- A lane's place in a reservation through its swizzle, where the offset is aligned and within the range (R116, R265). -/
theorem matAddr_resv {o : Op} {c : Ctx} {w : Body} {l : Nat} {x : BitVec 64} (ho : o = .obst ∨ o = .obld) (hx : c.crew.resv? (c.val w.a 0 l) = some x)
    (hsw : swizzleOk (resvSwen x) (resvChunk x) (resvSwsrc x) = true) (halign : c.val w.b 0 l % memSize w.ty = 0) (hfits : c.val w.b 0 l + memSize w.ty ≤ resvBytes x) :
    c.matAddr o w l = .chip (.mem (opbufKey c.crew.uid (resvAddr x (c.val w.b 0 l)))) := by
  rcases ho with rfl | rfl <;> simp only [Ctx.matAddr, hx, hsw, halign, if_neg (Nat.not_lt.mpr hfits)] <;> rfl

/-- A lane's place in the accumulator memory, where the offset is aligned and within the allocation (R271). -/
theorem matAddr_acc {o : Op} {c : Ctx} {w : Body} {l : Nat} (ho : o = .amst ∨ o = .amld) (halign : c.val w.a 0 l % memSize w.ty = 0)
    (hfits : c.val w.a 0 l + memSize w.ty ≤ 4096 * c.crew.accN) : c.matAddr o w l = .chip (.mem (accKey c.crew.uid (c.val w.a 0 l))) := by
  rcases ho with rfl | rfl <;> simp only [Ctx.matAddr, halign, if_neg (Nat.not_lt.mpr hfits)] <;> rfl

/-- A lane access whose lanes all have places becomes an outstanding word with one access for each (R265, R271). -/
theorem matMemWord_issues {o : Op} {w : Body} {s t : State} {c : Ctx} {store : Bool} {place : Nat → Nat} (h : Acts (o.mk w) s t c)
    (hexec : exec (o.mk w) s = matMemWord o w store s) (hplace : ∀ l, c.ent.lanes.getLsbD l = true → c.matAddr o w l = .chip (.mem (place l))) :
    MemIssues (o.mk w) w.hdr s t c (matWordOf t c store (if store then .none else vLoads w.dst (memSize w.ty)) (memSize w.ty) place
      (if store then dataAt t c (matData o w) (memSize w.ty) else fun _ => 0)) := by
  obtain ⟨g, hg⟩ := starts_group h.1
  refine memIssues_of_addWord hg rfl (hexec.trans ?_)
  have hlanes : (lanesOf c.ent.lanes).map (fun l => (l, c.matAddr o w l)) = (lanesOf c.ent.lanes).map (fun l => (l, LaneAddr.chip (.mem (place l)))) :=
    List.map_congr_left fun l hl => by rw [hplace l ((mem_lanesOf _ l).mp hl)]
  have hnone : firstFault ((lanesOf c.ent.lanes).map (fun l => (l, LaneAddr.chip (.mem (place l))))) = none :=
    firstFault_of_noFault fun a ha => by
      obtain ⟨l, -, rfl⟩ := List.mem_map.mp ha
      exact fun _ _ => LaneAddr.noConfusion
  rw [matMemWord, matWord_acts h]
  dsimp only
  rw [hlanes, hnone, List.filterMap_map, matWordOf, ← List.filterMap_eq_map]
  cases store with
  | true => rfl
  | false => cases w.dst <;> rfl

/-- Settles O39: reservations by their two words, the lane accesses by the places that their lanes form. -/
theorem operandBufferResults : Obligations.OperandBufferResults := by
  unfold Obligations.OperandBufferResults
  intro w s t c n r first last fits h
  have hok : t.resvOk c.crew r = true ↔ fits := resvOk_iff t c.crew r
  refine ⟨fun ha hfits f hf hfree hlow => ?_, fun ha hfits => ?_, fun ha hheld => ?_, fun ha hheld => ?_, ?_, ?_⟩
  · obtain ⟨g, hg⟩ := starts_group ha.1
    refine groupRuns_of_issued (group?_modCrew_of_groups hg (fun _ => rfl) fun _ => rfl) ((obres_eq ha).trans ((if_pos (hok.mpr hfits)).trans ?_))
    rw [freeHandle_eq hf hfree hlow]
    rfl
  · obtain ⟨g, hg⟩ := starts_group ha.1
    exact groupRuns_of_issued hg ((obres_eq ha).trans (if_neg (hok.not.mpr hfits)))
  · obtain ⟨g, hg⟩ := starts_group ha.1
    have hsome : ¬ (c.crew.resv? h).isNone = true := by
      rw [resv?_isNone_iff]
      push Not
      exact hheld
    exact groupRuns_id (group?_modCrew_of_groups hg (fun _ => rfl) fun _ => rfl) ((obrel_eq ha).trans (if_neg hsome))
  · refine traps_of_misuse ((obrel_eq ha).trans ((if_pos ((resv?_isNone_iff ..).mpr hheld)).trans ?_))
    rw [fieldOf_eq]
  · intro d x hd hx hsw off place hoff
    have hlane : ∀ l, c.val w.a 0 l = c.val w.a 0 0 := fun l => by rw [hd]; rfl
    have hplace : ∀ o, o = .obst ∨ o = .obld → ∀ l, c.ent.lanes.getLsbD l = true → c.matAddr o w l = .chip (.mem (place l)) := fun o ho l hl => by
      obtain ⟨halign, hfits⟩ := hoff l hl
      have hbytes : resvBytes x = 1024 * (last x + 1 - first x) := congrArg (1024 * ·) (by simp only [first, last, resvLen]; omega)
      exact matAddr_resv ho ((hlane l).symm ▸ hx) hsw halign (hbytes ▸ hfits)
    exact ⟨fun ha => matMemWord_issues (o := .obst) (store := true) ha rfl (hplace .obst (.inl rfl)),
      fun ha => matMemWord_issues (o := .obld) (store := false) ha rfl (hplace .obld (.inr rfl))⟩
  · intro hoff place
    have hplace : ∀ o, o = .amst ∨ o = .amld → ∀ l, c.ent.lanes.getLsbD l = true → c.matAddr o w l = .chip (.mem (place l)) := fun o ho l hl =>
      matAddr_acc ho (hoff l hl).1 (hoff l hl).2
    exact ⟨fun ha => matMemWord_issues (o := .amst) (store := true) ha rfl (hplace .amst (.inl rfl)),
      fun ha => matMemWord_issues (o := .amld) (store := false) ha rfl (hplace .amld (.inr rfl))⟩

end Sys2Proof.Machine
end


section
/-!
PROOFS. Matrix operations of one group, and TWAIT (R127, R129, R137, R263, R266, R270, R272, R273).
-/

namespace Sys2Proof.Machine

open Sys2Proof.Claims

/-! ### Tickets -/

/-- A word sees its group's tickets as they stand. -/
theorem starts_ticket {i : Instr} {s t : State} {c : Ctx} {g : Group} (h : Starts i s t c) (hg : t.group? c.m.crew c.m.grp = some g) (k : Nat) :
    c.g.ticket k = g.ticket k := by
  obtain ⟨⟨v, p, x, hview⟩, -⟩ := starts_view h hg
  rw [hview]
  rfl

/-- A ticket that has not failed lets its operation go on (R137). -/
theorem withTicket_of_ok {c : Ctx} {k : Nat} (h : ∀ cause info, c.g.ticket k ≠ .failed cause info) (s : State) (f : State → Out) : s.withTicket c k f = f s := by
  unfold State.withTicket
  split
  next cause info hk => exact absurd hk (h cause info)
  · rfl

/-- A failed ticket raises its fault and is idle again (R137). -/
theorem withTicket_of_failed {c : Ctx} {k : Nat} {cause : BitVec 8} {info : Word} (h : c.g.ticket k = .failed cause info) (s : State) (f : State → Out) :
    s.withTicket c k f = .next ((s.modGroup c.m.crew c.m.grp (fun g => g.setTicket k .idle)).raise c.m cause info) := by
  rw [State.withTicket, h]
  rfl

/-- An engine operation of one group joins its core's queue, or raises its ticket's fault (R137, R263). -/
theorem engineIssues_of_engineWord {i : Instr} {w : Body} {s t : State} {c : Ctx} {handles : List Nat} {op : MOp} {early : List RegW} (hs : Starts i s t c)
    (hx : exec i s = t.engineWord c w handles op early) : EngineIssues i w s t c handles op early := by
  unfold EngineIssues
  intro k t1 t2
  obtain ⟨g, hg⟩ := starts_group hs
  have hg2 : t2.group? c.m.crew c.m.grp = some g := by
    dsimp only [t2]
    split_ifs
    · exact group?_modCrew_of_groups (s := t1) hg (fun _ => rfl) fun _ => rfl
    · exact hg
  exact ⟨fun hk => groupRuns_of_issued hg2 (hx.trans (withTicket_of_ok hk ..)), fun cause info hk => hx.trans (withTicket_of_failed hk ..)⟩

/-! ### Faults at issue -/

/-- A word that raises the fault found at its issue, and else goes on. -/
def State.orFault (s : State) (c : Ctx) (fault : Option (BitVec 8 × Word)) (x : Out) : Out :=
  match fault with
  | some (cause, info) => s.trapWord c cause info
  | none => x

theorem traps_of_orFault {i : Instr} {s t : State} {c : Ctx} {fault : Option (BitVec 8 × Word)} {x : Out} {cause : BitVec 8} {info : Word}
    (hx : exec i s = t.orFault c fault x) (hf : fault = some (cause, info)) : Traps i s t c cause info := by
  rw [hf] at hx
  exact traps_of_trapWord hx

theorem eq_of_orFault {i : Instr} {s t : State} {c : Ctx} {fault : Option (BitVec 8 × Word)} {x : Out} (hx : exec i s = t.orFault c fault x) (hf : fault = none) :
    exec i s = x := by
  rw [hf] at hx
  exact hx

/-- Faults that are found by flags are reported in their order. -/
theorem firstOf_flags (l : List (Bool × BitVec 8 × Nat × Bool)) :
    firstOf (l.map (fun e => if e.1 then some (e.2.1, faultInfo 0 e.2.2.2 e.2.2.1) else none)) = firstFaultOf l := by
  unfold firstOf firstFaultOf
  induction l with
  | nil => rfl
  | cons e l ih =>
    obtain ⟨b, e⟩ := e
    cases b with
    | true => rfl
    | false => exact ih

/-- The fault of a tile that is misaligned or beyond the allocation (R127). -/
theorem tileFault_eq (c : Ctx) (w : Body) :
    c.tileFault w = if w.tile % (w.tm * w.tn / 1024) = 0 ∧ w.tile + w.tm * w.tn / 1024 ≤ c.crew.accN then none else some (0x18, faultInfo 0 true (4096 * w.tile)) := by
  unfold Ctx.tileFault
  by_cases hgood : w.tile % (w.tm * w.tn / 1024) = 0 ∧ w.tile + w.tm * w.tn / 1024 ≤ c.crew.accN
  · exact (if_neg (by omega)).trans (if_pos hgood).symm
  · exact (if_pos (by omega)).trans (if_neg hgood).symm

/-! ### WBLD -/

/-- The faults of WBLD's ranges in the order in which they are reported (R266). -/
def wbldFlags (t : State) (c : Ctx) (w : Body) : List (Bool × BitVec 8 × Nat × Bool) :=
  let dst := c.val w.a 0 0
  let src := c.val w.b 0 0
  let len := c.val w.c 0 0
  [(decide (dst % 16 ≠ 0), causeAlign, dst, true), (decide (src % 16 ≠ 0), causeAlign, src, false), (decide (len % 16 ≠ 0), causeAlign, len, false),
    (decide (wbufSize < dst + len), causeBounds, dst, true), (!t.wbldSourceOk c (c.wbldSide t w) len, causeBounds, src, false)]

/-- WBLD with lanes (R266). -/
theorem wbld_eq {w : Body} {s t : State} {c : Ctx} (h : Acts (.wbld w) s t c) : exec (.wbld w) s =
    if c.val w.c 0 0 < 16 ∨ wbufSize < c.val w.c 0 0 then t.misuse c 45
    else t.orFault c (firstFaultOf (wbldFlags t c w)) (t.engineWord c w [] (.wbld (c.val w.a 0 0) (c.wbldSide t w) (c.val w.c 0 0)) []) := by
  show execWbld w s = _
  rw [execWbld, matWord_acts (o := .wbld) h, ← firstOf_flags]
  dsimp only [wbldFlags, List.map]
  simp only [decide_eq_true_eq]
  cases t.wbldSourceOk c (c.wbldSide t w) (c.val w.c 0 0) <;> rfl

/-! ### AMZERO and AMCVT -/

/-- AMZERO with lanes (R272). -/
theorem amzero_eq {w : Body} {s t : State} {c : Ctx} (h : Acts (.amzero w) s t c) :
    exec (.amzero w) s = t.orFault c (c.tileFault w) (t.engineWord c w [] (.amzero w.tile w.tm w.tn) []) := by
  show execAmzero w s = _
  rw [execAmzero, matWord_acts (o := .amzero) h]
  rfl

/-- The faults of AMCVT into a reservation (R129, R273). -/
def amcvtFault (c : Ctx) (w : Body) (r : BitVec 64) : Option (BitVec 8 × Word) :=
  firstOf [
    if resvMxb r || resvFmt r != cvtFmt w.ty2 || !swizzleOk (resvSwen r) (resvChunk r) (resvSwsrc r) then some (causeBadrec, faultInfo 0 true 0) else none,
    c.tileFault w,
    if resvBytes r < efmtBytes (cvtFmt w.ty2) (w.tm * w.tn) then some (causeBounds, faultInfo 0 true 0) else none]

theorem amcvt_unheld {w : Body} {s t : State} {c : Ctx} (h : Acts (.amcvt w) s t c) (hr : c.crew.resv? (c.val w.a 0 0) = none) : exec (.amcvt w) s = t.misuse c 63 := by
  show execAmcvt w s = _
  rw [execAmcvt, matWord_acts (o := .amcvt) h]
  dsimp only
  rw [hr]

/-- AMCVT with lanes into a reservation that the crew holds (R273). -/
theorem amcvt_held {w : Body} {s t : State} {c : Ctx} {r : BitVec 64} (h : Acts (.amcvt w) s t c) (hr : c.crew.resv? (c.val w.a 0 0) = some r) :
    exec (.amcvt w) s = t.orFault c (amcvtFault c w r) (t.engineWord c w [c.val w.a 0 0] (.amcvt w.tile w.tm w.tn (cvtFmt w.ty2) w.sat w.rnd2 r) []) := by
  show execAmcvt w s = _
  rw [execAmcvt, matWord_acts (o := .amcvt) h]
  dsimp only
  rw [hr]
  rfl

/-- Bytes of a run of elements in a target format of AMCVT (R117, R273). -/
theorem efmtBytes_cvtFmt (ty2 n : Nat) : efmtBytes (cvtFmt ty2) n = n * (if cvtFmt ty2 = 5 ∨ cvtFmt ty2 = 6 then 2 else 1) := by
  have hbits : efmtBits (cvtFmt ty2) = 8 * (if cvtFmt ty2 = 5 ∨ cvtFmt ty2 = 6 then 2 else 1) := by
    unfold cvtFmt
    split <;> rfl
  rw [efmtBytes, hbits, Nat.mul_left_comm, Nat.mul_div_cancel_left _ (by decide)]

/-- AMCVT into a reservation of the target's format that holds the tile has no fault. -/
theorem amcvtFault_eq_none {c : Ctx} {w : Body} {r : BitVec 64} (hmxb : resvMxb r = false) (hfmt : resvFmt r = cvtFmt w.ty2)
    (hsw : swizzleOk (resvSwen r) (resvChunk r) (resvSwsrc r) = true) (htile : c.tileFault w = none)
    (hsize : efmtBytes (cvtFmt w.ty2) (w.tm * w.tn) ≤ resvBytes r) : amcvtFault c w r = none := by
  rw [amcvtFault, hmxb, hfmt, hsw, htile, if_neg (Nat.not_lt.mpr hsize)]
  simp [firstOf]

/-! ### TWAIT -/

theorem State.toDrain_modGroup (s : State) (uid i : Nat) {f : Group → Group} (hf : ∀ g, (f g).mws = g.mws) : (s.modGroup uid i f).toDrain = s.toDrain := by
  funext x
  cases x with
  | store n => rfl
  | group u j po =>
    unfold State.toDrain
    dsimp only
    rw [State.group?_modGroup_at]
    split_ifs
    · rw [Option.map_map]
      exact congrArg (fun f => (Option.map f _).getD false) (funext fun g => by dsimp only [Function.comp]; rw [hf])
    · rfl

/-- What a group acquires by clearing a done ticket (R79, R137). -/
theorem clearTicket_of_done {s : State} {uid gi k : Nat} {g : Group} {ids : List Nat} (hg : s.group? uid gi = some g) (hk : g.ticket k = .done ids) :
    s.clearTicket uid gi k = s.modGroup uid gi (fun g =>
      { g.setTicket k .idle with acq := (g.acq ++ ids.map (fun i => (s.nextSeq, Seen.store i))).eraseDups.filter (fun x => s.unsettled s.drained x.2) }) := by
  have hun : (s.modGroup uid gi (fun g => g.setTicket k .idle)).unsettled s.drained = s.unsettled s.drained := by
    unfold State.unsettled
    rw [State.toDrain_modGroup s uid gi (f := fun g => g.setTicket k .idle) fun _ => rfl]
  rw [State.clearTicket, hg, Option.map_some, Option.getD_some, hk]
  dsimp only
  rw [State.take, State.modGroup_modGroup, State.modGroup_drained, hun, List.map_map]
  rfl

/-- A ticket that holds nothing is cleared and no more. -/
theorem clearTicket_of_idle {s : State} {uid gi k : Nat} {g : Group} (hg : s.group? uid gi = some g) (hk : g.ticket k = .idle) :
    s.clearTicket uid gi k = s.modGroup uid gi (fun g => g.setTicket k .idle) := by
  rw [State.clearTicket, hg, Option.map_some, Option.getD_some, hk]

section

variable {w : Body} {s t : State} {c : Ctx} (h : Acts (.twait w) s t c)

include h

theorem twait_busy (hk : c.g.ticket (ticketOf w.a) = .busy) : exec (.twait w) s = .next (t.waits c w.hdr (.twait (ticketOf w.a))) := by
  show execTwait w s = _
  rw [execTwait, matWord_acts (o := .twait) h]
  dsimp only
  rw [hk]

theorem twait_failed {cause : BitVec 8} {info : Word} (hk : c.g.ticket (ticketOf w.a) = .failed cause info) :
    exec (.twait w) s = .next ((t.modGroup c.m.crew c.m.grp (fun g => g.setTicket (ticketOf w.a) .idle)).raise c.m cause info) := by
  show execTwait w s = _
  rw [execTwait, matWord_acts (o := .twait) h]
  dsimp only
  rw [hk]
  rfl

theorem twait_over (hk : c.g.ticket (ticketOf w.a) = .idle ∨ ∃ ids, c.g.ticket (ticketOf w.a) = .done ids) :
    exec (.twait w) s = .next ((t.clearTicket c.m.crew c.m.grp (ticketOf w.a)).issued c w.hdr) := by
  show execTwait w s = _
  rw [execTwait, matWord_acts (o := .twait) h]
  dsimp only
  obtain hk | ⟨ids, hk⟩ := hk <;> rw [hk]

end

end Sys2Proof.Machine
end


section
/-!
PROOFS. The rendezvous latch (R135): what traps leave of it, the arrivals that it takes, and its decision.
-/

namespace Sys2Proof.Machine

open Sys2Proof.Claims

/-! ### What a latch decides by -/

/-- What the rendezvous latches decide by: each group's tickets and whether it has retired, each crew's arrivals and core, the operations and the copies of each core. -/
def State.latchBase (s : State) : (Nat → Nat → Option (List Ticket × Bool)) × (Nat → Option (List Arrival × Nat)) × List (List MatOp × List Copy) :=
  (fun u j => (s.group? u j).map (fun g => (g.k, g.retired)), fun u => (s.crew? u).map (fun c => (c.rdv, c.core)), s.cores.map (fun k => (k.matrix, k.copies)))

section

variable {s t : State} (h : t.latchBase = s.latchBase)

include h

theorem group_of_latchBase {u j : Nat} {g : Group} (hg : s.group? u j = some g) : ∃ g', t.group? u j = some g' ∧ g'.k = g.k ∧ g'.retired = g.retired := by
  have hgroup : (t.group? u j).map (fun g => (g.k, g.retired)) = some (g.k, g.retired) := (congrArg (fun b => b.1 u j) h).trans (congrArg (Option.map _) hg)
  obtain ⟨g', hg', heq⟩ := Option.map_eq_some_iff.mp hgroup
  exact ⟨g', hg', congrArg Prod.fst heq, congrArg Prod.snd heq⟩

theorem crew_of_latchBase {u : Nat} {c : Crew} (hc : s.crew? u = some c) : ∃ c', t.crew? u = some c' ∧ c'.rdv = c.rdv ∧ c'.core = c.core := by
  have hcrew : (t.crew? u).map (fun c => (c.rdv, c.core)) = some (c.rdv, c.core) := (congrArg (fun b => b.2.1 u) h).trans (congrArg (Option.map _) hc)
  obtain ⟨c', hc', heq⟩ := Option.map_eq_some_iff.mp hcrew
  exact ⟨c', hc', congrArg Prod.fst heq, congrArg Prod.snd heq⟩

theorem scoreboard_of_latchBase (core : Nat) : t.scoreboard core = s.scoreboard core := by
  have hcores : ∀ s : State, s.scoreboard core = (s.latchBase.2.2.map (fun k => (k.2.map (fun c => (c.ranges.filter (fun r => r.1 == core)).map (·.2))).flatten)).flatten :=
    fun s => by rw [State.scoreboard, State.latchBase, List.map_map]; rfl
  rw [hcores, hcores, h]

theorem matrix_of_latchBase (i : Nat) : (t.core i).matrix = (s.core i).matrix := by
  have hcore : ∀ s : State, (s.core i).matrix = ((s.latchBase.2.2[i]?).map (·.1)).getD [] := fun s => by
    rw [State.core, State.latchBase, List.getElem?_map]
    cases s.cores[i]? <;> rfl
  rw [hcore, hcore, h]

theorem cores_length_of_latchBase : t.cores.length = s.cores.length := by
  have hlength : ∀ s : State, s.cores.length = s.latchBase.2.2.length := fun s => (List.length_map _).symm
  rw [hlength, hlength, h]

end

theorem latchBase_modGroup (s : State) (uid i : Nat) {f : Group → Group} (hf : ∀ g, ((f g).k, (f g).retired) = (g.k, g.retired)) :
    (s.modGroup uid i f).latchBase = s.latchBase := by
  refine Prod.ext (funext fun u => funext fun j => ?_) (Prod.ext (funext fun u => ?_) rfl)
  · show ((s.modGroup uid i f).group? u j).map _ = _
    rw [State.group?_modGroup_at]
    split_ifs
    · rw [Option.map_map]
      exact congrArg (fun x => Option.map x _) (funext hf)
    · rfl
  · show ((s.modGroup uid i f).crew? u).map _ = _
    rw [State.modGroup, State.crew?_modCrew s uid u (fun c => c.modGroup i f) (fun _ => rfl), Option.map_map]
    refine congrArg (fun x => Option.map x _) (funext fun c => ?_)
    dsimp only [Function.comp]
    split_ifs <;> rfl

theorem latchBase_modCore (s : State) (i : Nat) {f : Core → Core} (hf : ∀ k, ((f k).matrix, (f k).copies) = (k.matrix, k.copies)) :
    (s.modCore i f).latchBase = s.latchBase :=
  Prod.ext rfl (Prod.ext rfl (cores_modCore_keeps (fun k => (k.matrix, k.copies)) s i f hf))

theorem latchBase_nextSeq (s : State) (n : Nat) : ({ s with nextSeq := n } : State).latchBase = s.latchBase := rfl

@[simp] theorem State.modEnt_latchBase (s : State) (m : Member) (f : Ent → Ent) : (s.modEnt m f).latchBase = s.latchBase :=
  latchBase_modGroup s m.crew m.grp fun g => Prod.ext (g.modEnt_fields m.ent f).2.1 (g.modEnt_retired m.ent f)

@[simp] theorem State.fatal_latchBase (s : State) (uid : Nat) (cause : BitVec 8) : (s.fatal uid cause).latchBase = s.latchBase := by
  refine Prod.ext (funext fun u => funext fun j => congrArg (Option.map _) (State.fatal_group? ..)) (Prod.ext (funext fun u => ?_) ?_)
  · show ((s.fatal uid cause).crew? u).map _ = _
    unfold State.fatal
    split
    · rfl
    · show ((s.modCrew uid (fun c => { c with stopped := true })).crew? u).map _ = _
      rw [State.crew?_modCrew s uid u (fun c => { c with stopped := true }) (fun _ => rfl), Option.map_map]
      refine congrArg (fun x => Option.map x _) (funext fun c => ?_)
      dsimp only [Function.comp]
      split_ifs <;> rfl
  · unfold State.fatal
    split <;> rfl

@[simp] theorem State.enter_latchBase (s : State) (m : Member) (st : Nat) : (s.enter m st).latchBase = s.latchBase := by
  unfold State.enter
  split
  · rfl
  · refine (latchBase_modCore _ _ ?_).trans ((latchBase_nextSeq ..).trans (latchBase_modGroup s m.crew m.grp ?_))
    · exact fun _ => rfl
    · exact fun g => Prod.ext (Group.modEnt_fields _ m.ent _).2.1 (Group.modEnt_retired _ m.ent _)

theorem Group.inHandler_tickets (g : Group) (t : Trap) (entry home cyc : Nat) (pre : Bool) :
    ((g.inHandler t entry home cyc pre).k, (g.inHandler t entry home cyc pre).retired) = (g.k, g.retired) := by
  have hunmeet : (g.unmeet t).k = g.k := by
    unfold Group.unmeet
    split
    · split_ifs
      · exact (g.modEnt_fields _ _).2.1
      · rfl
    · rfl
  have hland : (if t.cause = causeBinding then (g.unmeet t).landOf (g.entering t) else g.landAll).k = g.k := by
    split_ifs
    · exact ((g.unmeet t).landOf_kept _).tickets.trans hunmeet
    · exact g.landAll_kept.tickets
  exact Prod.ext ((Group.holdFences_kept _ t.cause).tickets.trans hland) (g.inHandler_retired t entry home cyc pre)

@[simp] theorem State.takeTrap_latchBase (s : State) (uid i : Nat) (t : Trap) : (s.takeTrap uid i t).latchBase = s.latchBase := by
  unfold State.takeTrap
  split
  · rfl
  · split
    · exact State.fatal_latchBase ..
    next entry home _ =>
      exact (State.enter_latchBase ..).trans (latchBase_modGroup s uid i fun g => g.inHandler_tickets t entry home _ _)

@[simp] theorem State.deliver_latchBase (s : State) (uid i : Nat) : (s.deliver uid i).latchBase = s.latchBase := by
  unfold State.deliver
  split
  · rfl
  · split
    · split_ifs
      · exact (State.takeTrap_latchBase ..).trans (latchBase_modGroup s uid i fun _ => rfl)
      · rfl
    · rfl

@[simp] theorem State.tryPreempt_latchBase (s : State) (uid i : Nat) : (s.tryPreempt uid i).latchBase = s.latchBase := by
  unfold State.tryPreempt
  split
  · rfl
  · split_ifs
    · exact (State.takeTrap_latchBase ..).trans (latchBase_modGroup s.nextFree uid i fun _ => rfl)
    · rfl

theorem State.raise_latchBase (s : State) (m : Member) (cause : BitVec 8) (info : Word) : (s.raise m cause info).latchBase = s.latchBase := by
  unfold State.raise
  split_ifs
  · exact State.fatal_latchBase ..
  · exact (State.deliver_latchBase ..).trans (latchBase_modGroup s m.crew m.grp fun _ => rfl)

theorem State.advance_latchBase (s : State) (m : Member) : (s.advance m).latchBase = s.latchBase :=
  (State.deliver_latchBase ..).trans (State.modEnt_latchBase ..)

theorem State.abandon_latchBase (s : State) (m : Member) : (s.abandon m).latchBase = (s.withdraw m).latchBase :=
  (State.tryPreempt_latchBase ..).trans ((State.deliver_latchBase ..).trans (State.modEnt_latchBase ..))

theorem State.arrivalTrap_latchBase (s : State) (uid : Nat) (a : Arrival) (cause : BitVec 8) (info : Word) : (s.arrivalTrap uid a cause info).latchBase = s.latchBase :=
  (State.raise_latchBase ..).trans (State.modEnt_latchBase ..)

/-! ### The arrivals that a latch takes -/

theorem Arrival.same_iff (x y : Arrival) : x.same y = true ↔ Agrees x y := by
  simp only [Arrival.same, Agrees, Bool.and_eq_true, beq_iff_eq, and_assoc]

theorem agrees_comm {x y : Arrival} : Agrees x y ↔ Agrees y x := by
  unfold Agrees
  constructor <;> exact fun ⟨h1, h2, h3, h4, h5⟩ => ⟨h1.symm, h2.symm, h3.symm, h4.symm, h5.symm⟩

theorem agrees_trans {x y z : Arrival} (h : Agrees x y) (h' : Agrees y z) : Agrees x z := by
  obtain ⟨h1, h2, h3, h4, h5⟩ := h
  obtain ⟨k1, k2, k3, k4, k5⟩ := h'
  exact ⟨h1.trans k1, h2.trans k2, h3.trans k3, h4.trans k4, h5.trans k5⟩

/-- An arrival of another group of the oldest's gang is taken, and ends the taking where it differs from one that is held. -/
theorem latchTakes_cons {x0 x : Arrival} {held l : List Arrival} (hgrp : ∀ y ∈ x0 :: held, y.grp ≠ x.grp) (hgang : x.grp ∈ x0.gang) :
    latchTakes (x :: l) (x0 :: held) =
      if (x0 :: held).all (fun y => x.same y) = true then latchTakes l ((x0 :: held) ++ [x]) else ((x0 :: held) ++ [x], true) := by
  have hother : ((x0 :: held).any (fun y => y.grp == x.grp) || !(x0.gang.contains x.grp || x.gang == x0.gang)) = false := by
    rw [List.contains_iff_mem.mpr hgang, Bool.true_or, Bool.not_true, Bool.or_false, List.any_eq_false]
    exact fun y hy => by simpa using hgrp y hy
  rw [latchTakes, hother]
  rfl

/-- Arrivals of one gang that agree are taken all. -/
theorem latchTakes_agreeing {x0 : Arrival} (l l' : List Arrival) (hgang : ∀ x ∈ l, x.grp ∈ x0.gang) {held : List Arrival}
    (hnodup : (((x0 :: held) ++ l).map (·.grp)).Nodup) (hagree : ∀ x ∈ (x0 :: held) ++ l, ∀ y ∈ (x0 :: held) ++ l, Agrees x y) :
    latchTakes (l ++ l') (x0 :: held) = latchTakes l' ((x0 :: held) ++ l) := by
  induction l generalizing held with
  | nil => rw [List.append_nil]; rfl
  | cons x l ih =>
    obtain ⟨hx, hl⟩ := List.forall_mem_cons.mp hgang
    have hgrp : ∀ y ∈ x0 :: held, y.grp ≠ x.grp := fun y hy heq => by
      rw [List.map_append] at hnodup
      exact (List.disjoint_of_nodup_append hnodup) (List.mem_map_of_mem hy) (heq ▸ List.mem_map_of_mem List.mem_cons_self)
    have hsame : (x0 :: held).all (fun y => x.same y) = true := List.all_eq_true.mpr fun y hy =>
      (x.same_iff y).mpr (hagree x (List.mem_append_right _ List.mem_cons_self) y (List.mem_append_left _ hy))
    have happ : (x0 :: held) ++ x :: l = (x0 :: (held ++ [x])) ++ l := by simp
    rw [List.cons_append, latchTakes_cons hgrp hx, if_pos hsame, happ]
    exact ih hl (happ ▸ hnodup) (happ ▸ hagree)

section

variable {x0 a : Arrival} {held : List Arrival} (hnodup : ((x0 :: held).map (·.grp)).Nodup) (hagree : ∀ x ∈ x0 :: held, ∀ y ∈ x0 :: held, Agrees x y)
  (hgang : ∀ x ∈ x0 :: held, x.grp ∈ x0.gang) (hnew : ∀ x ∈ x0 :: held, x.grp ≠ a.grp) (ha : a.grp ∈ x0.gang)

include hnodup hagree hgang hnew ha

/-- A latch that holds agreeing arrivals takes one more of the gang, and tells whether it differs. -/
theorem latchTakes_new : latchTakes ((x0 :: held) ++ [a]) [] = ((x0 :: held) ++ [a], !(x0 :: held).all (fun y => a.same y)) := by
  have hheld : latchTakes ((x0 :: held) ++ [a]) [] = latchTakes [a] ((x0 :: []) ++ held) :=
    latchTakes_agreeing held [a] (fun x hx => hgang x (List.mem_cons_of_mem _ hx)) (held := []) hnodup hagree
  rw [hheld]
  refine (latchTakes_cons hnew ha).trans ?_
  cases (x0 :: held).all (fun y => a.same y) <;> rfl

theorem latchTakes_same (h : Agrees a x0) : latchTakes ((x0 :: held) ++ [a]) [] = ((x0 :: held) ++ [a], false) := by
  have hall : (x0 :: held).all (fun y => a.same y) = true :=
    List.all_eq_true.mpr fun y hy => (a.same_iff y).mpr (agrees_trans h (hagree x0 List.mem_cons_self y hy))
  rw [latchTakes_new hnodup hagree hgang hnew ha, hall]; rfl

theorem latchTakes_differing (h : ¬ Agrees a x0) : latchTakes ((x0 :: held) ++ [a]) [] = ((x0 :: held) ++ [a], true) := by
  have hall : (x0 :: held).all (fun y => a.same y) = false := List.all_eq_false.mpr ⟨x0, List.mem_cons_self, fun hs => h ((a.same_iff x0).mp hs)⟩
  rw [latchTakes_new hnodup hagree hgang hnew ha, hall]; rfl

end

/-! ### The decision -/

/-- The ticket that an arrival names, in its crew. -/
def Crew.ticketAt (c : Crew) (a : Arrival) : Ticket := ((c.groups[a.grp]?).map (fun g => g.ticket a.ticket)).getD .idle

/-- The words of the arrivals that a latch holds end in GANGMISMATCH. -/
def State.mismatch (s : State) (c : Crew) (held : List Arrival) : State :=
  held.foldl (fun s a => s.arrivalTrap c.uid a causeGang (gangInfo held [])) (s.dropArrivals c.uid held)

/-- The operation of a gang joins its core's queue, and the words of its members are over. -/
def State.release (s : State) (c : Crew) (held : List Arrival) (gang : List Nat) : State :=
  held.foldl (fun s a => s.advance ⟨c.uid, a.grp, a.ent⟩) ((s.dropArrivals c.uid held).accept c.core (gangOp c.uid held gang s.nextSeq))

/-- The decision where no ticket has failed and every listed group lives. -/
theorem rdvStep_eq {s : State} {c : Crew} {x0 : Arrival} {l : List Arrival} {b : Bool} (htakes : latchTakes c.rdv [] = (x0 :: l, b))
    (hfail : ∀ x ∈ x0 :: l, ∀ cause info, c.ticketAt x ≠ .failed cause info) (hlive : ∀ k ∈ x0.gang, ((c.groups[k]?).map (·.retired)).getD true = false) :
    s.rdvStep c = if b then some (s.mismatch c (x0 :: l))
      else if (x0 :: l).length = x0.gang.length ∧ (x0 :: l).all (fun x => c.ticketAt x != .busy) ∧ !s.gangCovered c (gangOp c.uid (x0 :: l) x0.gang s.nextSeq) then
        some (s.release c (x0 :: l) x0.gang)
      else none := by
  have hdead : x0.gang.filter (fun i => ((c.groups[i]?).map (·.retired)).getD true) = [] :=
    List.filter_eq_nil_iff.mpr fun k hk => by rw [hlive k hk]; exact Bool.false_ne_true
  unfold State.rdvStep latchHeld
  rw [htakes]
  dsimp only
  split
  next a cause info hsome =>
    obtain ⟨x, hx, hfailed⟩ := List.exists_of_findSome?_eq_some hsome
    split at hfailed
    next cause' info' hk => exact absurd hk (hfail x hx cause' info')
    · cases hfailed
  · rw [hdead]
    cases b <;> rfl

end Sys2Proof.Machine
end


section
/-!
PROOFS. What the rendezvous latch leaves (R133, R135, R137): a latch that settles, a word that begins to wait, the release and the mismatch of a gang.
-/

namespace Sys2Proof.Machine

open Sys2Proof.Claims

/-! ### A latch that settles -/

theorem rdvStep_of_no_arrivals {s : State} {c : Crew} (h : c.rdv = []) : s.rdvStep c = none := by
  unfold State.rdvStep
  rw [h]
  rfl

theorem settleRdv_of_none {s : State} {uid : Nat} {c : Crew} (hc : s.crew? uid = some c) (hstep : s.rdvStep c = none) : s.settleRdv uid = s := by
  rw [State.settleRdv, hc, Option.map_some, Option.getD_some, State.rdvSettle, hc]
  dsimp only
  rw [hstep]

/-- A decision that takes every arrival is the latch's last. -/
theorem settleRdv_of_last {s s1 : State} {uid : Nat} {c c1 : Crew} (hc : s.crew? uid = some c) (hstep : s.rdvStep c = some s1) (hc1 : s1.crew? uid = some c1)
    (hrdv : c1.rdv = []) : s.settleRdv uid = s1 := by
  have hlast : ∀ n, s1.rdvSettle uid n = s1 := fun n => by
    cases n with
    | zero => rfl
    | succ n =>
      rw [State.rdvSettle, hc1]
      dsimp only
      rw [rdvStep_of_no_arrivals hrdv]
  rw [State.settleRdv, hc, Option.map_some, Option.getD_some, State.rdvSettle, hc]
  dsimp only
  rw [hstep]
  exact hlast _

/-! ### A word that begins to wait -/

/-- PREEMPT is in force for a group as far as its crew's deadline and what the group has taken say. -/
theorem preempting_congr {s t : State} {uid i : Nat} (hcrew : (t.crew? uid).map (·.preempt) = (s.crew? uid).map (·.preempt))
    (hgroup : (t.group? uid i).map (fun g => (g.preTaken, g.handler.map (·.pre))) = (s.group? uid i).map (fun g => (g.preTaken, g.handler.map (·.pre)))) :
    t.preempting uid i = s.preempting uid i := by
  have hpre : ∀ s : State, s.preempting uid i = (((s.crew? uid).map (·.preempt)).bind fun d =>
      ((s.group? uid i).map (fun g => (g.preTaken, g.handler.map (·.pre)))).map fun x => d.isSome && !x.1 && x.2.getD true).getD false := fun s => by
    unfold State.preempting
    cases s.crew? uid with
    | none => rfl
    | some c => cases s.group? uid i <;> rfl
  rw [hpre, hpre, hcrew, hgroup]

theorem State.preempting_modEnt (s : State) (m : Member) (f : Ent → Ent) (uid i : Nat) : (s.modEnt m f).preempting uid i = s.preempting uid i := by
  refine preempting_congr ?_ ?_
  · rw [State.modEnt, State.modGroup, State.crew?_modCrew s m.crew uid (fun c => c.modGroup m.grp (fun g => g.modEnt m.ent f)) (fun _ => rfl), Option.map_map]
    refine congrArg (fun x => Option.map x _) (funext fun c => ?_)
    dsimp only [Function.comp]
    split_ifs <;> rfl
  · rw [State.modEnt, State.group?_modGroup_at]
    split_ifs
    · rw [Option.map_map]
      refine congrArg (fun x => Option.map x _) (funext fun g => ?_)
      dsimp only [Function.comp, Group.modEnt]
      split_ifs
      · rw [Option.map_map]; rfl
      · rfl
    · rfl

/-- An entity whose word has issued and begins to wait, but for the wait (R161). -/
def Ent.waiting (c : Ctx) (h : Hdr) (e : Ent) : Ent := { e with readyAt := c.cyc + 1 + h.stall.toNat, yh := h.yh, issued := c.cyc + 1 }

section

variable {s : State} {c : Ctx} {h : Hdr} {w : Wait}

/-- A word that PREEMPT does not abandon waits (R53). -/
theorem waits_of_stays (hstays : s.preempting c.m.crew c.m.grp = false ∨ c.m.ent = handlerIdx) :
    s.waits c h w = ((s.modEnt c.m (Ent.waiting c h)).modEnt c.m (fun e => { e with wait := some w })).deliver c.m.crew c.m.grp := by
  refine if_neg ?_
  rw [State.preempting_modEnt]
  rcases hstays with hpre | hm
  · simp [hpre]
  · simp [hm]

/-- A wait that PREEMPT abandons at once (R53). -/
theorem waits_of_preempted (hpre : s.preempting c.m.crew c.m.grp = true) (hm : c.m.ent ≠ handlerIdx) (hw : w.abandoned = true) :
    s.waits c h w = (s.modEnt c.m (Ent.waiting c h)).abandon c.m := by
  refine if_pos ?_
  rw [State.preempting_modEnt, hpre, hw, bne_iff_ne.mpr hm]
  rfl

theorem waits_latchBase (hstays : s.preempting c.m.crew c.m.grp = false ∨ c.m.ent = handlerIdx) : (s.waits c h w).latchBase = s.latchBase := by
  rw [waits_of_stays hstays, State.deliver_latchBase, State.modEnt_latchBase, State.modEnt_latchBase]

/-- Every entity stands where it stood. -/
theorem waits_ent (hstays : s.preempting c.m.crew c.m.grp = false ∨ c.m.ent = handlerIdx) {n : Member} {e : Ent} (he : s.ent? n = some e) :
    ∃ e', (s.waits c h w).ent? n = some e' ∧ e'.pos = e.pos := by
  have hmod : ∃ e1, ((s.modEnt c.m (Ent.waiting c h)).modEnt c.m (fun e => { e with wait := some w })).ent? n = some e1 ∧ e1.pos = e.pos := by
    rw [State.ent?_modEnt _ _ _ (fun e => { e with wait := some w }) (fun _ => rfl), State.ent?_modEnt _ _ _ (Ent.waiting c h) (fun _ => rfl), he]
    split_ifs <;> exact ⟨_, rfl, rfl⟩
  obtain ⟨e1, he1, hpos⟩ := hmod
  obtain ⟨e', he', hunmet⟩ := Option.map_eq_some_iff.mp ((leaves_deliver _ c.m.crew c.m.grp).ent he1)
  rw [waits_of_stays hstays]
  exact ⟨e', he', (congrArg Ent.pos hunmet :).trans hpos⟩

end

/-! ### Members and tickets of a gang's operation -/

/-- Members' tickets become busy (R137). -/
def State.busyTickets (s : State) (uid : Nat) (l : List (Nat × Nat)) : State :=
  l.foldl (fun s m => s.modGroup uid m.1 (fun g => g.setTicket m.2 .busy)) s

theorem busyTickets_group?_other {uid j : Nat} (l : List (Nat × Nat)) (hj : j ∉ l.map (·.1)) (s : State) : (s.busyTickets uid l).group? uid j = s.group? uid j := by
  unfold State.busyTickets
  induction l generalizing s with
  | nil => rfl
  | cons m l ih =>
    obtain ⟨hm, hl⟩ := List.ne_and_not_mem_of_not_mem_cons hj
    rw [List.foldl_cons, ih hl, State.group?_modGroup_at, if_neg fun h => hm h.2]

/-- Each of several groups has its one ticket busy. -/
theorem busyTickets_group? {uid : Nat} (l : List (Nat × Nat)) (hl : (l.map (·.1)).Nodup) {m : Nat × Nat} (hm : m ∈ l) (s : State) :
    (s.busyTickets uid l).group? uid m.1 = (s.group? uid m.1).map (fun g => g.setTicket m.2 .busy) := by
  induction l generalizing s with
  | nil => cases hm
  | cons x l ih =>
    obtain ⟨hx, hl'⟩ := List.nodup_cons.mp hl
    show ((s.modGroup uid x.1 (fun g => g.setTicket x.2 .busy)).busyTickets uid l).group? uid m.1 = _
    rcases List.mem_cons.mp hm with rfl | hm'
    · rw [busyTickets_group?_other l hx, State.group?_modGroup]
    · have hne : m.1 ≠ x.1 := fun h => hx (List.mem_map.mpr ⟨m, hm', h⟩)
      rw [ih hl' hm', State.group?_modGroup_at, if_neg fun h => hne h.2]

theorem busyTickets_cores (s : State) (uid : Nat) (l : List (Nat × Nat)) : (s.busyTickets uid l).cores = s.cores :=
  foldl_keeps State.cores (fun s (m : Nat × Nat) => s.modGroup uid m.1 (fun g => g.setTicket m.2 .busy)) (fun _ _ => rfl) l s

theorem busyTickets_rdv (s : State) (uid : Nat) (l : List (Nat × Nat)) (u : Nat) : ((s.busyTickets uid l).crew? u).map (·.rdv) = (s.crew? u).map (·.rdv) :=
  foldl_keeps (fun s : State => (s.crew? u).map (·.rdv)) _ (fun s m => by
    rw [State.modGroup, State.crew?_modCrew s uid u (fun c => c.modGroup m.1 (fun g => g.setTicket m.2 .busy)) (fun _ => rfl), Option.map_map]
    refine congrArg (fun x => Option.map x _) (funext fun c => ?_)
    dsimp only [Function.comp]
    split_ifs <;> rfl) l s

theorem busyTickets_ent? (s : State) (uid : Nat) (l : List (Nat × Nat)) (n : Member) : (s.busyTickets uid l).ent? n = s.ent? n :=
  foldl_keeps (fun s : State => s.ent? n) _ (fun s m => by
    unfold State.ent?
    rw [State.group?_modGroup_at]
    split_ifs
    · cases s.group? n.crew n.grp <;> rfl
    · rfl) l s

/-- The arrival of a group among arrivals of different groups. -/
theorem find?_grp {l : List Arrival} (hl : (l.map (·.grp)).Nodup) {x : Arrival} (hx : x ∈ l) : l.find? (fun y => y.grp == x.grp) = some x := by
  cases hfind : l.find? (fun y => y.grp == x.grp) with
  | none => exact absurd (beq_self_eq_true x.grp) (List.find?_eq_none.mp hfind x hx)
  | some y => rw [List.inj_on_of_nodup_map hl (List.mem_of_find?_eq_some hfind) hx (by simpa using List.find?_some hfind)]

/-- Arrivals in the order of their gang (R133). -/
def gangOrder (l : List Arrival) (gang : List Nat) : List Arrival := gang.filterMap (fun k => l.find? (fun x => x.grp == k))

theorem mem_gangOrder {l : List Arrival} {gang : List Nat} (hl : (l.map (·.grp)).Nodup) {x : Arrival} (hx : x ∈ l) (hgang : x.grp ∈ gang) : x ∈ gangOrder l gang :=
  List.mem_filterMap.mpr ⟨x.grp, hgang, find?_grp hl hx⟩

theorem gangOrder_nodup (l : List Arrival) {gang : List Nat} (hgang : gang.Nodup) : ((gangOrder l gang).map (·.grp)).Nodup := by
  refine hgang.sublist ?_
  unfold gangOrder
  induction gang with
  | nil => exact List.Sublist.refl _
  | cons k gang ih =>
    have ih' := ih (List.nodup_cons.mp hgang).2
    rw [List.filterMap_cons]
    cases hk : l.find? (fun x => x.grp == k) with
    | none => exact ih'.cons k
    | some x =>
      have hgrp : x.grp = k := by simpa using List.find?_some hk
      rw [List.map_cons, hgrp]
      exact ih'.cons_cons k

/-! ### The mismatch and the release of a gang -/

/-- Where all arrivals leave the latch none is left. -/
theorem dropArrivals_crew {s : State} {uid : Nat} {c : Crew} (hc : s.crew? uid = some c) : (s.dropArrivals uid c.rdv).crew? uid = some { c with rdv := [] } := by
  have hall : c.rdv.filter (fun a => !c.rdv.contains a) = [] := List.filter_eq_nil_iff.mpr fun a ha => by simpa using ha
  rw [State.dropArrivals, State.crew?_modCrew_self s uid (fun x => { x with rdv := x.rdv.filter (fun a => !c.rdv.contains a) }) (fun _ => rfl), hc, Option.map_some, hall]

theorem dropArrivals_group {s : State} {uid u j : Nat} {g : Group} (l : List Arrival) (hg : s.group? u j = some g) : (s.dropArrivals uid l).group? u j = some g :=
  group?_modCrew_of_groups hg (fun _ => rfl) fun _ => rfl

theorem dropArrivals_ent {s : State} {uid : Nat} {n : Member} {e : Ent} (l : List Arrival) (he : s.ent? n = some e) : (s.dropArrivals uid l).ent? n = some e := by
  obtain ⟨g, hg, hge⟩ := State.group_of_ent? he
  exact (State.ent?_of_group (dropArrivals_group l hg)).trans hge

theorem mismatch_latchBase (s : State) (c : Crew) (l : List Arrival) : (s.mismatch c l).latchBase = (s.dropArrivals c.uid l).latchBase :=
  foldl_keeps State.latchBase _ (fun s a => s.arrivalTrap_latchBase c.uid a causeGang (gangInfo l [])) l _

/-- A gang's operation joins the queue of a core, and its members' tickets are busy. -/
theorem accept_gangOp (s : State) (core uid : Nat) (l : List Arrival) (gang : List Nat) (mark : Nat) : s.accept core (gangOp uid l gang mark) =
    (s.modCore core (fun k => { k with matrix := k.matrix ++ [gangOp uid l gang mark] })).busyTickets uid ((gangOrder l gang).map (fun a => (a.grp, a.ticket))) := rfl

section

variable {s : State} {c : Crew} {gang : List Nat}

theorem release_eq (s : State) (c : Crew) (l : List Arrival) (gang : List Nat) : s.release c l gang =
    (l.map (fun a => (⟨c.uid, a.grp, a.ent⟩ : Member))).foldl State.advance ((s.dropArrivals c.uid l).accept c.core (gangOp c.uid l gang s.nextSeq)) :=
  List.foldl_map.symm

theorem release_latchBase (s : State) (c : Crew) (l : List Arrival) (gang : List Nat) :
    (s.release c l gang).latchBase = ((s.dropArrivals c.uid l).accept c.core (gangOp c.uid l gang s.nextSeq)).latchBase := by
  rw [release_eq]
  exact foldl_keeps State.latchBase _ State.advance_latchBase _ _

theorem release_matrix (l : List Arrival) (hcore : c.core < s.cores.length) :
    ((s.release c l gang).core c.core).matrix = (s.core c.core).matrix ++ [gangOp c.uid l gang s.nextSeq] := by
  rw [matrix_of_latchBase (release_latchBase s c l gang), accept_gangOp, State.core, busyTickets_cores]
  exact congrArg Core.matrix (State.core_modCore_self (s := s.dropArrivals c.uid l) _ hcore)

theorem release_crew (hc : s.crew? c.uid = some c) : ∃ c', (s.release c c.rdv gang).crew? c.uid = some c' ∧ c'.rdv = [] := by
  have hrdv : (((s.dropArrivals c.uid c.rdv).accept c.core (gangOp c.uid c.rdv gang s.nextSeq)).crew? c.uid).map (·.rdv) = some [] := by
    rw [accept_gangOp, busyTickets_rdv]
    exact congrArg (Option.map _) (dropArrivals_crew hc)
  obtain ⟨c1, hc1, hnil⟩ := Option.map_eq_some_iff.mp hrdv
  obtain ⟨c', hc', hrdv', -⟩ := crew_of_latchBase (release_latchBase s c c.rdv gang) hc1
  exact ⟨c', hc', hrdv'.trans hnil⟩

variable {l : List Arrival} (hnodup : (l.map (·.grp)).Nodup) {x : Arrival} (hx : x ∈ l)

include hnodup hx

/-- The ticket of each member is busy. -/
theorem release_ticket (hgang : gang.Nodup) (hmem : x.grp ∈ gang) {g : Group} (hg : s.group? c.uid x.grp = some g) :
    ∃ g', (s.release c l gang).group? c.uid x.grp = some g' ∧ g'.k = g.k.set x.ticket .busy := by
  have hmembers : (((gangOrder l gang).map (fun a => (a.grp, a.ticket))).map (·.1)).Nodup := by
    rw [List.map_map]
    exact gangOrder_nodup l hgang
  have hbusy : ((s.dropArrivals c.uid l).accept c.core (gangOp c.uid l gang s.nextSeq)).group? c.uid x.grp = some (g.setTicket x.ticket .busy) := by
    rw [accept_gangOp, busyTickets_group? _ hmembers (m := (x.grp, x.ticket)) (List.mem_map_of_mem (mem_gangOrder hnodup hx hmem))]
    exact congrArg (Option.map _) (dropArrivals_group l hg)
  obtain ⟨g', hg', hk, -⟩ := group_of_latchBase (release_latchBase s c l gang) hbusy
  exact ⟨g', hg', hk⟩

/-- The word of each member is over. -/
theorem release_ent {e : Ent} (he : s.ent? ⟨c.uid, x.grp, x.ent⟩ = some e) :
    ∃ e', (s.release c l gang).ent? ⟨c.uid, x.grp, x.ent⟩ = some e' ∧ e'.wait = none ∧ e'.pos = e.pos + 1 := by
  have hent : ((s.dropArrivals c.uid l).accept c.core (gangOp c.uid l gang s.nextSeq)).ent? ⟨c.uid, x.grp, x.ent⟩ = some e := by
    rw [accept_gangOp, busyTickets_ent?]
    exact dropArrivals_ent l he
  have hmembers : (l.map (fun a => (⟨c.uid, a.grp, a.ent⟩ : Member))).Nodup :=
    List.Nodup.of_map Member.grp (by rw [List.map_map]; exact hnodup)
  have hover := foldl_advance_over _ hmembers (List.mem_map_of_mem hx) (congrArg (Option.map unmet) hent)
  rw [← release_eq] at hover
  obtain ⟨e', he', hunmet⟩ := Option.map_eq_some_iff.mp hover
  exact ⟨e', he', congrArg Ent.wait hunmet, congrArg Ent.pos hunmet⟩

end

/-! ### TRAPINFO of a mismatch -/

/-- The arrival of lower index of two, the first of equals. -/
def lowerArrival (r x : Arrival) : Arrival := if x.grp < r.grp then x else r

theorem foldl_lowerArrival (l : List Arrival) (r : Arrival) :
    (l.foldl lowerArrival r = r ∨ l.foldl lowerArrival r ∈ l) ∧ ∀ x ∈ r :: l, (l.foldl lowerArrival r).grp ≤ x.grp := by
  induction l generalizing r with
  | nil => exact ⟨.inl rfl, fun x hx => by rw [List.mem_singleton.mp hx]; exact Nat.le_refl _⟩
  | cons y l ih =>
    obtain ⟨hmem, hle⟩ := ih (lowerArrival r y)
    obtain ⟨hfirst, hrest⟩ := List.forall_mem_cons.mp hle
    have hstep : (lowerArrival r y = r ∨ lowerArrival r y = y) ∧ (lowerArrival r y).grp ≤ r.grp ∧ (lowerArrival r y).grp ≤ y.grp := by
      unfold lowerArrival
      split_ifs with h
      · exact ⟨.inr rfl, h.le, Nat.le_refl _⟩
      · exact ⟨.inl rfl, Nat.le_refl _, Nat.le_of_not_lt h⟩
    obtain ⟨hone, hr, hy⟩ := hstep
    rw [List.foldl_cons]
    refine ⟨?_, List.forall_mem_cons.mpr ⟨hfirst.trans hr, List.forall_mem_cons.mpr ⟨hfirst.trans hy, hrest⟩⟩⟩
    rcases hmem with hmem | hmem
    · rw [hmem]
      exact hone.imp_right fun h => by rw [h]; exact List.mem_cons_self
    · exact .inr (List.mem_cons_of_mem _ hmem)

/-- The member of lowest index among arrivals of different groups (R135). -/
theorem refArrival_eq {l : List Arrival} (hl : (l.map (·.grp)).Nodup) {ref : Arrival} (href : ref ∈ l) (hlow : ∀ x ∈ l, ref.grp ≤ x.grp) : refArrival l = ref := by
  cases l with
  | nil => cases href
  | cons y l =>
    obtain ⟨hmem, hle⟩ := foldl_lowerArrival (y :: l) y
    have hin : refArrival (y :: l) ∈ y :: l := hmem.elim (fun h => List.mem_cons.mpr (.inl h)) id
    exact List.inj_on_of_nodup_map hl hin href (le_antisymm (hle ref (List.mem_cons_of_mem _ href)) (hlow _ hin))

theorem gangInfo_eq {l : List Arrival} (hl : (l.map (·.grp)).Nodup) {ref : Arrival} (href : ref ∈ l) (hlow : ∀ x ∈ l, ref.grp ≤ x.grp) :
    gangInfo l [] = mismatchInfo l ref := by
  have hsame : (fun x : Arrival => !x.same ref) = fun x => !ref.same x := funext fun x => congrArg Bool.not (Bool.eq_iff_iff.mpr
    (by rw [Arrival.same_iff, Arrival.same_iff, agrees_comm]))
  unfold gangInfo mismatchInfo
  dsimp only
  rw [refArrival_eq hl href hlow, hsame, ← List.sum_eq_foldl]
  rfl

end Sys2Proof.Machine
end


section
/-!
PROOFS. MMA and MMAS, alone and ganged (R127, R134, R135, R137, R142, R262, R267 to R269), and the words of the engine's tickets.
-/

namespace Sys2Proof.Machine

open Sys2Proof.Claims

/-! ### The arrival of a member -/

/-- Without a copy in flight to a core nothing stalls a gang's operation there (R78, R134). -/
theorem gangCovered_of_no_copies {s : State} {c : Crew} {x : MatOp} (h : s.scoreboard c.core = []) : s.gangCovered c x = false := by
  have hregs : ∀ crew grp vregs, coveredRegs [] crew grp vregs = false := fun _ _ _ => List.any_eq_false.mpr fun _ _ => Bool.false_ne_true
  unfold State.gangCovered
  rw [h]
  cases x.op <;> simp [hregs, copyTo]

/-- A ganged MMA or MMAS arrives at its crew's latch (R135). -/
def State.arrives (t : State) (c : Ctx) (a : Arrival) : State :=
  ({ t with nextSeq := t.nextSeq + 1 } : State).modCrew c.m.crew (fun x => { x with rdv := x.rdv ++ [a] })

theorem arrives_group? (t : State) (c : Ctx) (a : Arrival) (u j : Nat) : (t.arrives c a).group? u j = t.group? u j := by
  have hcrew : (t.arrives c a).crew? u = (t.crew? u).map (fun x => if x.uid = c.m.crew then { x with rdv := x.rdv ++ [a] } else x) :=
    State.crew?_modCrew _ c.m.crew u (fun x => { x with rdv := x.rdv ++ [a] }) (fun _ => rfl)
  rw [State.group?, State.group?, hcrew]
  cases t.crew? u with
  | none => rfl
  | some x => by_cases hx : x.uid = c.m.crew <;> simp [hx]

theorem arrives_ent? (t : State) (c : Ctx) (a : Arrival) (n : Member) : (t.arrives c a).ent? n = t.ent? n := by
  rw [State.ent?, State.ent?, arrives_group?]

theorem arrives_preempting (t : State) (c : Ctx) (a : Arrival) (u j : Nat) : (t.arrives c a).preempting u j = t.preempting u j := by
  refine preempting_congr ?_ (by rw [arrives_group?])
  have hcrew : (t.arrives c a).crew? u = (t.crew? u).map (fun x => if x.uid = c.m.crew then { x with rdv := x.rdv ++ [a] } else x) :=
    State.crew?_modCrew _ c.m.crew u (fun x => { x with rdv := x.rdv ++ [a] }) (fun _ => rfl)
  rw [hcrew, Option.map_map]
  refine congrArg (fun x => Option.map x _) (funext fun x => ?_)
  dsimp only [Function.comp]
  split_ifs <;> rfl

theorem arrives_crew {i : Instr} {s t : State} {c : Ctx} (hs : Starts i s t c) (a : Arrival) :
    ∃ x, (t.arrives c a).crew? c.m.crew = some x ∧ x.rdv = c.crew.rdv ++ [a] ∧ x.core = c.crew.core := by
  obtain ⟨g, hg⟩ := starts_group hs
  obtain ⟨-, gs, hcrew⟩ := starts_ent hs hg
  refine ⟨{ c.crew with groups := gs, rdv := c.crew.rdv ++ [a] }, ?_, rfl, rfl⟩
  rw [State.arrives, State.crew?_modCrew_self _ c.m.crew (fun x => { x with rdv := x.rdv ++ [a] }) (fun _ => rfl)]
  exact congrArg (Option.map _) hcrew

/-- A group's ticket is free for a new operation: idle or done (R137). -/
def TicketFree (t : State) (uid : Nat) (x : Arrival) : Prop :=
  ∃ g, t.group? uid x.grp = some g ∧ (g.ticket x.ticket = .idle ∨ ∃ ids, g.ticket x.ticket = .done ids)

/-- Every group of a list lives. -/
def AllLive (t : State) (uid : Nat) (gang : List Nat) : Prop := ∀ k ∈ gang, ∃ g, t.group? uid k = some g ∧ g.retired = false

section

variable {i : Instr} {s t : State} {c : Ctx} {a : Arrival} (hs : Starts i s t c) {h : Hdr}

include hs

/-- Where the member does not stay for PREEMPT, its arrival is withdrawn (R53). -/
theorem settleRdv_of_preempted (hpre : t.preempting c.m.crew c.m.grp = true) (hm : c.m.ent ≠ handlerIdx) (hrdv : c.crew.rdv = []) (hgrp : a.grp = c.m.grp)
    (hent : a.ent = c.m.ent) : (((t.arrives c a).waits c h .rendezvous).settleRdv c.m.crew) = (t.arrives c a).waits c h .rendezvous := by
  obtain ⟨x, hx, hxrdv, -⟩ := arrives_crew hs a
  rw [waits_of_preempted ((arrives_preempting ..).trans hpre) hm rfl]
  obtain ⟨x1, hx1, hx1rdv, -⟩ := crew_of_latchBase (State.modEnt_latchBase (t.arrives c a) c.m (Ent.waiting c h)) hx
  have hwithdrawn : (((t.arrives c a).modEnt c.m (Ent.waiting c h)).withdraw c.m).crew? c.m.crew =
      some { x1 with rdv := x1.rdv.filter (fun a => !(a.grp == c.m.grp && a.ent == c.m.ent)) } :=
    (State.crew?_modCrew_self _ c.m.crew (fun x => { x with rdv := x.rdv.filter (fun a => !(a.grp == c.m.grp && a.ent == c.m.ent)) }) (fun _ => rfl)).trans
      (by rw [hx1]; rfl)
  obtain ⟨x2, hx2, hx2rdv, -⟩ := crew_of_latchBase (State.abandon_latchBase ((t.arrives c a).modEnt c.m (Ent.waiting c h)) c.m) hwithdrawn
  refine settleRdv_of_none hx2 (rdvStep_of_no_arrivals (hx2rdv.trans ?_))
  show x1.rdv.filter _ = []
  rw [hx1rdv, hxrdv, hrdv, List.nil_append]
  simp [hgrp, hent]

variable (hstays : t.preempting c.m.crew c.m.grp = false ∨ c.m.ent = handlerIdx)

include hstays

/-- The latch that decides about a new arrival: what it holds, and its decision where every ticket is free and every listed group lives. -/
theorem rdvStep_of_arrival {x0 : Arrival} {l : List Arrival} {b : Bool} (htakes : latchTakes (c.crew.rdv ++ [a]) [] = (x0 :: l, b))
    (hfree : ∀ x ∈ x0 :: l, TicketFree t c.m.crew x) (hlive : AllLive t c.m.crew x0.gang) :
    let u := (t.arrives c a).waits c h .rendezvous
    ∃ x, u.crew? c.m.crew = some x ∧ x.uid = c.m.crew ∧ x.rdv = c.crew.rdv ++ [a] ∧ x.core = c.crew.core ∧
      u.rdvStep x = if b then some (u.mismatch x (x0 :: l))
        else if (x0 :: l).length = x0.gang.length ∧ !u.gangCovered x (gangOp x.uid (x0 :: l) x0.gang u.nextSeq) then some (u.release x (x0 :: l) x0.gang)
        else none := by
  intro u
  have hbase : u.latchBase = (t.arrives c a).latchBase := waits_latchBase (hstays.imp_left (arrives_preempting ..).trans)
  obtain ⟨x1, hx1, hrdv1, hcore1⟩ := arrives_crew hs a
  obtain ⟨x, hx, hrdv, hcore⟩ := crew_of_latchBase hbase hx1
  have hgroup : ∀ {j : Nat} {g : Group}, t.group? c.m.crew j = some g → ∃ g', x.groups[j]? = some g' ∧ g'.k = g.k ∧ g'.retired = g.retired := fun {j g} hg => by
    obtain ⟨g', hg', hk, hr⟩ := group_of_latchBase hbase ((arrives_group? t c a _ _).trans hg)
    rw [State.group?, hx] at hg'
    exact ⟨g', hg', hk, hr⟩
  have hticket : ∀ y ∈ x0 :: l, x.ticketAt y = .idle ∨ ∃ ids, x.ticketAt y = .done ids := fun y hy => by
    obtain ⟨g, hg, hk⟩ := hfree y hy
    obtain ⟨g', hg', hk', -⟩ := hgroup hg
    have hsame : x.ticketAt y = g.ticket y.ticket := by rw [Crew.ticketAt, hg', Option.map_some, Option.getD_some, Group.ticket, hk']; rfl
    rw [hsame]
    exact hk
  have hdead : ∀ k ∈ x0.gang, ((x.groups[k]?).map (·.retired)).getD true = false := fun k hk => by
    obtain ⟨g, hg, hr⟩ := hlive k hk
    obtain ⟨g', hg', -, hr'⟩ := hgroup hg
    rw [hg']
    exact hr'.trans hr
  have hidle : (x0 :: l).all (fun y => x.ticketAt y != .busy) = true := List.all_eq_true.mpr fun y hy => by
    obtain hk | ⟨ids, hk⟩ := hticket y hy <;> rw [hk] <;> rfl
  refine ⟨x, hx, State.crew?_uid hx, hrdv.trans hrdv1, hcore.trans hcore1, ?_⟩
  rw [rdvStep_eq (hrdv.trans hrdv1 ▸ htakes) (fun y hy cause info hk => ?_) hdead, hidle]
  · simp only [true_and]
  · obtain hk' | ⟨ids, hk'⟩ := hticket y hy <;> rw [hk'] at hk <;> cases hk

/-- The first arrival of a gang waits (R135). -/
theorem settleRdv_of_first (hrdv : c.crew.rdv = []) (hgang : 2 ≤ a.gang.length) (hfree : TicketFree t c.m.crew a) (hlive : AllLive t c.m.crew a.gang) :
    (((t.arrives c a).waits c h .rendezvous).settleRdv c.m.crew) = (t.arrives c a).waits c h .rendezvous := by
  have htakes : latchTakes (c.crew.rdv ++ [a]) [] = (a :: [], false) := by rw [hrdv]; rfl
  obtain ⟨x, hx, -, -, -, hstep⟩ := rdvStep_of_arrival hs hstays (h := h) htakes (by simpa using hfree) hlive
  refine settleRdv_of_none hx (hstep.trans ((if_neg Bool.false_ne_true).trans (if_neg fun hall => ?_)))
  have hone : 1 = a.gang.length := hall.1
  omega

variable {x0 : Arrival} {held : List Arrival} (hrdv : c.crew.rdv = x0 :: held) (hfree : ∀ x ∈ (x0 :: held) ++ [a], TicketFree t c.m.crew x)
  (hlive : AllLive t c.m.crew x0.gang) (hnodup : ((x0 :: held).map (·.grp)).Nodup) (hagree : ∀ x ∈ x0 :: held, ∀ y ∈ x0 :: held, Agrees x y)
  (hgang : ∀ x ∈ x0 :: held, x.grp ∈ x0.gang) (hnew : ∀ x ∈ x0 :: held, x.grp ≠ a.grp) (ha : a.grp ∈ x0.gang)

include hrdv hfree hlive hnodup hagree hgang hnew ha

/-- An arrival that differs ends the words of all members in GANGMISMATCH (R135). -/
theorem settleRdv_of_differing (hdiff : ¬ Agrees a x0) :
    let u := (t.arrives c a).waits c h .rendezvous
    ∃ x, x.uid = c.m.crew ∧ u.settleRdv c.m.crew = u.mismatch x ((x0 :: held) ++ [a]) := by
  intro u
  have htakes : latchTakes (c.crew.rdv ++ [a]) [] = (x0 :: (held ++ [a]), true) := hrdv ▸ latchTakes_differing hnodup hagree hgang hnew ha hdiff
  obtain ⟨x, hx, huid, hxrdv, -, hstep⟩ := rdvStep_of_arrival hs hstays (h := h) htakes hfree hlive
  have hall : x.rdv = x0 :: (held ++ [a]) := by rw [hxrdv, hrdv]; rfl
  have hdropped : (u.dropArrivals x.uid (x0 :: (held ++ [a]))).crew? x.uid = some { x with rdv := [] } := hall ▸ dropArrivals_crew (huid ▸ hx)
  obtain ⟨x1, hx1, hnil, -⟩ := crew_of_latchBase (mismatch_latchBase u x (x0 :: (held ++ [a]))) hdropped
  exact ⟨x, huid, settleRdv_of_last hx hstep (huid ▸ hx1) hnil⟩

/-- The last arrival of a gang releases its operation, where no copy is in flight to the core (R134, R135). -/
theorem settleRdv_of_last_member (hsame : Agrees a x0) (hcount : ((x0 :: held) ++ [a]).length = x0.gang.length) (hsb : t.scoreboard c.crew.core = []) :
    let u := (t.arrives c a).waits c h .rendezvous
    ∃ x, u.crew? c.m.crew = some x ∧ x.uid = c.m.crew ∧ x.rdv = (x0 :: held) ++ [a] ∧ x.core = c.crew.core ∧
      u.settleRdv c.m.crew = u.release x ((x0 :: held) ++ [a]) x0.gang := by
  intro u
  have htakes : latchTakes (c.crew.rdv ++ [a]) [] = (x0 :: (held ++ [a]), false) := hrdv ▸ latchTakes_same hnodup hagree hgang hnew ha hsame
  obtain ⟨x, hx, huid, hxrdv, hcore, hstep⟩ := rdvStep_of_arrival hs hstays (h := h) htakes hfree hlive
  have hall : x.rdv = x0 :: (held ++ [a]) := by rw [hxrdv, hrdv]; rfl
  have hempty : u.scoreboard x.core = [] := by
    rw [hcore, scoreboard_of_latchBase (waits_latchBase (hstays.imp_left (arrives_preempting ..).trans))]
    exact hsb
  obtain ⟨x1, hx1, hnil⟩ := release_crew (s := u) (c := x) (gang := x0.gang) (huid ▸ hx)
  rw [hall] at hx1
  refine ⟨x, hx, huid, hall, hcore, settleRdv_of_last hx (hstep.trans ((if_neg Bool.false_ne_true).trans (if_pos ⟨hcount, ?_⟩))) (huid ▸ hx1) hnil⟩
  rw [gangCovered_of_no_copies hempty]
  rfl

end

theorem if_isNone {α : Type} (o : Option Nat) (x y : α) : (if o.isNone then x else y) = if o = none then x else y := by
  cases o <;> rfl

/-- A released member: its ticket is busy and its word is over (R137). -/
theorem release_member {t : State} {c : Ctx} {a : Arrival} {h : Hdr} {x : Crew} {l : List Arrival} {gang : List Nat}
    (hstays : t.preempting c.m.crew c.m.grp = false ∨ c.m.ent = handlerIdx) (huid : x.uid = c.m.crew) (hnodup : (l.map (·.grp)).Nodup) (hgang : gang.Nodup)
    {y : Arrival} (hy : y ∈ l) (hmem : y.grp ∈ gang) (hfree : TicketFree t c.m.crew y) (hent : (t.ent? ⟨c.m.crew, y.grp, y.ent⟩).isSome = true) :
    let v := ((t.arrives c a).waits c h .rendezvous).release x l gang
    ∃ g g' e e', t.group? c.m.crew y.grp = some g ∧ v.group? c.m.crew y.grp = some g' ∧ g'.k = g.k.set y.ticket .busy ∧
      t.ent? ⟨c.m.crew, y.grp, y.ent⟩ = some e ∧ v.ent? ⟨c.m.crew, y.grp, y.ent⟩ = some e' ∧ e'.wait = none ∧ e'.pos = e.pos + 1 := by
  intro v
  have hstays' : (t.arrives c a).preempting c.m.crew c.m.grp = false ∨ c.m.ent = handlerIdx := hstays.imp_left (arrives_preempting ..).trans
  obtain ⟨g, hg, -⟩ := hfree
  obtain ⟨e, he⟩ := Option.isSome_iff_exists.mp hent
  obtain ⟨g1, hg1, hk1, -⟩ := group_of_latchBase (waits_latchBase (h := h) (w := .rendezvous) hstays') ((arrives_group? t c a _ _).trans hg)
  obtain ⟨e1, he1, hpos1⟩ := waits_ent (h := h) (w := .rendezvous) hstays' ((arrives_ent? t c a _).trans he)
  rw [← huid] at hg1 he1
  obtain ⟨g', hg', hk⟩ := release_ticket hnodup hy hgang hmem hg1
  obtain ⟨e', he', hwait, hpos⟩ := release_ent (gang := gang) hnodup hy he1
  rw [huid] at hg' he'
  exact ⟨g, g', e, e', hg, hg', by rw [hk, hk1], he, he', hwait, by rw [hpos, hpos1]⟩

/-- The ganged form of a word that arrives at the latch (R135, R137, R142). -/
theorem gangWord_of_arrives {i : Instr} {o : Op} {w : Body} {sparse : Bool} {s t : State} {c : Ctx} (hs : Starts i s t c)
    (hx : c.g.gang ≠ [] → (∀ cause info, c.g.ticket (ticketOf w.dst) ≠ .failed cause info) →
      exec i s = .next (((t.arrives c (arrivalOf t c o w sparse)).waits c w.hdr .rendezvous).settleRdv c.m.crew)) : GangWord i o w sparse s t c := by
  unfold GangWord
  intro a uid u live usable stays hgang hlive husable
  have hfreeA : TicketFree t uid a := husable
  have hexec : exec i s = .next (((t.arrives c a).waits c w.hdr .rendezvous).settleRdv c.m.crew) := hx hgang fun cause info hk => by
    obtain ⟨g, hg, hidle⟩ := hfreeA
    rw [starts_ticket hs hg] at hk
    obtain hk' | ⟨ids, hk'⟩ := hidle <;> cases hk'.symm.trans hk
  refine ⟨fun hrdv hlen => hexec.trans (congrArg _ ?_), fun x0 held hrdv hstays hheld hnodup hgang0 hagree hmem => ?_⟩
  · by_cases hstays : t.preempting c.m.crew c.m.grp = false ∨ c.m.ent = handlerIdx
    · exact settleRdv_of_first hs hstays hrdv hlen hfreeA hlive
    · obtain ⟨hpre, hm⟩ := not_or.mp hstays
      exact settleRdv_of_preempted hs (by simpa using hpre) hm hrdv rfl rfl
  · intro all
    have hnew : ∀ x ∈ x0 :: held, x.grp ≠ a.grp := fun x hx => (hheld x hx).2
    have hfree : ∀ x ∈ all, TicketFree t uid x := List.forall_mem_append.mpr ⟨fun x hx => (hheld x hx).1, List.forall_mem_singleton.mpr hfreeA⟩
    have hgrps : (all.map (·.grp)).Nodup := by
      rw [List.map_append]
      refine hnodup.append (List.nodup_singleton _) fun k hk hk' => ?_
      obtain ⟨x, hx, rfl⟩ := List.mem_map.mp hk
      exact hnew x hx (List.mem_singleton.mp hk')
    rw [← hgang0] at hlive hmem
    refine ⟨?_, fun hdiff hin ref href hlow => hexec.trans ?_⟩
    · intro hsame hcount hgnodup hin hsb hcore hents l
      rw [← hgang0] at hcount hgnodup hin
      obtain ⟨x, hxu, huid, hxrdv, hxcore, hsettle⟩ :=
        settleRdv_of_last_member hs hstays (h := w.hdr) hrdv hfree hlive hnodup hagree hmem hnew hin hsame hcount hsb
      have hbase := waits_latchBase (s := t.arrives c a) (h := w.hdr) (w := .rendezvous) (hstays.imp_left (arrives_preempting ..).trans)
      have hgangs : ∀ y ∈ all, y.grp ∈ x0.gang := List.forall_mem_append.mpr ⟨hmem, List.forall_mem_singleton.mpr hin⟩
      have hl : l = gangOrder all x0.gang := by rw [hgang0]; rfl
      obtain ⟨x1, hx1, hnil⟩ := release_crew (gang := x0.gang) (huid.symm ▸ hxu)
      rw [hxrdv, huid] at hx1
      have hmatrix := release_matrix (s := (t.arrives c a).waits c w.hdr .rendezvous) (c := x) (gang := x0.gang) all
        (by rw [hxcore, cores_length_of_latchBase hbase]; exact hcore)
      rw [hxcore, matrix_of_latchBase hbase] at hmatrix
      refine ⟨_, _, hexec.trans (congrArg _ hsettle), hmatrix, huid, rfl, ?_, ?_, ?_, ?_, ?_, rfl, ?_, fun y hy => ?_⟩
      · rw [hl]; rfl
      · rw [hl]; rfl
      · rw [hl]; rfl
      · rw [hl]; rfl
      · exact if_isNone x0.item.aReg _ _
      · rw [hx1]; exact congrArg some hnil
      · exact release_member hstays huid hgrps hgnodup hy (hgangs y hy) (hfree y hy) (hents y hy)
    · rw [← hgang0] at hin
      obtain ⟨x, huid, hsettle⟩ := settleRdv_of_differing hs hstays (h := w.hdr) hrdv hfree hlive hnodup hagree hmem hnew hin hdiff
      rw [hsettle, State.mismatch, gangInfo_eq hgrps href hlow, huid]
      rfl

/-! ### MMA and MMAS -/

theorem mmaItem_eq (c : Ctx) (w : Body) (sparse : Bool) : c.mmaItem w sparse = mmaOf c w sparse := by
  unfold Ctx.mmaItem mmaOf
  cases w.a <;> rfl

section

variable {o : Op} {w : Body} {sparse : Bool} {s t : State} {c : Ctx} (h : Acts (o.mk w) s t c) (hexec : exec (o.mk w) s = mmaWord o w sparse s)

include h hexec

theorem mma_faults {cause : BitVec 8} {info : Word} (hf : c.mmaFault w sparse = some (cause, info)) : Traps (o.mk w) s t c cause info := by
  refine traps_of_trapWord (hexec.trans ?_)
  rw [mmaWord, matWord_acts h]
  dsimp only
  rw [hf]

variable (hf : c.mmaFault w sparse = none)

include hf

/-- The operation of one group (R267, R268). -/
theorem mma_alone (hgang : c.g.gang = []) : exec (o.mk w) s =
    t.engineWord c w (if (mmaOf c w sparse).aReg = none then [c.val w.a 0 0] else []) (.mma (mmaOf c w sparse))
      (((t.group? c.m.crew c.m.grp).getD default).earlyOf (bodyUses o w).vregs) := by
  rw [hexec, mmaWord, matWord_acts h]
  dsimp only
  rw [hf, mmaItem_eq, ← if_isNone]
  exact if_pos hgang

/-- The arrival of a ganged group (R135). -/
theorem mma_ganged (hgang : c.g.gang ≠ []) (hk : ∀ cause info, c.g.ticket (ticketOf w.dst) ≠ .failed cause info) : exec (o.mk w) s =
    .next (((t.arrives c (arrivalOf t c o w sparse)).waits c w.hdr .rendezvous).settleRdv c.m.crew) := by
  rw [hexec, mmaWord, matWord_acts h]
  dsimp only
  rw [hf, mmaItem_eq]
  refine (if_neg hgang).trans ((withTicket_of_ok hk ..).trans ?_)
  rw [if_isNone]
  rfl

/-- The failed ticket of a ganged group (R137). -/
theorem mma_failed (hgang : c.g.gang ≠ []) {cause : BitVec 8} {info : Word} (hk : c.g.ticket (ticketOf w.dst) = .failed cause info) : exec (o.mk w) s =
    .next ((t.modGroup c.m.crew c.m.grp (fun g => g.setTicket (ticketOf w.dst) .idle)).raise c.m cause info) := by
  rw [hexec, mmaWord, matWord_acts h]
  dsimp only
  rw [hf]
  exact (if_neg hgang).trans (withTicket_of_failed hk ..)

end

/-- Settles O40: MMA and MMAS alone or at the latch, the other engine operations by their faults, TWAIT by its ticket. -/
theorem matrixWordsIssue : Obligations.MatrixWordsIssue := by
  unfold Obligations.MatrixWordsIssue
  intro w s t c u tileOk tileInfo early handle mma
  have htile : c.tileFault w = if tileOk then none else some (0x18, tileInfo) := tileFault_eq c w
  have hmma : ∀ (o : Op) (sparse : Bool), exec (o.mk w) s = mmaWord o w sparse s → mma (o.mk w) o sparse := fun o sparse hexec h =>
    ⟨fun cause info hf => mma_faults h hexec hf, fun hf hgang => engineIssues_of_engineWord h.1 (mma_alone h hexec hf hgang),
      fun hf => ⟨gangWord_of_arrives h.1 (mma_ganged h hexec hf), fun hgang cause info hk => mma_failed h hexec hf hgang hk⟩⟩
  refine ⟨hmma .mma false rfl, hmma .mmas true rfl, fun h => ?_, fun h => ?_, fun h => ⟨fun hr => ?_, fun x hr => ?_⟩, fun h => ?_⟩
  · intro dst src len side fault
    refine ⟨fun hlen => traps_of_misuse ((wbld_eq h).trans (if_pos hlen)), fun hmin hmax => ?_⟩
    have hx := (wbld_eq h).trans (if_neg (not_or.mpr ⟨Nat.not_lt.mpr hmin, Nat.not_lt.mpr hmax⟩))
    exact ⟨fun cause info hf => traps_of_orFault hx hf, fun hf => engineIssues_of_engineWord h.1 (eq_of_orFault hx hf)⟩
  · exact ⟨fun hbad => traps_of_orFault (amzero_eq h) (htile.trans (if_neg hbad)),
      fun hgood => engineIssues_of_engineWord h.1 (eq_of_orFault (amzero_eq h) (htile.trans (if_pos hgood)))⟩
  · exact traps_of_misuse (amcvt_unheld h hr)
  · intro f size hmxb hfmt hsw hgood hsize
    have hbytes : efmtBytes (cvtFmt w.ty2) (w.tm * w.tn) ≤ resvBytes x := (efmtBytes_cvtFmt w.ty2 (w.tm * w.tn)).trans_le hsize
    exact engineIssues_of_engineWord h.1 (eq_of_orFault (amcvt_held h hr) (amcvtFault_eq_none hmxb hfmt hsw (htile.trans (if_pos hgood)) hbytes))
  · intro k idle
    obtain ⟨g, hg⟩ := starts_group h.1
    have hticket : c.g.ticket k = g.ticket k := starts_ticket h.1 hg k
    refine ⟨twait_busy h, fun hk => ?_, fun ids hk => ?_, fun cause info hk => twait_failed h hk⟩
    · refine groupRuns_of_issued hg ((twait_over h (.inl hk)).trans ?_)
      rw [clearTicket_of_idle hg (hticket.symm.trans hk)]
      rfl
    · refine groupRuns_of_issued hg ((twait_over h (.inr ⟨ids, hk⟩)).trans ?_)
      rw [clearTicket_of_done hg (hticket.symm.trans hk)]
      rfl

end Sys2Proof.Machine
end
